-- ==== Sys2Proof/Word.lean ====
section
/-! DEFINITION. The word types of the KJ-7250 and their plainest arithmetic. -/

namespace Sys2Proof

/-- A byte of memory. -/
abbrev Byte := BitVec 8
/-- A register of the management space: every register is 64 bits wide (ch. 0, Registers). -/
abbrev W64 := BitVec 64
/-- A 32-bit binary32 operand or result. -/
abbrev W32 := BitVec 32
/-- A command word: 32 bytes (ch. 3, Command words). -/
abbrev CmdWord := BitVec 256

end Sys2Proof
end

