-- ==== Sys2Proof/Packet.lean ====
section
/-! DEFINITION. The messages that reach or leave the hub as operands of commands: Nelpin packets and flits (ch. 12, 13),
host requests (ch. 10, 11) and synchronisation requests, as plain data. -/

namespace Sys2Proof

/-- A packet (Tables 13.3 and 13.4): its header fields and its payload bytes after the 32-byte header. -/
structure Packet where
  ptype : Nat
  dst : Nat
  src : Nat
  tag : Nat
  status : Nat
  hops : Nat
  resend : Bool
  nocomb : Bool
  addr : Nat
  stamp : Nat
  spart : Nat
  sepoch : Nat
  word3 : Nat
  payload : List Byte
  deriving DecidableEq, Repr

/-- A flit (Tables 12.3 and 12.4): trailer fields, its virtual channel and start field (R446), and its payload as
fifteen 16-byte units. For a seal: the first sequence number, the count and the credit counts (Table 12.5). -/
structure Flit where
  kind : Nat
  seq : Nat
  ack : Nat
  nak : Bool
  phase : Bool
  timed : Bool
  channel : Nat
  start : Nat
  units : List Nat
  first : Nat
  count : Nat
  credits : List Nat
  deriving DecidableEq, Repr

/-- What an Eloan root's envelope carries (R490 to R492): a window request of a tenant's key hash (number, kind, first, count,
region, rights), its grant with the region's key ID, its revocation, the receipt of a removal. -/
inductive Envelope where
  | request (number keyHash kind first count region : Nat) (rd wr atm : Bool)
  | grant (number keyId : Nat)
  | revoke (number : Nat)
  | receipt (number : Nat)
  deriving DecidableEq, Repr

/-- A line-mode request of a host in its CXL.mem form (Table 11.4). -/
inductive CxlOp where
  | memRd (metaValue : Nat)
  | memInv (metaValue : Nat)
  | memWr (metaValue : Nat)
  | memClnEvct
  | other
  deriving DecidableEq, Repr

/-- The requester of a synchronisation operation: a thread of a hub, or a host agent (Table 3.10). -/
inductive Requester where
  | thread (hub part core ctx : Nat)
  | host (agent : Nat)
  deriving DecidableEq, Repr

/-- A synchronisation operation as it reaches an object's home: the requester and its tag, the object's name within the
hub (partition · 6,144 + index), the operation's condition or selector and immediate, and the context it runs under. -/
structure SyncReq where
  who : Requester
  tag : Nat
  obj : Nat
  cond : Nat
  imm : Nat
  context : Nat
  /-- The packet that brought the operation from another hub. -/
  packet : Option Packet
  deriving DecidableEq, Repr

/-- A coherent request as it reaches its line's home (Table 11.4): a request of a host link of this hub that has been passed
on, by its agent, its tag and the hub-local line number, or the packet that brings it from another hub. -/
structure CohReq where
  agent : Nat
  tag : Nat
  line : Nat
  packet : Option Packet
  deriving DecidableEq, Repr

end Sys2Proof
end

