-- ==== Sys2Proof/Syntax.lean ====
section
/-! DEFINITION. The commands of the KJ-7250: one constructor per row of spec/opcode_table.json, in the table's order, each
with the operands that the outside world or another unit of the hub names when it delivers the command. -/

namespace Sys2Proof

/-- The commands (one per row of the table). -/
inductive Instr where
  /-- OPEN (R68): At each tick edge the hub latches the tick number, commits armed pages, processes withdrawals and admissions, resumes stalled instances and starts new ones. -/
  | open_
  /-- WATCH (R86): At the WATCH point the hub samples the progress of every running primary-path instance. -/
  | watch
  /-- DEADLINE (R89): At D every instance that is not complete stalls until the next OPEN. -/
  | deadline
  /-- CLOSE (R71): At CLOSE completed results are published as a release, completion records are written and input logs are sealed. -/
  | close
  /-- TICK_FRAME (R61): A tick frame received on the ring times the hub's edge and checks the tick number. -/
  | tickFrame (frame : List Byte)
  /-- BEAT_FRAME (R57): A beat frame with a good CRC received on the ring steers the hub's timer. -/
  | beatFrame (frame : List Byte)
  /-- BEAT_SEND (R57): Every 1 ms between edges the driving hub sends a beat frame unless the next edge is under 4 us away. -/
  | beatSend
  /-- RING_LOST (R63): A follower that loses the ring idle pattern or sees two bad CRCs switches to in-band marks. -/
  | ringLost
  /-- SOURCE_LOST (R65): A hub with no tick source enters HOLDOVER on its steered timer and sets INT_RAW bit 0. -/
  | sourceLost
  /-- UNLOCKED_TIMEOUT (R65): After 20 ms without a source the hub reports UNLOCKED and sets INT_RAW bit 1. -/
  | unlockedTimeout
  /-- BYPASS_SWITCH (R60): A hub opens or closes its ring bypass at the next quiet gap. -/
  | bypassSwitch
  /-- RING_RETURN (R655): The driving hub checks a frame returning around the ring against the frame it sent. -/
  | ringReturn (frame : Option (List Byte))
  /-- ADM_GO_ADMIT (R76): A write of TICK_ADM_GO.admit queues the budget record at TICK_ADM_ADDR or refuses it with QUEUE_FULL. -/
  | admGoAdmit
  /-- ADM_GO_WITHDRAW (R76): A write of TICK_ADM_GO.withdraw queues a withdrawal of the named handle. -/
  | admGoWithdraw (handle : Nat)
  /-- MARK (R472): An accepted Mark places the master's edge and domain time and is forwarded to child ports with corrected delay. -/
  | mark (port : Nat) (packet : Packet)
  /-- WEDGE (R96): A received Wedge aborts the named job's instances of that tick and is forwarded to the rest of its hub set. -/
  | wedge (packet : Packet)
  /-- RECOMPUTE_START (R547): An aborted instance restarts once from the first word of its path with logged inputs. -/
  | recomputeStart (handle : Nat)
  /-- COMMAND_FETCH (R102): A thread fetches its next command word as an M-space read through the operand cache. -/
  | commandFetch (core : Nat)
  /-- NOP (R108): Control word that does nothing. -/
  | nop (core : Nat)
  /-- END (R108): Control word that makes the thread ENDED, faulting LOCK_HELD if locks are held. -/
  | end_ (core : Nat)
  /-- JUMP (R108): Control word that sets pc to the displaced target. -/
  | jump (core : Nat)
  /-- CALL (R108): Control word that pushes the return address and jumps, faulting STACK at depth 8. -/
  | call (core : Nat)
  /-- RET (R108): Control word that pops pc, or acts as END at depth 0. -/
  | ret (core : Nat)
  /-- SETC (R108): Control word that sets a counter to the immediate. -/
  | setc (core : Nat)
  /-- ADDC (R108): Control word that adds the immediate to a counter modulo 2^64. -/
  | addc (core : Nat)
  /-- LOOP (R108): Control word that decrements a non-zero counter and branches. -/
  | loop (core : Nat)
  /-- BRC (R108): Control word that branches when a source compares true against the immediate. -/
  | brc (core : Nat)
  /-- BRS (R108): Control word that samples a synchronisation object once and branches on its status. -/
  | brs (core : Nat)
  /-- WAIT (R124): Control word that waits on a synchronisation object by its kind. -/
  | wait (core : Nat)
  /-- SIGNAL (R124): Control word that signals a synchronisation object by its kind. -/
  | signal (core : Nat)
  /-- WAITQ (R108): Control word that waits until every command pushed to the selected queues has completed. -/
  | waitq (core : Nat)
  /-- PROGRESS (R109): Control word that adds the immediate to the instance progress counter. -/
  | progress (core : Nat)
  /-- LAUNCH (R110): Control word that queues an admission or withdrawal request from the thread. -/
  | launch (core : Nat)
  /-- SINIT (R129): Control word that sets an object's kind and initial value. -/
  | sinit (core : Nat)
  /-- QMODE (R113): Control word that sets ordering and cache attribute of the selected engine queues. -/
  | qmode (core : Nat)
  /-- ENGINE_PUSH (R114): An engine word is pushed into the issuing thread's queue for its own core's engine. -/
  | enginePush (core : Nat)
  /-- QUEUE_PUSH_RETRY (R114): A thread in WAIT_QUEUE pushes its word again when the queue has room. -/
  | queuePushRetry (core : Nat) (ctx : Nat)
  /-- CHEAPER_RESTART (R102): After its drain ends a switching thread restarts on the cheaper list with the sampled progress in pr. -/
  | cheaperRestart (core : Nat) (ctx : Nat)
  /-- COMMAND_COMPLETE (R116): An engine command completes, taking its signal, progress increment and WAITQ count in queue order. -/
  | commandComplete (core : Nat) (unit : Nat) (ctx : Nat)
  /-- WATCHDOG_EXPIRE (R118): An engine command reaching its bound stops, its queue is discarded and its thread faults WDOG. -/
  | watchdogExpire (core : Nat) (unit : Nat) (seq : Nat)
  /-- QMON_FIRE (R119): A queue head not popped within the monitor limit sets INT_RAW and writes a fault record. -/
  | qmonFire (core : Nat) (ctx : Nat) (unit : Nat)
  /-- SYNCOP_WAIT (R124): A wait arriving at an object's home is granted or queued by the object's kind. -/
  | syncopWait (req : SyncReq)
  /-- SYNCOP_SIGNAL (R124): A signal arriving at an object's home posts, arrives, releases or sets by kind. -/
  | syncopSignal (req : SyncReq)
  /-- SYNCOP_SINIT (R129): An initialisation arriving at an object's home sets its kind unless it has waiters. -/
  | syncopSinit (req : SyncReq)
  /-- SYNCOP_SAMPLE (R108): A sample arriving at an object's home returns its state. -/
  | syncopSample (req : SyncReq)
  /-- SYNCOP_CANCEL (R127): A cancel at the home answers TIMEOUT if the waiter is still queued or the grant already made. -/
  | syncopCancel (req : SyncReq)
  /-- SYNCOP_ABANDON (R135): An abandon message marks a lock abandoned when its holder is the named thread. -/
  | syncopAbandon (req : SyncReq)
  /-- SYNC_ANSWER (R108): A final status from an object's home arrives at a waiting thread and is written to its counter. -/
  | syncAnswer (core : Nat) (ctx : Nat)
  /-- WAIT_TIMEOUT (R127): A waiting thread's timeout expires and it sends a cancel to the object's home. -/
  | waitTimeout (core : Nat) (ctx : Nat)
  /-- SYNC_RETRY (R130): A thread answered BUSY_RETRY repeats its operation every 1 us. -/
  | syncRetry (core : Nat) (ctx : Nat)
  /-- SYNC_STATE_READ (R123): An 8-byte load in sync-object space returns the object's state word. -/
  | syncStateRead (obj : Nat)
  /-- SYNC_WAITERS_CLEAR (R130): A write of SYNC_WAITERS.clear sets high to in_use. -/
  | syncWaitersClear (part : Nat)
  /-- TRIGGER (R139): A remote procedure trigger is checked and written to its argument ring or refused. -/
  | trigger (packet : Packet)
  /-- CORE_FLUSH (R244): A write of CORE_FLUSH.flush drops every line of the core's operand cache. -/
  | coreFlush (core : Nat)
  /-- OPERAND_FILL (R245): A fill returning to the operand cache is installed unless an invalidation intervened. -/
  | operandFill (core : Nat)
  /-- MMA (R162): TE command that multiplies tiles into exact or FP32 accumulators and writes the outputs. -/
  | mma (core : Nat)
  /-- VMAP (R167): VE command that applies an element-wise function. -/
  | vmap (core : Nat)
  /-- VBIN (R167): VE command that applies a binary element-wise operation. -/
  | vbin (core : Nat)
  /-- VRED (R169): VE command that reduces rows by exact sum, max or min. -/
  | vred (core : Nat)
  /-- VQNT (R170): VE command that quantises into MX, FP8 or integer formats. -/
  | vqnt (core : Nat)
  /-- PADD (R163): VE command that adds PARTIAL records. -/
  | padd (core : Nat)
  /-- PCVT (R155): VE command that converts PARTIAL records to an output format. -/
  | pcvt (core : Nat)
  /-- VDQ (R185): VE command that quantises FP32 differences into DLT2 or DLT3 blocks. -/
  | vdq (core : Nat)
  /-- SLOAD (R224): SE command that writes a microcode image into the store. -/
  | sload (core : Nat)
  /-- SCAN (R214): SE command that scores a range, inverted lists or a rerank list into a top-k list. -/
  | scan (core : Nat)
  /-- GPROBE (R233): SE command that probes one graph shard into a top-k list. -/
  | gprobe (core : Nat)
  /-- KMERGE (R234): SE command that merges top-k lists canonically. -/
  | kmerge (core : Nat)
  /-- CANDIDATE_INSERT (R215): The SE insertion unit takes a queued candidate and inserts it if it still passes the threshold. -/
  | candidateInsert (core : Nat)
  /-- UC_NOP (R219): Microword that does nothing. -/
  | ucNop (core : Nat)
  /-- UC_JMP (R219): Microword that jumps to tgt. -/
  | ucJmp (core : Nat)
  /-- BR (R219): Microword that branches on a scalar comparison. -/
  | br (core : Nat)
  /-- EMITI (R213): Microword that emits an integer key and ends the candidate. -/
  | emiti (core : Nat)
  /-- EMITF (R213): Microword that emits an FP32 key and ends the candidate. -/
  | emitf (core : Nat)
  /-- UC_RET (R222): Microword that ends the prologue. -/
  | ucRet (core : Nat)
  /-- SKIP (R213): Microword that ends the candidate with no key. -/
  | skip (core : Nat)
  /-- VDOT (R219): Microword that accumulates lane products. -/
  | vdot (core : Nat)
  /-- VSQD (R219): Microword that accumulates squared lane differences. -/
  | vsqd (core : Nat)
  /-- VABSD (R219): Microword that accumulates absolute lane differences. -/
  | vabsd (core : Nat)
  /-- VWABSD (R219): Microword that accumulates weighted absolute differences. -/
  | vwabsd (core : Nat)
  /-- VXPOP (R219): Microword that accumulates popcounts of XOR. -/
  | vxpop (core : Nat)
  /-- VLUT (R219): Microword that accumulates table entries indexed by codes. -/
  | vlut (core : Nat)
  /-- VCLR (R219): Microword that clears the lane accumulators. -/
  | vclr (core : Nat)
  /-- VSQDX (R219): Microword that accumulates squared differences with a register offset. -/
  | vsqdx (core : Nat)
  /-- RSUM (R219): Microword that sums the lane accumulators into a scalar. -/
  | rsum (core : Nat)
  /-- SMOV (R219): Microword that loads a scalar immediate. -/
  | smov (core : Nat)
  /-- SADD (R219): Microword that adds two scalars. -/
  | sadd (core : Nat)
  /-- SSUB (R219): Microword that subtracts two scalars. -/
  | ssub (core : Nat)
  /-- SMUL (R219): Microword that multiplies two scalars. -/
  | smul (core : Nat)
  /-- SNEG (R219): Microword that negates a scalar. -/
  | sneg (core : Nat)
  /-- SADDI (R219): Microword that adds an immediate to a scalar. -/
  | saddi (core : Nat)
  /-- FCVT (R220): Microword that converts an integer scalar to FP32. -/
  | fcvt (core : Nat)
  /-- FMUL (R220): Microword that multiplies in FP32. -/
  | fmul (core : Nat)
  /-- FADD (R220): Microword that adds in FP32. -/
  | fadd (core : Nat)
  /-- FRSQ (R220): Microword that computes rsqrt in FP32. -/
  | frsq (core : Nat)
  /-- FNEG (R220): Microword that inverts the FP32 sign bit. -/
  | fneg (core : Nat)
  /-- STH (R220): Microword that stores a clamped 16-bit entry into aux. -/
  | sth (core : Nat)
  /-- SE_BMC_FLUSH (R228): A write of SE_BMC_CTRL.flush drops every line of the cluster's Sieve bitmap cache. -/
  | seBmcFlush (cluster : Nat)
  /-- COPY (R323): ME command that copies bytes between spaces or addresses. -/
  | copy (core : Nat)
  /-- GATHER (R323): ME command that gathers indexed elements. -/
  | gather (core : Nat)
  /-- SCATTER (R323): ME command that scatters elements to indexed addresses. -/
  | scatter (core : Nat)
  /-- FATOM (R453): ME command that issues atomics to local or remote targets. -/
  | fatom (core : Nat)
  /-- FTRIG (R453): ME command that sends a remote procedure trigger. -/
  | ftrig (core : Nat)
  /-- HAUL (R292): ME command that fetches layers into Face slots under the program's semaphores. -/
  | haul (core : Nat)
  /-- HAUL_DROP (R304): ME command that frees a resident Haul table entry. -/
  | haulDrop (core : Nat)
  /-- DESCRIPTOR_SUBMIT (R324): An ME descriptor is translated and permission-checked when it takes a free slot. -/
  | descriptorSubmit (core : Nat)
  /-- LAYER_LAND (R292): When a layer's copies are performed its tag is set and full_obj is posted in layer order. -/
  | layerLand (entry : Nat)
  /-- HAUL_REFILL (R287): After a partition returns Haul rewrites the Face lines it missed and sets INT_RAW bit 2. -/
  | haulRefill (part : Nat)
  /-- POOL_PLACE (R275): A place request on HUB_POOL_REQ fills frames from the hint's pools, zeroes them and reports them. -/
  | poolPlace (region : Nat) (pmask : Nat) (frames : Nat)
  /-- POOL_FREE (R279): A free request on HUB_POOL_REQ returns listed frames to their pools. -/
  | poolFree (region : Nat) (frames : Nat)
  /-- LOAD (R309): Context operation that loads a descriptor, invalidates and increments the epoch. -/
  | load (context : Nat)
  /-- UNLOAD (R309): Context operation that invalidates a context unless it is in use. -/
  | unload (context : Nat)
  /-- INV_RANGE (R309): Context operation that invalidates translations of a range. -/
  | invRange (context : Nat) (bump : Bool)
  /-- INV_CTX (R309): Context operation that invalidates every translation of a context. -/
  | invCtx (context : Nat) (bump : Bool)
  /-- INV_ALL (R309): Context operation that invalidates every translation of every context. -/
  | invAll (bump : Bool)
  /-- INVALIDATION_DONE (R318): An invalidation completes when removed entries' accesses are performed, clearing busy and setting INT_RAW bit 0. -/
  | invalidationDone
  /-- EPOCH_INCREMENT (R327): A held epoch increment takes effect once no live descriptor would fall 2^31 behind. -/
  | epochIncrement (context : Nat)
  /-- XLT_DRAIN (R328): A write to XLT_DRAIN arms a drain watch for a context at its current epoch. -/
  | xltDrain (context : Nat)
  /-- DRAIN_DONE (R328): A drain watch completes when no live descriptor carries an older epoch. -/
  | drainDone
  /-- WALK_COMPLETE (R317): A page-table walk returns and fills both TLBs or faults. -/
  | walkComplete (core : Nat)
  /-- HOST_LINK_UP (R340): A host link finishes training and comes up. -/
  | hostLinkUp (link : Nat) (width : Nat) (rate : Nat) (noFlit : Bool) (memBi : Bool)
  /-- HOST_LINK_LOSS_TIMEOUT (R370): A link out of L0 for loss_us is declared lost. -/
  | hostLinkLossTimeout (link : Nat)
  /-- PRESENCE_LOST (R370): Presence-detect loss declares the port's links lost at once. -/
  | presenceLost (port : Nat)
  /-- IDE_FAILURE (R341): An IDE integrity failure ends the link from the failing flit. -/
  | ideFailure (link : Nat)
  /-- PERST (R660): Assertion of hport_q_perst_n resets both links of the port. -/
  | perst (port : Nat)
  /-- HOST_RETRAIN (R340): A write of HPORT_CFG.retrain takes both links of a port to detect. -/
  | hostRetrain (port : Nat)
  /-- CXL_MEM_REQUEST (R347): A line-mode request from a host is mapped, checked against its region and refused or passed on. -/
  | cxlMemRequest (link : Nat) (op : CxlOp) (dpa : Nat) (tag : Nat) (data : List Byte) (mask : Nat) (poison : Bool)
  /-- MAP_INVALIDATE (R346): A write of HPORT_LINK_MAPINV.go removes every cached host map entry of the link. -/
  | mapInvalidate (link : Nat)
  /-- MAPINV_DONE (R346): The host map invalidation completes when requests translated with removed entries are performed. -/
  | mapinvDone (link : Nat)
  /-- SET (R352): Region operation that writes a region entry, recalling copies when needed. -/
  | set_ (index : Nat)
  /-- FREE (R353): Region operation that invalidates a region entry. -/
  | free (index : Nat)
  /-- RGN_READ (R350): Region operation that loads a region entry into HUB_RGN_ENTRY. -/
  | rgnRead (index : Nat)
  /-- SHG_SYNC (R354): Region operation that rereads a share group and recalls copies of agents no longer in it. -/
  | shgSync (group : Nat)
  /-- SQ_TAIL (R367): A submission doorbell write makes new entries available for fetching. -/
  | sqTail (queue : Nat) (tail : Nat)
  /-- CQ_HEAD (R367): A completion doorbell write frees completion ring space and releases held completions. -/
  | cqHead (queue : Nat) (head : Nat)
  /-- QUEUE_RESET (R369): A write of CTRL.reset aborts in-flight commands, empties the queue and clears enable. -/
  | queueReset (queue : Nat)
  /-- QUEUE_FETCH (R367): A queue fetches the next submission entry in ring order. -/
  | queueFetch (queue : Nat) (entry : List Byte)
  /-- QUEUE_NOP (R365): Queue operation that does nothing. -/
  | queueNop (queue : Nat)
  /-- COPY_IN (R365): Queue operation that writes host bytes into the store. -/
  | copyIn (queue : Nat) (data : List Byte) (poison : Bool)
  /-- COPY_OUT (R365): Queue operation that writes store bytes to the host. -/
  | copyOut (queue : Nat)
  /-- PAGE_OUT (R357): Queue operation that leases a page into host memory. -/
  | pageOut (queue : Nat)
  /-- PAGE_IN (R360): Queue operation that returns a leased page and ends the lease. -/
  | pageIn (queue : Nat) (data : List Byte) (poison : Bool)
  /-- SYNC (R365): Queue operation that performs SINIT, SIGNAL or WAIT on a synchronisation object. -/
  | sync (queue : Nat)
  /-- ADMIT (R365): Queue operation that queues an admission request. -/
  | admit_ (queue : Nat)
  /-- WITHDRAW (R365): Queue operation that queues a withdrawal. -/
  | withdraw (queue : Nat)
  /-- QUEUE_COMPLETION (R366): A completed command's entry is written to the completion ring, then MSI-X if requested. -/
  | queueCompletion (queue : Nat)
  /-- HOST_READ_TIMEOUT (R368): A host read unanswered after 50 ms completes its command with ACCESS and poisons destinations. -/
  | hostReadTimeout (queue : Nat) (cid : Nat)
  /-- LOCK_INTERFACE (R369): TDISP LOCK_INTERFACE latches HPORT_Q_BIND into the TDI. -/
  | lockInterface (queue : Nat)
  /-- STOP_INTERFACE (R369): TDISP STOP_INTERFACE prepares a TDI to leave ERROR. -/
  | stopInterface (queue : Nat)
  /-- RDCUR (R393): A current read takes effect at the line's ordering point without granting a copy. -/
  | rdcur (req : CohReq)
  /-- RDS (R393): A shared read grants a Shared copy at the ordering point. -/
  | rds (req : CohReq)
  /-- RDM (R393): A host read for ownership invalidates others and grants Modified. -/
  | rdm (req : CohReq)
  /-- INVM (R393): A host invalidate for ownership grants Modified without data. -/
  | invm (req : CohReq)
  /-- WRCUR (R393): A write from a non-owner invalidates copies and writes the line. -/
  | wrcur (req : CohReq)
  /-- WRBK (R393): A write-back from the recorded owner writes the line. -/
  | wrbk (req : CohReq) (metaS : Bool)
  /-- EVICT (R393): An eviction removes the holder from the directory entry. -/
  | evict (req : CohReq)
  /-- ATOMIC (R451): An atomic is applied exactly once at the Seam or memory-controller site and its result cached. -/
  | atomic (packet : Packet)
  /-- TRANSACTION_CLOSE (R378): A Seam transaction closes when its last answer arrives and its effect is written. -/
  | transactionClose (line : Nat)
  /-- BIRSP (R381): A host's back-invalidate response arrives at the home. -/
  | birsp (line : Nat) (agent : Nat) (data : Option (List Byte)) (keepS : Bool)
  /-- BICONFLICT (R382): A host BIConflict is answered with BI-ConflictAck by its request's position. -/
  | biconflict (agent : Nat) (line : Nat) (tag : Nat)
  /-- INV (R445): An Inv arriving at a holder hub drops its proxy copy and is answered InvAck. -/
  | inv (packet : Packet)
  /-- FWD (R396): A Fwd arriving at the owner's link hub is acknowledged and snooped to the host. -/
  | fwd (packet : Packet)
  /-- INVACK (R393): An InvAck arrives at the home for a waiting transaction. -/
  | invack (packet : Packet)
  /-- FWDACK (R396): A FwdAck arrives at the home and stops its forward timer. -/
  | fwdack (packet : Packet)
  /-- FWDDATA (R396): Forwarded data arrives at the requester with its grant. -/
  | fwddata (packet : Packet)
  /-- FWDDONE (R396): FwdDone arrives at the home with the owner's answer. -/
  | fwddone (packet : Packet)
  /-- BIRSP_TIMEOUT (R403): A BIRsp not received in 100 us drops or poisons the holder and sets a silent mark. -/
  | birspTimeout (line : Nat) (agent : Nat)
  /-- FWDACK_TIMEOUT (R403): A FwdAck not received in 50 us is handled as a BIRsp timeout. -/
  | fwdackTimeout (line : Nat) (agent : Nat)
  /-- INVACK_TIMEOUT (R403): An InvAck not received in 50 us drops the hub with a silent mark. -/
  | invackTimeout (line : Nat) (agent : Nat)
  /-- LEASE_INSTALL (R401): A seam die installs a lease record and recalls the page's copies. -/
  | leaseInstall (die : Nat)
  /-- ATOMIC_BUFFER_EVICT (R398): A line leaves the Seam atomic buffer and is written back to its line cache. -/
  | atomicBufferEvict (die : Nat) (line : Nat)
  /-- SWEEP (R406): The seam die's sweep reads the next bucket, purging marked agents and recalling named regions. -/
  | sweep (die : Nat)
  /-- FENCE_CLEAR (R406): A write of SEAM_FENCE.clear clears a swept silent mark. -/
  | fenceClear (die : Nat)
  /-- RESERVE_REWRITE (R388): After a partition returns its directory reserve is rewritten from the other copies. -/
  | reserveRewrite (die : Nat) (part : Nat)
  /-- DATA_FLIT (R420): A received data flit is accepted, discarded as duplicate or triggers a replay request. -/
  | dataFlit (port : Nat) (flit : Flit)
  /-- SEAL_FLIT (R416): A received seal is verified and releases its group and credit, or requests replay. -/
  | sealFlit (port : Nat) (flit : Flit) (verified : Bool)
  /-- SEAL_SEND (R416): The transmitter closes a group with a seal flit. -/
  | sealSend (port : Nat)
  /-- NAK_RECEIVE (R425): A received nak applies its ack and replays every later entry. -/
  | nakReceive (port : Nat) (ack : Nat)
  /-- NAK_RESEND (R424): A nak-pending receiver resends nak after 1 us, going down at nak_limit. -/
  | nakResend (port : Nat)
  /-- REPLAY_TIMEOUT (R426): No new ack for replay_us replays from the last ack, going down at replay_limit. -/
  | replayTimeout (port : Nat)
  /-- PROBE (R435): A received probe is answered with a probe reply carrying T2 and T3. -/
  | probe (port : Nat) (t1 : Nat)
  /-- PROBE_REPLY (R436): A probe reply yields a delay result for the held delay. -/
  | probeReply (port : Nat) (t1 : Nat) (t2 : Nat) (t3 : Nat)
  /-- PROBE_SEND (R436): An ACTIVE port sends a probe every 1 ms. -/
  | probeSend (port : Nat)
  /-- LANE_FAIL (R431): A failing receive lane sends a retrain request and both sides enter RETRAIN. -/
  | laneFail (port : Nat) (lane : Nat)
  /-- RETRAIN_REQUEST (R431): A received retrain request takes the port into RETRAIN. -/
  | retrainRequest (port : Nat) (healthy : Nat)
  /-- RETRAIN_DONE (R431): RETRAIN ends in ACTIVE at the new width and replays from the exchanged seal. -/
  | retrainDone (port : Nat) (healthy : Nat) (lastSeal : Nat) (credits : List Nat)
  /-- LANE_RECOVER (R432): A retested lane healthy for 100 ms may widen the port. -/
  | laneRecover (port : Nat) (lane : Nat)
  /-- PARTNER_DETECT (R427): A partner signal held 10 us in DETECT moves the port to EQUALIZE. -/
  | partnerDetect (port : Nat)
  /-- TRAINING_STEP (R427): A training state completes and the port moves to the next state. -/
  | trainingStep (port : Nat) (healthy : Nat)
  /-- PARAMS (R428): Exchanged training parameters are accepted or refuse the partner. -/
  | params (port : Nat) (fields : List Nat)
  /-- SECURE (R497): The Eloan roots authenticate each other and derive the session secret. -/
  | secure (port : Nat) (accepted : Bool)
  /-- TRAINING_TIMEOUT (R427): A training state's timeout expires and the port returns to DETECT or goes down. -/
  | trainingTimeout (port : Nat)
  /-- LINK_SILENT (R433): No good flit for 1 us takes an ACTIVE link down with cause SILENT. -/
  | linkSilent (port : Nat)
  /-- NLK_ENABLE (R427): Setting NLK_CTRL.enable moves the port from DISABLED or DOWN to DETECT. -/
  | nlkEnable (port : Nat)
  /-- NLK_RETRAIN (R433): A write of NLK_CTRL.retrain takes the link down with cause SOFTWARE and then to DETECT. -/
  | nlkRetrain (port : Nat)
  /-- LANE_OFF (R432): A write of NLK_CTRL.lane_off marks lanes failed and narrows the port. -/
  | laneOff (port : Nat) (lanes : Nat)
  /-- PACKET_ROUTE (R440): A switch chooses an egress for a packet or discards it when no path is ready. -/
  | packetRoute (entry : Nat) (packet : Packet)
  /-- BULKGET (R450): A remote read request makes the hub return transfer bytes as BulkData. -/
  | bulkget (packet : Packet)
  /-- PLACE (R450): A Place names where a remote transfer's bytes are to be written. -/
  | place (packet : Packet)
  /-- BULKDATA (R450): A BulkData packet delivers stream bytes for expansion and writing. -/
  | bulkdata (packet : Packet)
  /-- TABLE_SET_UNIT (R193): The expansion stage answers a table-set unit TABLE_OK or TABLE_BUSY. -/
  | tableSetUnit (packet : Packet)
  /-- TABLEANS (R194): A table answer lets the sender code segments or send them stored. -/
  | tableans (packet : Packet)
  /-- SEGMENT_ENQUEUE (R200): A segment from the switch enters the staging queue or has its credit withheld. -/
  | segmentEnqueue (die : Nat)
  /-- SEGMENT_ENCODE (R192): An encoder lane codes or stores one segment. -/
  | segmentEncode (die : Nat)
  /-- SEGMENT_EXPAND (R202): A decoder lane expands one segment or poisons its lines on error. -/
  | segmentExpand (hub : Nat) (xfer : Nat)
  /-- NFAB_CMP_HIGH_CLEAR (R198): A write of NFAB_CMP_HIGH.clear sets high to the current fill. -/
  | nfabCmpHighClear (die : Nat)
  /-- DATA (R445): A Data packet arrives at the requester and serves its read. -/
  | data (packet : Packet)
  /-- CMP (R392): A Cmp arrives at the requester and completes its request. -/
  | cmp (packet : Packet)
  /-- ATOMRES (R461): An atomic result arrives and is delivered or split to members. -/
  | atomres (packet : Packet)
  /-- SYNCRES (R131): A remote synchronisation result arrives at the requester. -/
  | syncres (packet : Packet)
  /-- TRIGRES (R453): A trigger answer arrives at the requester. -/
  | trigres (packet : Packet)
  /-- NAKPATH (R454): A NakPath makes the requester resend or end its request. -/
  | nakpath (packet : Packet)
  /-- BULKDONE (R450): A BulkDone reports a descriptor's remote writes performed. -/
  | bulkdone (packet : Packet)
  /-- REQUEST_RESEND (R454): An unanswered request is resent after 20 us or on NakPath. -/
  | requestResend (tag : Nat)
  /-- REQUEST_TIMEOUT (R454): A fabric request ends with FABRIC, UNREACHABLE or INDETERMINATE at its limit. -/
  | requestTimeout (tag : Nat)
  /-- FENCE (R441): A Fence reaching its destination is answered with an Echo. -/
  | fence (packet : Packet)
  /-- ECHO (R441): An Echo releases the fenced flow onto its new egress. -/
  | echo (packet : Packet)
  /-- RECONCILE (R463): A Reconcile is answered with the port's release record. -/
  | reconcile (packet : Packet)
  /-- RECONANS (R463): A ReconAns discards delivered handed-back packets and resends the rest. -/
  | reconans (packet : Packet)
  /-- RECONCILE_TIMEOUT (R464): A reconcile unanswered within rec_us fails and its packets are discarded. -/
  | reconcileTimeout (port : Nat)
  /-- LOSS (R527): A Loss naming a hub sets its lost flag, aborts its jobs and is forwarded. -/
  | loss (packet : Packet)
  /-- EPOCH_NOTICE (R526): An epoch notice raises the epoch table and completes waits on the named partition with RESET. -/
  | epochNotice (packet : Packet)
  /-- HUB_LOST (R523): A hub declares a neighbour lost after all links fail and a reconcile fails. -/
  | hubLost (hub : Nat)
  /-- TENANT_CREATE (R474): Eloan message that registers a key hash as a new TID. -/
  | tenantCreate (sender : Nat) (keyHash : Nat)
  /-- TENANT_DELETE (R516): Eloan message that destroys a TID's keys and bindings. -/
  | tenantDelete (sender : Nat) (tid : Nat)
  /-- KEYID_ASSIGN (R480): Eloan message that binds a FREE key ID to a TID. -/
  | keyidAssign (sender : Nat) (keyId : Nat) (tid : Nat)
  /-- KEYID_REVOKE (R495): Eloan message that destroys a key ID. -/
  | keyidRevoke (sender : Nat) (keyId : Nat)
  /-- CTX_BIND (R481): Eloan message that unbinds a context and names the TID that may confirm it. -/
  | ctxBind (sender : Nat) (context : Nat) (tid : Nat)
  /-- OBJ_ASSIGN (R487): Eloan message that assigns a synchronisation object to a context. -/
  | objAssign (sender : Nat) (obj : Nat) (context : Nat)
  /-- ENVELOPE (R491): Eloan message that carries a sealed envelope between roots. -/
  | envelope (sender : Nat) (hub : Nat) (envelope : Envelope) (good : Bool)
  /-- KEY_GEN (R496): Eloan message that makes the keys of an ASSIGNED key ID. -/
  | keyGen (tid : Nat) (keyId : Nat) (integrity : Bool)
  /-- KEY_IMPORT (R496): Eloan message that imports the keys of an ASSIGNED key ID. -/
  | keyImport (tid : Nat) (keyId : Nat) (integrity : Bool) (material : List Byte)
  /-- KEY_DESTROY (R495): Eloan message that destroys a key ID in ordered steps. -/
  | keyDestroy (tid : Nat) (keyId : Nat)
  /-- BIN (R496): Eloan message that sets a KEYED key ID's length-hiding bin. -/
  | bin (tid : Nat) (keyId : Nat) (value : Nat)
  /-- CTX_CONFIRM (R481): Eloan message that binds a context when its descriptor hash matches. -/
  | ctxConfirm (tid : Nat) (context : Nat) (hash : Nat)
  /-- LINK_BIND (R486): Eloan message that binds a host link to a TID. -/
  | linkBind (tid : Nat) (agent : Nat) (keyHash : Nat)
  /-- WINDOW_REQ (R490): Eloan message that requests a window from the home hub. -/
  | windowReq (tid : Nat) (kind : Nat) (hub : Nat) (first : Nat) (count : Nat) (region : Nat) (rd : Bool) (wr : Bool) (atm : Bool)
  /-- WINDOW_GRANT (R490): A sealed grant arrives and the requesting root installs the window. -/
  | windowGrant (hub : Nat) (number : Nat) (keyId : Nat)
  /-- WINDOW_DROP (R492): Eloan message that removes a window and sends a receipt once its accesses are performed. -/
  | windowDrop (tid : Nat) (number : Nat)
  /-- SHARE (R490): Eloan message that shares a region with another tenant's key hash. -/
  | share (tid : Nat) (region : Nat) (keyHash : Nat) (rd : Bool) (wr : Bool) (atm : Bool)
  /-- QUERY (R603): Eloan message that returns a tenant's hidden state, counters and samples. -/
  | query (tid : Nat)
  /-- DEBUG_CHALLENGE (R508): Eloan message that returns a debug nonce for a partition. -/
  | debugChallenge (part : Nat) (level : Nat)
  /-- NONCE_EXPIRE (R508): A debug nonce expires after 300 s. -/
  | nonceExpire (part : Nat)
  /-- DEBUG_OPEN (R510): Eloan message that destroys affected keys, resets the partition and opens debug. -/
  | debugOpen (part : Nat) (level : Nat) (ownerSigned : Bool) (vendorSigned : Bool)
  /-- DEBUG_CLOSE (R512): Eloan message that closes debug and resets the partition. -/
  | debugClose (part : Nat) (ownerSigned : Bool)
  /-- SET_OWNER (R513): Eloan message that installs the owner of an UNOWNED hub. -/
  | setOwner (keyHash : Nat)
  /-- TRANSFER (R514): Eloan message that transfers ownership after deleting all tenant state. -/
  | transfer (keyHash : Nat) (ownerSigned : Bool)
  /-- RECLAIM (R515): Eloan message that returns a hub to UNOWNED under vendor signatures. -/
  | reclaim (vendorSigned : Bool)
  /-- MANAGER_CERT (R516): Eloan message that installs the manager certificate. -/
  | managerCert (keyHash : Nat) (ownerSigned : Bool)
  /-- SVN_COMMIT (R504): Eloan message that raises a class's fused minimum version. -/
  | svnCommit (cls : Nat) (ownerSigned : Bool)
  /-- GET_MEASUREMENTS (R505): SPDM request that returns signed measurements. -/
  | getMeasurements (session : Nat)
  /-- KEY_PROG (R498): IDE_KM KEY_PROG installs IDE keys on a host link. -/
  | keyProg (link : Nat) (stream : Nat) (keyHash : Nat)
  /-- CLUSTER_SCRUB (R489): A cluster whose tenant leaves is zeroed and becomes eligible at the next OPEN. -/
  | clusterScrub (cluster : Nat)
  /-- KEYID_FREE (R495): A key ID in SCRUB becomes FREE once no region names it and no grant is outstanding. -/
  | keyidFree (keyId : Nat)
  /-- HEARTBEAT_LOSS (R522): Eight missing heartbeats reset the partition. -/
  | heartbeatLoss (part : Nat)
  /-- PARTITION_RESET (R530): A partition reset aborts its work, attaches the stand-in and brings the partition back under a new epoch. -/
  | partitionReset (part : Nat)
  /-- PARTITION_UP (R530): The partition comes up and the stand-in hands it the held requests. -/
  | partitionUp (part : Nat)
  /-- PARTITION_FAIL (R535): A partition failing self-test or not up in 2 ms is failed and its held requests answered. -/
  | partitionFail (part : Nat)
  /-- RESYNC (R541): After return the hub rewrites the marked guarded rows of the partition's channels. -/
  | resync (part : Nat)
  /-- CORE_FENCE (R529): RAS_FENCE fence op fences a core and aborts its instances. -/
  | coreFence (core : Nat)
  /-- CORE_UNFENCE (R529): RAS_FENCE unfence op returns a core at the next reset of its partition. -/
  | coreUnfence (core : Nat)
  /-- MANAGER_ABORT (R545): A write of RAS_WEDGE.go aborts the job's unpublished instances with cause MANAGER. -/
  | managerAbort (job : Nat)
  /-- ROW_SPARE (R542): A DRAM row reaching ce_row corrected errors is repaired from spares. -/
  | rowSpare (unit : Nat)
  /-- FRAME_RETIRE (R543): A failed row with no spare retires its 2 MiB frames. -/
  | frameRetire (frames : List Nat)
  /-- CHANNEL_RETIRE (R544): A persistently faulty DDR5 channel is retired. -/
  | channelRetire (channel : Nat)
  /-- RETIRE_NEXT (R543): A write of RAS_RETIRE.next removes the head of the retirement list. -/
  | retireNext
  /-- READ (R578): Register message operation that reads 64 bits. -/
  | read (page : Nat) (offset : Nat)
  /-- WRITE (R578): Register message operation that writes 64 bits with range checking. -/
  | write (page : Nat) (offset : Nat) (value : Nat)
  /-- READ_LO (R578): Register message operation that reads bits [31:0]. -/
  | readLo (page : Nat) (offset : Nat)
  /-- READ_HI (R578): Register message operation that reads bits [63:32]. -/
  | readHi (page : Nat) (offset : Nat)
  /-- WRITE_LO (R22): Register message operation that writes bits [31:0]. -/
  | writeLo (page : Nat) (offset : Nat) (value : Nat)
  /-- WRITE_HI (R22): Register message operation that writes bits [63:32], completing RWS staging. -/
  | writeHi (page : Nat) (offset : Nat) (value : Nat)
  /-- ARM (R25): Register message operation that arms the page's commit at the next OPEN. -/
  | arm (page : Nat)
  /-- REGISTER_WRITE (R17): A write to a register field with no row of its own takes effect by its access type. -/
  | registerWrite (page : Nat) (offset : Nat) (value : Nat)
  /-- PAGE_LOCK (R563): A write of PAGE_CTRL.lock locks the page's RWL fields. -/
  | pageLock (page : Nat)
  /-- CLAMP_CLEAR (R573): A write of PAGE_CTRL.clamp_clear resets the clamp report. -/
  | clampClear (page : Nat)
  /-- UNSTAGE (R568): A write of PAGE_CTRL.unstage discards staged values and disarms COMMIT. -/
  | unstage (page : Nat)
  /-- MCTP_RECEIVE (R577): An MCTP message arrives and is buffered, NACKed or dropped. -/
  | mctpReceive (die : Nat) (transport : Nat) (endpoint : Nat) (session : Bool) (message : List Byte)
  /-- INT_EVENT (R575): A group's pending bit rising sends an MCTP event to manager endpoints. -/
  | intEvent (group : Nat)
  /-- INT_REMIND (R575): While interrupts pend the event is repeated every remind_ms. -/
  | intRemind
  /-- LEASE_RENEW (R637): The active controller adds 1 to both lease cells every 1 ms. -/
  | leaseRenew (sd0 : Bool) (sd1 : Bool)
  /-- LEASE_SAMPLE (R637): The standby samples both lease cells every 1 ms. -/
  | leaseSample (sd0 : Bool) (sd1 : Bool)
  /-- STEP_DOWN (R637): An active controller that renewed neither cell for 4 ms stops. -/
  | stepDown
  /-- TAKEOVER (R583): The standby becomes active and answers or performs the logged operations. -/
  | takeover (sd0 : Bool) (sd1 : Bool)
  /-- UPD_LOAD (R585): Update operation that verifies and places a new image. -/
  | updLoad (verified : Bool) (compatible : Bool) (version : Nat) (svn : Nat)
  /-- UPD_START (R586): Update operation that starts the swap of a loaded image. -/
  | updStart
  /-- UPD_ROLLBACK (R589): Update operation that undoes an update in the same order. -/
  | updRollback
  /-- TALLY_CFG_WRITE (R596): A write to TALLY_CFGn that changes tid zeroes the counter and disables it. -/
  | tallyCfgWrite (part : Nat) (n : Nat) (value : Nat)
  /-- SNAPSHOT (R602): A write of TALLY_CTRL.snap copies all 64 counters of the unit. -/
  | snapshot (part : Nat)
  /-- SAMPLE_SEED (R604): A write of TALLY_SAMP_SEED seeds the LFSR and reloads the countdown. -/
  | sampleSeed (part : Nat) (seed : Nat)
  /-- SAMP_CTRL_WRITE (R606): A write of TALLY_SAMP_CTRL that changes tid empties the sample buffer. -/
  | sampCtrlWrite (part : Nat) (value : Nat)
  /-- SAMPLE_POP (R606): A write of TALLY_SAMP_POP removes the oldest sample record. -/
  | samplePop (part : Nat)
  /-- BW_CTRL_WRITE (R608): A write of TALLY_BW_CTRL starts or realigns the measurement windows. -/
  | bwCtrlWrite (die : Nat) (value : Nat)
  /-- BW_WINDOW_END (R608): At each window's end LAST, RATE, PEAK and WINDOWS update and the alarm is tested. -/
  | bwWindowEnd (die : Nat)
  /-- PEAK_CLEAR (R608): A write of TALLY_BW_PEAKCLR.clear sets every peak to 0. -/
  | peakClear (die : Nat)
  /-- POWER_REPORT (R610): The regulators report VIN and partition power every 1 us. -/
  | powerReport (vin : Nat) (amps : Nat) (parts : List Nat)
  /-- DUTY_REPLACE (R618): A reduced duty lasting 100 us is replaced by a lower point. -/
  | dutyReplace (part : Nat)
  /-- DUTY_RECOVER (R618): Duty returns to 16/16 after the limit holds with margin for 10 us. -/
  | dutyRecover (part : Nat)
  /-- SUSTAINED_CHECK (R619): Every 1 ms the tick loop projects the sustained mean and lowers or raises a ceiling. -/
  | sustainedCheck
  /-- SENSOR_READ (R621): The hub reads every temperature sensor every 10 us. -/
  | sensorRead (coreTemps : List Int) (stackTemps : List Int) (dies : List Int)
  /-- THERMAL_CHECK (R621): Every 100 us throttle, neighbour and die-sensor limits lower points. -/
  | thermalCheck
  /-- VIN_CHANGE (R617): A change of VIN moves the package between NORMAL, DIP, SURGE and QUIESCING. -/
  | vinChange (mv : Nat)
  /-- QUIESCED_RESTART (R624): A QUIESCED hub restarts as a warm reset once VIN holds for 10 ms. -/
  | quiescedRestart (failed : List Nat)
  /-- DROOP (R625): A rail droop stretches the clock and may raise the droop margin. -/
  | droop (part : Nat)
  /-- DROOP_MARGIN_DECAY (R625): After 1 s without a droop the margin falls by 5 mV. -/
  | droopMarginDecay (part : Nat)
  /-- CALIBRATION_SLOT (R626): A partition's memories are re-centred in their calibration slot of a tick. -/
  | calibrationSlot (part : Nat)
  /-- REF_CLOCK_LOST (R627): Loss of the reference in use switches every PLL to the other input. -/
  | refClockLost (b : Bool)
  /-- REF_SELECT (R627): A write of CLK_REF_SEL.prefer_b switches to the preferred reference when present. -/
  | refSelect (b : Bool)
  /-- COLD_START (R628): The hub runs the cold-start stages from rails valid to READY. -/
  | coldStart (failed : List Nat) (channels : List Nat)
  /-- FORM (R632): Domain message that joins the hub as the first of a new domain. -/
  | form (domain : Nat) (hub : Nat)
  /-- JOIN (R632): Domain message that joins an existing domain. -/
  | join (domain : Nat) (hub : Nat)
  /-- LEAVE (R641): Domain message that takes the hub out of its domain. -/
  | leave
  /-- FORGET (R635): Domain message that clears the epoch-table entry of a hub. -/
  | forget (hub : Nat)
  /-- WARM_AREA (R638): Domain message that designates the warm-record area. -/
  | warmArea (frame : Nat)
  /-- WARM_RESET (R639): Domain message that restarts the hub keeping memory and keys. -/
  | warmReset (failed : List Nat)
  /-- SLEEP (R643): Domain message that puts a partition to sleep. -/
  | sleep (part : Nat)
  /-- WAKE (R644): Domain message that brings a sleeping or failed partition back. -/
  | wake (part : Nat)
  /-- STATUS (R631): Domain message that returns the hub's state, ID, domain and lock. -/
  | status
  /-- VSTBY_LOST (R650): VSTBY falling below its threshold with VIN present causes a cold reset. -/
  | vstbyLost
  /-- COLD_RESET_PIN (R653): cold_reset_n held low for 10 us starts a cold reset. -/
  | coldResetPin
  /-- PIN_FUNC_WRITE (R657): A write of PIN_FUNC requests a new land function and waits for the old one to idle. -/
  | pinFuncWrite (die : Nat) (value : Nat)
  /-- FUNCTION_SWITCH (R657): The new land function drives the land after the hold and sets INT_RAW bit 0. -/
  | functionSwitch (land : Nat)
  /-- SWITCH_ABANDON (R657): An old function not idle after 1 ms is abandoned. -/
  | switchAbandon (land : Nat)
  /-- IDLE_FLIT (R420): A received idle flit applies its ack and, when its seq differs from E, reveals a lost tail and requests a replay. -/
  | idleFlit (port : Nat) (flit : Flit)
  /-- BAD_CRC_FLIT (R409): A flit with a bad CRC, or one discarded with an uncorrectable codeword, is discarded whole and requests a replay. -/
  | badCrcFlit (port : Nat) (uncorrectable : Bool)
  /-- PARTNER_TRAINING_PATTERN (R433): The partner's training pattern arriving in ACTIVE takes the link down with cause PARTNER and follows it into DETECT. -/
  | partnerTrainingPattern (port : Nat)
  /-- RELEASE_RECORD_EXPIRE (R462): A port's release record is discarded 2 ms after its link went down. -/
  | releaseRecordExpire (port : Nat)
  /-- RESULT_CACHE_EXPIRE (R455): A result-cache entry for a remote requester is released 400 us after it was entered. -/
  | resultCacheExpire (part : Nat) (agent : Nat) (tag : Nat)
  /-- HOST_LINK_L0_EXIT (R370): A host link leaves L0 and the loss_us count toward declaring it lost starts. -/
  | hostLinkL0Exit (link : Nat)
  /-- HOST_LINK_L0_RETURN (R370): A host link that regains L0 before loss_us keeps all of its state and the loss count stops. -/
  | hostLinkL0Return (link : Nat)
  /-- START_INTERFACE (R369): TDISP START_INTERFACE_REQUEST moves a CONFIG_LOCKED TDI into RUN, letting its queue run tenant commands. -/
  | startInterface (queue : Nat)
  /-- MIRROR_LOST (R581): The controller mirror stops being current, mirror_ok goes to 0 and HEN INT_RAW bit 1 is set. -/
  | mirrorLost
  /-- ELOAN_OUT_OF_STEP (R477): One Eloan root instance goes out of service, mirror_ok reads 0, ELN INT_RAW bit 4 is set and the other instance runs alone. -/
  | eloanOutOfStep (root : Nat)
  /-- REF_CLOCK_RETURN (R627): A lost reference input becomes present again and CLK_STATUS shows it. -/
  | refClockReturn (b : Bool)
  /-- PLL_LOCK_LOST (R627): A PLL loses lock, its CLK_STATUS lock bit clears and CLK INT_RAW bit 1 is set. -/
  | pllLockLost (pll : Nat)
  /-- VIO_CHANGE (R650): VIO leaving or returning alone stops or restores the I3C transports and sideband functions. -/
  | vioChange (present : Bool)
  /-- GPIO_INPUT_CHANGE (R657): A sampled GPIO input level changes, updating PIN_GPIO_IN and setting PIN INT_RAW bit 3. -/
  | gpioInputChange (land : Nat) (level : Bool)
  /-- OLD_FUNCTION_IDLE (R657): The old function of a switching land becomes idle, such as at an I3C STOP, and the land enters high impedance with its keeper. -/
  | oldFunctionIdle (land : Nat)
  deriving DecidableEq, Repr

end Sys2Proof
end

