-- ==== Sys2Proof/Decode.lean ====
section
/-! DEFINITION. Words that spell commands. The opcode table gives no row any bits: the KJ-7250 is a block that receives its
commands from outside, and none is a word that it fetches. -/

namespace Sys2Proof

/-- The command that a word spells by the table's bits: the table gives bits to no row. -/
def decodeTableWord (_nbits _w : Nat) : Option Instr := none

end Sys2Proof
end

