-- ==== Sys2Proof/Machine/Tab.lean ====
section
/-! DEFINITION. The one container of the model: a table kept as a list of key and value pairs in canonical form
(keys strictly rising, no entry equal to what an unlisted key reads as), and bit-field helpers over natural numbers. -/

namespace Sys2Proof.Machine

/-- A table: what is not listed reads as the default the accessor names. -/
abbrev Tab (α : Type) := List (Nat × α)

/-- The entry listed at a key. -/
def Tab.find? {α : Type} : Tab α → Nat → Option α
  | [], _ => none
  | (j, v) :: t, k => if k < j then none else if k = j then some v else Tab.find? t k

/-- A read: the listed entry, or the default. -/
def Tab.get {α : Type} (d : Nat → α) (t : Tab α) (k : Nat) : α := (Tab.find? t k).getD (d k)

/-- Remove a key. -/
def Tab.erase {α : Type} : Tab α → Nat → Tab α
  | [], _ => []
  | (j, v) :: t, k => if k < j then (j, v) :: t else if k = j then t else (j, v) :: Tab.erase t k

/-- List a key with a value, whatever was there. -/
def Tab.insert {α : Type} : Tab α → Nat → α → Tab α
  | [], k, x => [(k, x)]
  | (j, v) :: t, k, x =>
    if k < j then (k, x) :: (j, v) :: t else if k = j then (k, x) :: t else (j, v) :: Tab.insert t k x

/-- A write: the default removes the entry, so that equal tables are equal data. -/
def Tab.set {α : Type} [DecidableEq α] (d : Nat → α) (t : Tab α) (k : Nat) (x : α) : Tab α :=
  if x = d k then Tab.erase t k else Tab.insert t k x

/-- Every key is above a bound and the keys rise strictly. -/
def Tab.risesFrom {α : Type} : Nat → Tab α → Bool
  | _, [] => true
  | b, (j, _) :: t => decide (b ≤ j) && Tab.risesFrom (j + 1) t

/-- The canonical form: keys strictly rising, no entry equal to its default. -/
def Tab.wf {α : Type} [DecidableEq α] (d : Nat → α) (t : Tab α) : Bool :=
  Tab.risesFrom 0 t && t.all (fun e => decide (e.2 ≠ d e.1))

/-- A table read whose default is the same everywhere. -/
abbrev Tab.getC {α : Type} (d : α) (t : Tab α) (k : Nat) : α := Tab.get (fun _ => d) t k

/-- A table write whose default is the same everywhere. -/
abbrev Tab.setC {α : Type} [DecidableEq α] (d : α) (t : Tab α) (k : Nat) (x : α) : Tab α := Tab.set (fun _ => d) t k x

/-- Change the entry at a key. -/
def Tab.upd {α : Type} [DecidableEq α] (d : α) (t : Tab α) (k : Nat) (f : α → α) : Tab α :=
  Tab.setC d t k (f (Tab.getC d t k))

/-- Bits [lo + len - 1 : lo] of a number. -/
def bits (w lo len : Nat) : Nat := w / 2 ^ lo % 2 ^ len

/-- One bit of a number. -/
def bit (w i : Nat) : Bool := w / 2 ^ i % 2 == 1

/-- Replace bits [lo + len - 1 : lo] of a number. -/
def setBits (w lo len v : Nat) : Nat :=
  w % 2 ^ lo + (v % 2 ^ len) * 2 ^ lo + w / 2 ^ (lo + len) * 2 ^ (lo + len)

/-- Two's complement reading of a field of the given length. -/
def signed (len v : Nat) : Int := if v % 2 ^ len < 2 ^ (len - 1) then (v % 2 ^ len : Int) else (v % 2 ^ len : Int) - 2 ^ len

/-- Two's complement writing of an integer into a field of the given length. -/
def unsigned (len : Nat) (z : Int) : Nat := (z % (2 ^ len : Int)).toNat

/-- A Bool as a bit. -/
def b2n (b : Bool) : Nat := if b then 1 else 0

/-- A multi-byte value in memory is little-endian (R16). -/
def leValue : List Byte → Nat
  | [] => 0
  | b :: bs => b.toNat + 256 * leValue bs

/-- The n bytes of a little-endian value (R16). -/
def leBytes : Nat → Nat → List Byte
  | 0, _ => []
  | n + 1, v => BitVec.ofNat 8 v :: leBytes n (v / 256)

/-- A counter that stops at a maximum. -/
def satAdd (max a b : Nat) : Nat := min max (a + b)

/-- Ceiling division. -/
def ceilDiv (a b : Nat) : Nat := (a + b - 1) / b

/-- A power of two. -/
def isPow2 (n : Nat) : Bool := decide (n = 2 ^ Nat.log2 n) && decide (0 < n)

/-- The first n naturals from a start. -/
def range (start n : Nat) : List Nat := (List.range n).map (start + ·)

end Sys2Proof.Machine
end

