-- ==== Sys2Proof/Machine/Arith.lean ====
section
/-! DEFINITION. Arithmetic (ch. 4): the formats and their conversions, anchored exact accumulation, FP32 accumulation,
PARTIAL records, the vector engine's primitive steps and functions. Everything here is a pure function of bits (R141). -/

namespace Sys2Proof.Machine

/-- A value an engine computes with: a signed dyadic number, an infinity or a NaN. -/
inductive FV where
  | fin (neg : Bool) (m : Nat) (e : Int)
  | inf (neg : Bool)
  | nan
  deriving DecidableEq, Repr

/-- Flag word bits (Table 4.10). -/
def flSat : Nat := 1
/-- Table 4.10 bit 1. -/
def flBound : Nat := 2
/-- Table 4.10 bit 2. -/
def flOvf : Nat := 4
/-- Table 4.10 bit 3. -/
def flUnf : Nat := 8
/-- Table 4.10 bit 4. -/
def flInv : Nat := 16
/-- Table 4.10 bit 5. -/
def flNanIn : Nat := 32
/-- Table 4.10 bit 6. -/
def flScaleNan : Nat := 64

/-- How a format spells its special values (Table 4.2). -/
inductive FmtKind where
  | ieee | e4m3 | plain | int
  deriving DecidableEq, Repr

/-- A row of Table 4.1. -/
structure Fmt where
  width : Nat
  exp : Nat
  mant : Nat
  bias : Nat
  kind : FmtKind
  mx : Bool
  deriving DecidableEq, Repr

/-- Table 4.1 by code; codes 12 and 15 are reserved and 13 is the PARTIAL record. -/
def fmtOf : Nat → Option Fmt
  | 0 => some ⟨32, 8, 23, 127, .ieee, false⟩
  | 1 => some ⟨16, 5, 10, 15, .ieee, false⟩
  | 2 => some ⟨16, 8, 7, 127, .ieee, false⟩
  | 3 => some ⟨8, 4, 3, 7, .e4m3, false⟩
  | 4 => some ⟨8, 5, 2, 15, .ieee, false⟩
  | 5 => some ⟨8, 4, 3, 7, .e4m3, true⟩
  | 6 => some ⟨8, 5, 2, 15, .ieee, true⟩
  | 7 => some ⟨6, 2, 3, 1, .plain, true⟩
  | 8 => some ⟨6, 3, 2, 3, .plain, true⟩
  | 9 => some ⟨4, 2, 1, 1, .plain, true⟩
  | 10 => some ⟨8, 0, 0, 0, .int, false⟩
  | 11 => some ⟨4, 0, 0, 0, .int, false⟩
  | 14 => some ⟨32, 0, 0, 0, .int, false⟩
  | _ => none

/-- The FP32 row. -/
def fp32 : Fmt := ⟨32, 8, 23, 127, .ieee, false⟩

/-- Bits of one element, by format code (Table 4.1; a PARTIAL record is 256). -/
def fmtBits (code : Nat) : Nat := if code = 13 then 256 else ((fmtOf code).map Fmt.width).getD 0

/-- The code is one of the block-scaled formats. -/
def isMx (code : Nat) : Bool := ((fmtOf code).map Fmt.mx).getD false

/-- Table 4.1, TE operand column. -/
def teOperand (code : Nat) : Bool := decide (code ≤ 11)
/-- Table 4.1, TE output column. -/
def teOutput (code : Nat) : Bool := decide (code ≤ 4) || code == 13 || code == 14
/-- Table 4.1, VE input column, PARTIAL apart. -/
def veInput (code : Nat) : Bool := decide (code ≤ 11) || code == 14
/-- Table 4.1, VE output column for an operation other than VQNT, PARTIAL apart. -/
def veOutput (code : Nat) : Bool := decide (code ≤ 4) || code == 14
/-- The formats VQNT writes (Tables 4.1 and 4.13). -/
def vqntOutput (code : Nat) : Bool := (decide (3 ≤ code) && decide (code ≤ 11)) || code == 14

/-- The value of an element, without its block's scale (R142 to R145, Table 4.2). -/
def Fmt.decode (f : Fmt) (raw : Nat) : FV :=
  match f.kind with
  | .int => let v := signed f.width raw; .fin (decide (v < 0)) v.natAbs 0
  | _ =>
    let neg := bit raw (f.width - 1)
    let e := bits raw f.mant f.exp
    let m := bits raw 0 f.mant
    let special : Option FV :=
      match f.kind with
      | .ieee => if e = 2 ^ f.exp - 1 then some (if m = 0 then .inf neg else .nan) else none
      | .e4m3 => if e = 15 ∧ m = 7 then some .nan else none
      | _ => none
    match special with
    | some v => v
    | none =>
      if e = 0 then .fin neg m (1 - (f.bias : Int) - f.mant)
      else .fin neg (2 ^ f.mant + m) ((e : Int) - f.bias - f.mant)

/-- The value of an element under an E8M0 scale (R143, R144). -/
def Fmt.decodeMx (f : Fmt) (scale raw : Nat) : FV :=
  if scale = 255 then .nan
  else match f.decode raw with
    | .fin n m e => .fin n m (e + scale - 127)
    | v => v

/-- The largest exponent p with 2^p at most m · 2^e, for a non-zero m. -/
def topExp (m : Nat) (e : Int) : Int := Nat.log2 m + e

/-- m · 2^e as a multiple of 2^q, rounded to nearest-even. -/
def rneAt (m : Nat) (e q : Int) : Nat :=
  if q ≤ e then m * 2 ^ (e - q).toNat
  else
    let d := 2 ^ (q - e).toNat
    let lo := m / d
    let r := 2 * (m % d)
    if r > d ∨ (r = d ∧ lo % 2 = 1) then lo + 1 else lo

/-- m · 2^e is exactly n · 2^q. -/
def sameDyadic (m : Nat) (e : Int) (n : Nat) (q : Int) : Bool :=
  if q ≤ e then m * 2 ^ (e - q).toNat == n else m == n * 2 ^ (q - e).toNat

/-- Largest finite magnitude of a floating format, as mantissa and exponent (Table 4.2). -/
def Fmt.maxFinite (f : Fmt) : Nat × Int :=
  let top : Nat := match f.kind with | .ieee => 2 ^ f.exp - 2 | _ => 2 ^ f.exp - 1
  let m : Nat := match f.kind with | .e4m3 => 2 ^ (f.mant + 1) - 2 | _ => 2 ^ (f.mant + 1) - 1
  (m, (top : Int) - f.bias - f.mant)

/-- The bits of the largest finite value (Table 4.2). -/
def Fmt.maxRaw (f : Fmt) : Nat :=
  match f.kind with
  | .ieee => (2 ^ f.exp - 2) * 2 ^ f.mant + (2 ^ f.mant - 1)
  | .e4m3 => 0x7E
  | _ => 2 ^ (f.exp + f.mant) - 1

/-- The canonical NaN (Table 4.2). -/
def Fmt.nanRaw (f : Fmt) : Nat :=
  match f.kind with
  | .e4m3 => 0x7F
  | _ => (2 ^ f.exp - 1) * 2 ^ f.mant + 2 ^ (f.mant - 1)

/-- The sign bit's weight. -/
def Fmt.signWeight (f : Fmt) (neg : Bool) : Nat := if neg then 2 ^ (f.width - 1) else 0

/-- a · 2^p is above b · 2^q. -/
def dyadicGt (a : Nat) (p : Int) (b : Nat) (q : Int) : Bool :=
  if p ≤ q then decide (a > b * 2 ^ (q - p).toNat) else decide (a * 2 ^ (p - q).toNat > b)

/-- Conversion of a value to an integer format (Table 4.3): saturates; a NaN gives 0 and inv. -/
def Fmt.encodeInt (f : Fmt) (v : FV) : Nat × Nat :=
  let hi : Nat := 2 ^ (f.width - 1) - 1
  let lo : Nat := 2 ^ (f.width - 1)
  match v with
  | .nan => (0, flInv)
  | .inf neg => (if neg then lo else hi, flOvf)
  | .fin neg m e =>
    let n := rneAt m e 0
    if neg then (if n > lo then (lo, flOvf) else ((2 ^ f.width - n) % 2 ^ f.width, 0))
    else if n > hi then (hi, flOvf) else (n, 0)

/-- Conversion of a value to a floating format under R147 and Table 4.3, with the flags it sets. An MX element format
answers none for an infinity or a NaN: its block's scale becomes 0xFF. -/
def Fmt.encodeFloat (f : Fmt) (sat : Bool) (v : FV) : Option Nat × Nat :=
  match v with
  | .nan => (if f.mx then none else some f.nanRaw, 0)
  | .inf neg =>
    if f.mx then (none, 0)
    else match f.kind with
      | .e4m3 => (some (if sat then f.maxRaw + f.signWeight neg else f.nanRaw), flOvf)
      | _ => (some ((2 ^ f.exp - 1) * 2 ^ f.mant + f.signWeight neg), 0)
  | .fin neg m e =>
    if m = 0 then (some (f.signWeight neg), 0)
    else
      let emin : Int := 1 - f.bias
      let t := topExp m e
      let r := rneAt m e (t - f.mant)
      if dyadicGt r (t - f.mant) f.maxFinite.1 f.maxFinite.2 then
        (some (if f.mx || sat then f.maxRaw + f.signWeight neg
               else match f.kind with
                 | .e4m3 => f.nanRaw
                 | _ => (2 ^ f.exp - 1) * 2 ^ f.mant + f.signWeight neg), flOvf)
      else
        let q := if t < emin then emin - f.mant else t - f.mant
        let n := rneAt m e q
        let unf := decide (n < 2 ^ f.mant) && (n == 0 || !sameDyadic m e n q)
        -- n counts quanta of 2^q; an exponent field of q + mant + bias - 1 carries into the next one by itself
        (some (n + (q - (emin - f.mant)).toNat * 2 ^ f.mant + f.signWeight neg), if unf then flUnf else 0)

/-- Conversion of a value to any format by code (R147). -/
def encodeVal (code : Nat) (sat : Bool) (v : FV) : Option Nat × Nat :=
  match fmtOf code with
  | none => (some 0, 0)
  | some f => if f.kind = .int then (let r := f.encodeInt v; (some r.1, r.2)) else f.encodeFloat sat v

/-- The value of a zero, finite or not, is negative. -/
def FV.neg? : FV → Bool
  | .fin n _ _ => n
  | .inf n => n
  | .nan => false

/-- The value is a NaN. -/
def FV.isNan : FV → Bool
  | .nan => true
  | _ => false

/-- The value is zero. -/
def FV.isZero : FV → Bool
  | .fin _ m _ => m == 0
  | _ => false

/-- The sign reversed; a NaN carries no sign (R147). -/
def FV.negate : FV → FV
  | .fin n m e => .fin (!n) m e
  | .inf n => .inf (!n)
  | .nan => .nan

/-- Exact product with the IEEE rules for infinities: 0 times infinity is NaN. -/
def FV.mul : FV → FV → FV
  | .nan, _ => .nan
  | _, .nan => .nan
  | .fin n m e, .fin n' m' e' => .fin (n != n') (m * m') (e + e')
  | .fin n m _, .inf n' => if m = 0 then .nan else .inf (n != n')
  | .inf n, .fin n' m' _ => if m' = 0 then .nan else .inf (n != n')
  | .inf n, .inf n' => .inf (n != n')

/-- A finite value as an integer count of 2^q, for a q at or below its exponent. -/
def scaledInt (neg : Bool) (m : Nat) (e q : Int) : Int :=
  let v : Int := (m * 2 ^ (e - q).toNat : Nat)
  if neg then -v else v

/-- Exact sum; an exact zero is +0 unless both terms are -0. -/
def FV.add : FV → FV → FV
  | .nan, _ => .nan
  | _, .nan => .nan
  | .inf n, .inf n' => if n = n' then .inf n else .nan
  | .inf n, _ => .inf n
  | _, .inf n => .inf n
  | .fin n m e, .fin n' m' e' =>
    let q := min e e'
    let z := scaledInt n m e q + scaledInt n' m' e' q
    if z = 0 then .fin (n && n' && m == 0 && m' == 0) 0 0 else .fin (decide (z < 0)) z.natAbs q

/-- a is below b, both numbers (infinities included). -/
def FV.lt : FV → FV → Bool
  | .nan, _ => false
  | _, .nan => false
  | .inf n, .inf n' => n && !n'
  | .inf n, _ => n
  | _, .inf n => !n
  | .fin n m e, .fin n' m' e' =>
    let q := min e e'
    decide (scaledInt n m e q < scaledInt n' m' e' q)

/-- One rounding to FP32 with its flags (R147, R156, R167). -/
def round32 (v : FV) : FV × Nat :=
  let r := fp32.encodeFloat false v
  (fp32.decode (r.1.getD 0), r.2)

/-- The FP32 value of 32 bits. -/
def val32 (raw : Nat) : FV := fp32.decode raw

/-! ### Anchored exact accumulation (R149 to R155) -/

/-- ceil(log2(n)), 0 for n = 1. -/
def clog2 (n : Nat) : Nat := if n ≤ 1 then 0 else Nat.log2 (n - 1) + 1

/-- The anchor of a command (R149): the field, or derived when it holds 0x8000; any other value is an error. -/
def anchorOf (field : Nat) (derived : Int) : Option Int :=
  if field = 0x8000 then some derived
  else let a := signed 16 field; if -512 ≤ a ∧ a ≤ 511 then some a else none

/-- Special tags (Table 4.5). -/
inductive Tag where
  | none | pinf | ninf | nan
  deriving DecidableEq, Repr

/-- Table 4.5. -/
def Tag.combine : Tag → Tag → Tag
  | .none, t => t
  | t, .none => t
  | .nan, _ => .nan
  | _, .nan => .nan
  | .pinf, .pinf => .pinf
  | .ninf, .ninf => .ninf
  | .pinf, .ninf => .nan
  | .ninf, .pinf => .nan

/-- Table 4.9 tag codes. -/
def Tag.code : Tag → Nat
  | .none => 0
  | .pinf => 1
  | .ninf => 2
  | .nan => 3

/-- Table 4.9 tag codes, read. -/
def Tag.ofCode : Nat → Tag
  | 0 => .none
  | 1 => .pinf
  | 2 => .ninf
  | _ => .nan

/-- A PARTIAL record's contents (Table 4.9): X, anchor, tag and flags. -/
structure Partial where
  x : Int
  anchor : Int
  tag : Tag
  sat : Bool
  bound : Bool
  deriving DecidableEq, Repr

/-- Addition to X with saturation at 160 bits (R152). -/
def satX (z : Int) : Int × Bool :=
  if z > 2 ^ 159 - 1 then (2 ^ 159 - 1, true) else if z < -(2 ^ 159) then (-(2 ^ 159), true) else (z, false)

/-- floor(t / 2^f), the truncation of R151. -/
def floorAt (neg : Bool) (m : Nat) (e f : Int) : Int :=
  let z : Int := if neg then -(m : Int) else m
  if f ≤ e then z * 2 ^ (e - f).toNat else z / 2 ^ (f - e).toNat

/-- One term added to an accumulator (R151, R152, R154). -/
def Partial.addTerm (p : Partial) (t : FV) : Partial :=
  match t with
  | .nan => { p with tag := p.tag.combine .nan }
  | .inf n => { p with tag := p.tag.combine (if n then .ninf else .pinf) }
  | .fin n m e =>
    let r := satX (p.x + floorAt n m e (p.anchor - 158))
    { p with x := r.1, sat := p.sat || r.2 }

/-- Addition of two records of one anchor (R163). -/
def Partial.add (p q : Partial) : Partial :=
  let r := satX (p.x + q.x)
  { x := r.1, anchor := p.anchor, tag := p.tag.combine q.tag, sat := p.sat || q.sat || r.2, bound := p.bound || q.bound }

/-- The record as 32 bytes, as one little-endian number (Table 4.9). -/
def Partial.encode (p : Partial) : Nat :=
  unsigned 160 p.x + unsigned 16 p.anchor * 2 ^ 160 + p.tag.code * 2 ^ 176 + (b2n p.sat + 2 * b2n p.bound) * 2 ^ 184

/-- A record read from its 32 bytes; reserved bits are ignored (R163). -/
def Partial.decode (w : Nat) : Partial :=
  { x := signed 160 (bits w 0 160), anchor := signed 16 (bits w 160 16), tag := Tag.ofCode (bits w 176 2),
    sat := bit w 184, bound := bit w 185 }

/-- The value a record converts as (R155): the tag's special value, +0, or X times 2^f. -/
def Partial.value (p : Partial) : FV :=
  match p.tag with
  | .nan => .nan
  | .pinf => .inf false
  | .ninf => .inf true
  | .none => if p.x = 0 then .fin false 0 0 else .fin (decide (p.x < 0)) p.x.natAbs (p.anchor - 158)

/-- An empty accumulator of an anchor. -/
def Partial.zero (a : Int) : Partial := ⟨0, a, .none, false, false⟩

/-- A value's magnitude reaches 2^(eb + 1) (R150). -/
def breaksBound (eb : Int) : FV → Bool
  | .fin _ m e => decide (m ≠ 0) && decide (topExp m e ≥ eb + 1)
  | .inf _ => true
  | .nan => false

/-- One output cell in exact mode: the terms of the products in ascending k (R151 to R154). -/
def cellExact (start : Partial) : List FV → List FV → Partial
  | a :: as, b :: bs => cellExact (start.addTerm (a.mul b)) as bs
  | _, _ => start

/-- The exact sums of the products that reach a cell in one cycle, two a cycle for 4-bit operands (R156, Table 4.4). -/
def pairSums : List FV → List FV
  | p :: q :: ps => p.add q :: pairSums ps
  | ps => ps

/-- One output cell in FP32 mode: each cycle's exact sum is added to the accumulator with one rounding, in ascending k
(R156). -/
def cellFp32 (pairs : Bool) (as bs : List FV) (acc : FV × Nat) : FV × Nat :=
  let ps := List.zipWith FV.mul as bs
  (if pairs then pairSums ps else ps).foldl (fun a p => let r := round32 (a.1.add p); (r.1, a.2 ||| r.2)) acc

/-- Class of a format (Table 4.4): 0 for 4-bit, 1 for 8-bit, 2 for 16-bit, 3 for 32-bit. -/
def fmtClass (code : Nat) : Nat :=
  if code = 9 ∨ code = 11 then 0 else if code = 0 then 3 else if code = 1 ∨ code = 2 then 2 else 1

/-- c(k) of Table 4.4. -/
def cyclesK (cls k : Nat) : Nat :=
  match cls with
  | 0 => (k + 1) / 2
  | 1 => k
  | 2 => 4 * k
  | _ => 16 * k

/-- Array-busy cycles of an MMA (R148). -/
def mmaCycles (cls tm tn k : Nat) : Nat := 16 + tm * tn * cyclesK cls k + 24

/-! ### Element packing (R146) -/

/-- Bytes that n packed elements occupy. -/
def packedSize (code n : Nat) : Nat := ceilDiv (n * fmtBits code) 8

/-- Element j of a packed run whose bytes are the little-endian number w. -/
def elemOf (code w j : Nat) : Nat := bits w (j * fmtBits code) (fmtBits code)

/-- The packed little-endian number of a run of elements. -/
def packElems (nb : Nat) : List Nat → Nat
  | [] => 0
  | x :: xs => x % 2 ^ nb + 2 ^ nb * packElems nb xs

/-- The elements of a run, by value, with the scales of an MX run one per block of 32. -/
def decodeRun (code w : Nat) (scales : List Byte) (n : Nat) : List FV :=
  match fmtOf code with
  | none => []
  | some f =>
    (List.range n).map (fun j =>
      if f.mx then f.decodeMx ((scales.getD (j / 32) 0).toNat) (elemOf code w j) else f.decode (elemOf code w j))

/-! ### The vector engine (R167 to R171) -/

/-- Flags ORed along a computation. -/
abbrev Ve := FV × Nat

/-- x times y rounded once. -/
def Ve.mul (x y : Ve) : Ve := let r := round32 (x.1.mul y.1); (r.1, x.2 ||| y.2 ||| r.2)
/-- x plus y rounded once. -/
def Ve.add (x y : Ve) : Ve := let r := round32 (x.1.add y.1); (r.1, x.2 ||| y.2 ||| r.2)
/-- x times y plus z rounded once. -/
def Ve.fma (x y z : Ve) : Ve := let r := round32 ((x.1.mul y.1).add z.1); (r.1, x.2 ||| y.2 ||| z.2 ||| r.2)
/-- y times 2^n rounded once. -/
def Ve.scale (y : Ve) (n : Int) : Ve :=
  match y.1 with
  | .fin s m e => let r := round32 (.fin s m (e + n)); (r.1, y.2 ||| r.2)
  | v => (v, y.2)
/-- A constant given by its FP32 bits. -/
def Ve.ofBits (raw : Nat) : Ve := (val32 raw, 0)
/-- A computation with further flags. -/
def Ve.flag (y : Ve) (f : Nat) : Ve := (y.1, y.2 ||| f)
/-- An exact value without flags. -/
def Ve.ofVal (v : FV) : Ve := (v, 0)

/-- Nearest FP32 value of a positive rational in [1/2, 2), to 24 bits. -/
def ratio32 (num den : Nat) : FV :=
  let q : Nat := if num < den then 24 else 23
  .fin false ((2 * num * 2 ^ q / den + 1) / 2) (-(q : Int))

/-- rinv[i] = 1 / (1 + i/64) (Table 4.15). -/
def tblRinv (i : Nat) : FV := ratio32 64 (64 + i)
/-- y_rcp[i] = 1 / (1 + (i + 0.5)/128). -/
def tblRcp (i : Nat) : FV := ratio32 256 (257 + 2 * i)
/-- y_rsq[i] = 1 / sqrt(1 + (i + 0.5)/64), between 1/2 and 1. -/
def tblRsq (i : Nat) : FV := .fin false ((Nat.sqrt (4 * 128 * 2 ^ 48 / (129 + 2 * i)) + 1) / 2) (-24)

/-- The 24-bit mantissa M nearest to 2^23 · 2^(i/64): the greatest M with (2M - 1)^64 at most 2^(i + 64 · 24). -/
def exp2Search (i : Nat) : Nat → Nat → Nat
  | 0, m => m
  | k + 1, m =>
    let t := m + 2 ^ k
    exp2Search i k (if (2 * t - 1) ^ 64 ≤ 2 ^ (i + 64 * 24) then t else m)

/-- t_exp2[i] = 2^(i/64). -/
def tblExp2 (i : Nat) : FV := .fin false (exp2Search i 23 (2 ^ 23)) (-23)

/-- l2[i] = log2(1 + i/64), rounded to nearest-even in FP32: its bits. -/
def tblL2Bits : List Nat :=
  [0x00000000, 0x3CB73CB4, 0x3D35D69C, 0x3D8759C5, 0x3DB31FB8, 0x3DDE4212, 0x3E0462C4, 0x3E19574F,
   0x3E2E00D2, 0x3E42615F, 0x3E567AF1, 0x3E6A4F72, 0x3E7DE0B6, 0x3E88983F, 0x3E92203D, 0x3E9B8926,
   0x3EA4D3C2, 0x3EAE00D2, 0x3EB7110E, 0x3EC0052B, 0x3EC8DDD4, 0x3ED19BB0, 0x3EDA3F60, 0x3EE2C97D,
   0x3EEB3A9F, 0x3EF39355, 0x3EFBD42B, 0x3F01FED4, 0x3F060828, 0x3F0A0650, 0x3F0DF989, 0x3F11E20F] ++
  [0x3F15C01A, 0x3F1993E3, 0x3F1D5DA0, 0x3F211D84, 0x3F24D3C2, 0x3F28808C, 0x3F2C2411, 0x3F2FBE80,
   0x3F335004, 0x3F36D8CB, 0x3F3A58FF, 0x3F3DD0C8, 0x3F41404F, 0x3F44A7BA, 0x3F480731, 0x3F4B5ED7,
   0x3F4EAED0, 0x3F51F740, 0x3F553848, 0x3F587209, 0x3F5BA4A4, 0x3F5ED039, 0x3F61F4E5, 0x3F6512C7,
   0x3F6829FB, 0x3F6B3A9F, 0x3F6E44CD, 0x3F7148A1, 0x3F744636, 0x3F773DA4, 0x3F7A2F04, 0x3F7D1A71]

/-- l2[i]. -/
def tblL2 (i : Nat) : FV := val32 (tblL2Bits.getD i 0)

/-- FP32 bits of the entry VE_TBL_SEL selects (Table 4.20); an index past the end reads 0. -/
def tblEntry (table index : Nat) : Nat :=
  let v : Option FV :=
    match table with
    | 0 => if index < 64 then some (tblExp2 index) else none
    | 1 => if index < 64 then some (tblRinv index) else none
    | 2 => if index < 64 then some (tblL2 index) else none
    | 3 => if index < 128 then some (tblRcp index) else none
    | 4 => if index < 192 then some (tblRsq index) else none
    | _ => none
  match v with
  | none => 0
  | some x => (fp32.encodeFloat false x).1.getD 0

/-- floor of a finite value times 2^k. -/
def FV.floorScaled (v : FV) (k : Int) : Int :=
  match v with
  | .fin n m e => floorAt n m (e + k) 0
  | _ => 0

/-- exp2 (R171). -/
def vExp2 (x : Ve) : Ve :=
  match x.1 with
  | .nan => (.nan, x.2)
  | .inf true => (.fin false 0 0, x.2)
  | .inf false => (.inf false, x.2)
  | v =>
    if !(v.lt (.fin false 128 0)) then (.inf false, x.2 ||| flOvf)
    else if v.lt (.fin true 150 0) then (.fin false 0 0, x.2 ||| flUnf)
    else
      let xf := v.floorScaled 24
      let n := xf / 2 ^ 24
      let low := (xf % 2 ^ 24).toNat
      let i := low / 2 ^ 18
      let r : Ve := (.fin false (low % 2 ^ 18) (-24), 0)
      let t : Ve := (tblExp2 i, 0)
      let p := ((Ve.ofBits 0x3D635847).fma r (Ve.ofBits 0x3E75FDF0))
      let p := (p.fma r (Ve.ofBits 0x3F317218))
      let p := p.mul r
      let y := t.fma p t
      (y.scale n).flag x.2

/-- A positive finite value as a mantissa in [1, 2) with 23 fraction bits and an exponent. -/
def normalise (m : Nat) (e : Int) : Nat × Int :=
  let t := topExp m e
  (rneAt m e (t - 23), t)

/-- An integer as an exact value. -/
def FV.ofInt (z : Int) : FV := .fin (decide (z < 0)) z.natAbs 0

/-- log2 (Table 4.15). -/
def vLog2 (x : Ve) : Ve :=
  match x.1 with
  | .nan => (.nan, x.2)
  | .inf false => (.inf false, x.2)
  | .inf true => (.nan, x.2 ||| flInv)
  | .fin neg m e =>
    if m = 0 then (.inf true, x.2)
    else if neg then (.nan, x.2 ||| flInv)
    else
      let r := normalise m e
      let i := (r.1 - 2 ^ 23) / 2 ^ 17
      let t := (Ve.ofVal (.fin false r.1 (-23))).fma (tblRinv i, 0) (.fin true 1 0, 0)
      let q := (Ve.ofBits 0x3EF6384F).fma t (Ve.ofBits 0xBF38AA3B)
      let q := q.fma t (Ve.ofBits 0x3FB8AA3B)
      let q := q.mul t
      ((Ve.ofVal (FV.ofInt r.2)).add ((Ve.ofVal (tblL2 i)).add q)).flag x.2

/-- rcp (Table 4.15). -/
def vRcp (x : Ve) : Ve :=
  match x.1 with
  | .nan => (.nan, x.2)
  | .inf n => (.fin n 0 0, x.2)
  | .fin neg m e =>
    if m = 0 then (.inf neg, x.2)
    else
      let r := normalise m e
      let i := (r.1 - 2 ^ 23) / 2 ^ 16
      let mneg : Ve := (.fin true r.1 (-23), 0)
      let y : Ve := (tblRcp i, 0)
      let e1 := mneg.fma y (.fin false 1 0, 0)
      let y := e1.fma y y
      let e1 := mneg.fma y (.fin false 1 0, 0)
      let y := e1.fma y y
      let z := (y.scale (-r.2)).flag x.2
      if neg then (z.1.negate, z.2) else z

/-- rsqrt (Table 4.15). -/
def vRsqrt (x : Ve) : Ve :=
  match x.1 with
  | .nan => (.nan, x.2)
  | .inf false => (.fin false 0 0, x.2)
  | .inf true => (.nan, x.2)
  | .fin neg m e =>
    if m = 0 then (.inf neg, x.2)
    else if neg then (.nan, x.2)
    else
      let r := normalise m e
      let q := r.2 / 2
      let odd := (r.2 - 2 * q).toNat
      let mm := r.1 * 2 ^ odd
      let i := (mm - 2 ^ 23) / 2 ^ 17
      let mv : Ve := (.fin false mm (-23), 0)
      let half : Ve := (.fin false 1 (-1), 0)
      let one : Ve := (.fin false 1 0, 0)
      let y : Ve := (tblRsq i, 0)
      let t := mv.mul y
      let e1 := (Ve.ofVal t.1.negate).fma y one
      let y1 := (half.mul y).fma e1 y
      let t2 := mv.mul y1
      let e2 := (Ve.ofVal t2.1.negate).fma y1 one
      let y2 := (half.mul y1).fma e2 y1
      (y2.scale (-q)).flag (x.2 ||| t.2 ||| t2.2)

/-- sqrt (Table 4.15). -/
def vSqrt (x : Ve) : Ve :=
  match x.1 with
  | .fin _ 0 _ => x
  | .inf false => x
  | _ => x.mul (vRsqrt x)

/-- exp (Table 4.15). -/
def vExp (x : Ve) : Ve := vExp2 (x.mul (Ve.ofBits 0x3FB8AA3B))
/-- ln (Table 4.15). -/
def vLn (x : Ve) : Ve := (vLog2 x).mul (Ve.ofBits 0x3F317218)
/-- sigmoid (Table 4.15). -/
def vSigmoid (x : Ve) : Ve := vRcp ((Ve.ofVal (.fin false 1 0)).add (vExp (x.1.negate, x.2)))
/-- tanh (Table 4.15). -/
def vTanh (x : Ve) : Ve :=
  (Ve.ofVal (.fin false 2 0)).fma (vSigmoid ((Ve.ofVal (.fin false 2 0)).mul x)) (.fin true 1 0, 0)
/-- silu (Table 4.15). -/
def vSilu (x : Ve) : Ve := x.mul (vSigmoid x)

/-- IEEE 754 maximum with NaN propagation; of two zeros the positive one (R169). -/
def FV.max (a b : FV) : FV :=
  if a.isNan || b.isNan then .nan
  else if a.lt b then b else if b.lt a then a else if a.neg? then b else a

/-- IEEE 754 minimum with NaN propagation; of two zeros the negative one. -/
def FV.min (a b : FV) : FV :=
  if a.isNan || b.isNan then .nan
  else if a.lt b then a else if b.lt a then b else if a.neg? then a else b

/-- The VMAP function of a selector (Table 4.13); none above 13. -/
def vmapFn (fn : Nat) (x : FV) : Option Ve :=
  match fn with
  | 0 => some (x, 0)
  | 1 => some (x.negate, 0)
  | 2 => some ((match x with | .fin _ m e => .fin false m e | .inf _ => .inf false | .nan => .nan), 0)
  | 3 => some (vExp2 (x, 0))
  | 4 => some (vExp (x, 0))
  | 5 => some (vLog2 (x, 0))
  | 6 => some (vLn (x, 0))
  | 7 => some (vRcp (x, 0))
  | 8 => some (vRsqrt (x, 0))
  | 9 => some (vSqrt (x, 0))
  | 10 => some (vSigmoid (x, 0))
  | 11 => some (vTanh (x, 0))
  | 12 => some (FV.max x (.fin false 0 0), 0)
  | 13 => some (vSilu (x, 0))
  | _ => none

/-- The VBIN operation of a selector (Table 4.13); none above 5. -/
def vbinFn (fn : Nat) (x y : FV) : Option Ve :=
  match fn with
  | 0 => some (Ve.add (x, 0) (y, 0))
  | 1 => some (Ve.add (x, 0) (y.negate, 0))
  | 2 => some (Ve.mul (x, 0) (y, 0))
  | 3 => some (FV.max x y, 0)
  | 4 => some (FV.min x y, 0)
  | 5 => some (Ve.mul (x, 0) (vRcp (y, 0)))
  | _ => none

/-- inv and nan_in of an element (Table 4.10 bits 4 and 5). -/
def nanFlags (inputNan : Bool) (result : FV) : Nat :=
  if inputNan then flNanIn else if result.isNan then flInv else 0

/-- A VE input converted exactly to FP32; an MX value beyond the range becomes infinite and sets ovf (R167). -/
def veIn (v : FV) : Ve := round32 v

/-- One VMAP or VBIN output element: value converted to fout, with every flag (R167, R147). -/
def veOut (fout : Nat) (sat : Bool) (inputNan : Bool) (y : Ve) : Nat × Nat :=
  let r := encodeVal fout sat y.1
  (r.1.getD 0, y.2 ||| r.2 ||| nanFlags inputNan y.1)

/-- emax of an MX element format (R170). -/
def mxEmax (code : Nat) : Int :=
  match code with
  | 5 => 8
  | 6 => 15
  | 7 => 2
  | 8 => 4
  | _ => 2

/-- The largest magnitude of a block of finite values. -/
def amaxOf : List FV → FV
  | [] => .fin false 0 0
  | v :: vs => let w := (match v with | .fin _ m e => FV.fin false m e | .inf _ => .inf false | .nan => .nan); FV.max w (amaxOf vs)

/-- A block of 32 elements quantised to an MX format (R170): scale byte, element bits, flags. Where the block's scale
becomes 0xFF the spec states no element bits: they are the free values `fr`. -/
def vqntBlock (code : Nat) (fr : Nat → Nat) (xs : List FV) : Nat × List Nat × Nat :=
  match fmtOf code with
  | none => (0, [], 0)
  | some f =>
    match amaxOf xs with
    | .fin _ m e =>
      let ex : Int := if m = 0 then -127 else max (-127) (min 127 (topExp m e - mxEmax code))
      let rs := xs.map (fun x => f.encodeFloat true (match x with | .fin n m' e' => .fin n m' (e' - ex) | v => v))
      ((ex + 127).toNat, rs.map (fun r => r.1.getD 0), rs.foldl (fun a r => a ||| r.2) 0)
    | _ =>
      (255, (List.range xs.length).map (fun j => fr j % 2 ^ f.width),
       flScaleNan ||| (if xs.any FV.isNan then flNanIn else flInv))

/-- Rates of Table 4.14, elements per cycle. -/
def veRate (op fn fin fout : Nat) : Nat :=
  let wide := fmtBits fin = 32 || fmtBits fout = 32
  match op with
  | 1 =>
    if fn ≤ 2 ∨ fn = 12 then (if wide then 128 else 256)
    else if fn = 3 ∨ fn = 5 ∨ fn = 7 ∨ fn = 8 then 64
    else if fn = 4 ∨ fn = 6 ∨ fn = 9 then 32 else 16
  | 2 => if fn % 128 = 5 then 32 else if wide then 128 else 256
  | 5 => 16
  | 6 => 16
  | _ => if wide then 128 else 256

end Sys2Proof.Machine
end

