-- ==== Sys2Proof/Machine/Compress.lean ====
section
/-! DEFINITION. Weight deltas and the lossless coding of bulk traffic (ch. 5), as pure functions of bits. -/

namespace Sys2Proof.Machine

/-! ### Weight deltas (R172 to R185) -/

/-- A sign-magnitude delta code as its value (R172); `nb` is 2 for DLT2 and 3 for DLT3. -/
def deltaValue (nb code : Nat) : Int :=
  let m := code % 2 ^ (nb - 1)
  if bit code (nb - 1) then -(m : Int) else m

/-- Bits per delta of a descriptor's format code (Table 5.1). -/
def deltaBits (fmt : Nat) : Nat := if fmt = 1 then 2 else 3
/-- Bytes of a block of 32 deltas. -/
def deltaBlock (fmt : Nat) : Nat := if fmt = 1 then 8 else 12

/-- One weight formed by the expander (R180, R181): the base element's value and block scale, the delta and its scale
code. Answers the operand and the flags. -/
def expandWeight (f : Fmt) (blockScale : Nat) (base : FV) (d : Int) (s : Nat) : FV × Nat :=
  if d = 0 ∨ s = 255 then (base, 0)
  else match base with
    | .fin _ _ _ =>
      let v := base.add (.fin (decide (d < 0)) d.natAbs ((s : Int) - 127))
      if f.kind = .int then (let r := f.encodeInt v; (f.decode r.1, r.2))
      else
        let sh : Int := if f.mx then (blockScale : Int) - 127 else 0
        let u : FV := match v with | .fin n m e => .fin n m (e - sh) | x => x
        let r := f.encodeFloat true u
        let w := f.decode (r.1.getD 0)
        (match w with
          | .fin n m e => if m = 0 then .fin false 0 0 else .fin n m (e + sh)
          | x => x, r.2)
    | v => (v, 0)

/-- The least exponent e with 2^e at or above a positive value. -/
def ceilExp (m : Nat) (e : Int) : Int := let t := topExp m e; if sameDyadic m e 1 t then t else t + 1

/-- One block of 32 differences requantised (R185): scale code, the 32 codes, flags. -/
def vdqBlock (nb : Nat) (t : Nat) (xs : List FV) : Nat × List Nat × Nat :=
  let g : Int := if nb = 2 then 0 else 2
  let maxq : Nat := 2 ^ (nb - 1) - 1
  let fin := xs.map (fun x => match x with | .fin _ m e => FV.fin false m e | _ => FV.fin false 0 0)
  let fl := if xs.any FV.isNan then flNanIn else 0
  match amaxOf fin with
  | .fin _ m e =>
    if m = 0 ∨ (t ≠ 0x8000 ∧ (FV.fin false m e).lt (.fin false 1 (signed 16 t)) = true) then (255, xs.map (fun _ => 0), fl)
    else
      let e0 := ceilExp m e - g
      let fl := if e0 > 127 then fl ||| flOvf else fl
      let ex : Int := max (-127) (min 127 e0)
      let q (x : FV) : Nat × Nat :=
        match x with
        | .nan => (0, 0)
        | .inf n => (maxq + (if n then 2 ^ (nb - 1) else 0), flOvf)
        | .fin n m' e' =>
          let z := min maxq (rneAt m' (e' - ex) 0)
          (if z = 0 then 0 else z + (if n then 2 ^ (nb - 1) else 0), 0)
      let rs := xs.map q
      ((ex + 127).toNat, rs.map Prod.fst, rs.foldl (fun a r => a ||| r.2) fl)
  | _ => (255, xs.map (fun _ => 0), fl)

/-! ### Traffic compression (R186 to R205) -/

/-- Planes of a planes code (Table 5.6). -/
def planesOf (code : Nat) : Nat :=
  match code with
  | 0 => 0
  | 1 => 1
  | 2 => 2
  | 3 => 4
  | 4 => 8
  | _ => 32

/-- Bin size in bytes of a bin code (Table 5.9). -/
def binSize (code : Nat) : Nat :=
  match code with
  | 0 => 0
  | 1 => 576
  | 2 => 1152
  | 3 => 2304
  | _ => 4608

/-- The bytes of plane p: every P-th byte from byte p (R188). -/
def planeBytes (P p : Nat) (bs : List Byte) : List Byte :=
  (List.range (ceilDiv (bs.length - p) P)).map (fun i => bs.getD (p + i * P) 0)

/-- The segments of 4,096 bytes of a transfer (R188); the last may be shorter. -/
def segmentsOf (bs : List Byte) : List (List Byte) :=
  (List.range (ceilDiv bs.length 4096)).map (fun i => (bs.drop (i * 4096)).take 4096)

/-- Occurrences of a byte value. -/
def countByte (bs : List Byte) (v : Nat) : Nat := bs.countP (fun b => b.toNat == v)

/-- Insert a byte value into a list kept by weight descending, then value ascending. -/
def insertByWeight (w : Nat → Nat) (x : Nat) : List Nat → List Nat
  | [] => [x]
  | y :: ys => if w y < w x ∨ (w y = w x ∧ x < y) then x :: y :: ys else y :: insertByWeight w x ys

/-- The tightening loop of R189: each value in order gets one bit less where the Kraft sum allows. -/
def tighten (len : Tab Nat) : List Nat → Nat → Tab Nat
  | [], _ => len
  | x :: xs, k =>
    let l := Tab.getC 0 len x
    if l > 1 ∧ k + 2 ^ (12 - l) ≤ 4096 then tighten (Tab.setC 0 len x (l - 1)) xs (k + 2 ^ (12 - l))
    else tighten len xs k

/-- The code lengths of a plane from its share of the sample (R189): 256 lengths, all 8 when the plane is stored. -/
def codeLengths (sample : List Byte) : List Nat :=
  let cnt := (List.range 256).map (countByte sample)
  let t := sample.length
  let w := cnt.map (fun c => 1 + c * 3840 / t)
  let len0 := w.map (fun x => 12 - Nat.log2 x)
  let k := (len0.map (fun l => 2 ^ (12 - l))).foldl (· + ·) 0
  let order := (List.range 256).foldl (fun a x => insertByWeight (fun i => w.getD i 0) x a) []
  let tab := tighten ((List.range 256).map (fun i => (i, len0.getD i 0))) order k
  let len := (List.range 256).map (fun i => Tab.getC 0 tab i)
  if (List.zipWith (· * ·) cnt len).foldl (· + ·) 0 ≥ 8 * t then List.replicate 256 8 else len

/-- The first code of each length 1 to 12 (R190). -/
def firstCodes (lens : List Nat) : List Nat :=
  let n (l : Nat) := if l = 0 then 0 else lens.countP (· == l)
  ((List.range 12).foldl (fun (a : Nat × List Nat) l => let c := 2 * (a.1 + n l); (c, a.2 ++ [c])) (0, [])).2

/-- The canonical code of byte value s (R190). -/
def codeOf (lens : List Nat) (s : Nat) : Nat :=
  let l := lens.getD s 0
  (firstCodes lens).getD (l - 1) 0 + (lens.take s).countP (· == l)

/-- The bits of a code, most significant first. -/
def codeBits (l c : Nat) : List Bool := (List.range l).map (fun i => bit c (l - 1 - i))

/-- Bytes from a stream of bits: bit i is bit (i mod 8) of byte (i div 8), the last byte padded with zeros (R190). -/
def bitsToBytes (bs : List Bool) : List Byte :=
  (List.range (ceilDiv bs.length 8)).map (fun i =>
    BitVec.ofNat 8 ((List.range 8).foldl (fun a j => a + b2n (bs.getD (8 * i + j) false) * 2 ^ j) 0))

/-- The stream of bits of bytes. -/
def bytesToBits (bs : List Byte) : List Bool := (bs.map (fun b => (List.range 8).map (fun j => bit b.toNat j))).flatten

/-- A plane coded under its lengths. -/
def codePlane (lens : List Nat) (bs : List Byte) : List Byte :=
  if lens = List.replicate 256 8 then bs
  else bitsToBytes ((bs.map (fun b => codeBits (lens.getD b.toNat 0) (codeOf lens b.toNat))).flatten)

/-- The byte value of a code of a length, if one is assigned. -/
def symbolOf (lens : List Nat) (l c : Nat) : Option Nat :=
  (List.range 256).find? (fun s => lens.getD s 0 == l && codeOf lens s == c)

/-- Decode n symbols from a stream of bits; the bits left over must be fewer than 8 and zero (R202). `acc` is the code
read so far and its length; `fuel` bounds the bits read. -/
def decodeBits (lens : List Nat) : Nat → Nat → Nat → Nat → List Bool → Option (List Byte)
  | 0, n, _, _, bs => if n = 0 ∧ bs.length < 8 ∧ bs.all (· == false) then some [] else none
  | _ + 1, 0, _, _, bs => if bs.length < 8 ∧ bs.all (· == false) then some [] else none
  | fuel + 1, n + 1, l, c, bs =>
    match bs with
    | [] => none
    | b :: rest =>
      let c' := 2 * c + b2n b
      match symbolOf lens (l + 1) c' with
      | some s => (decodeBits lens fuel n 0 0 rest).map (BitVec.ofNat 8 s :: ·)
      | none => if l + 1 < 12 then decodeBits lens fuel (n + 1) (l + 1) c' rest else none

/-- A plane of n bytes expanded from its coded bytes; none where it does not decode exactly. -/
def expandPlane (lens : List Nat) (n : Nat) (bs : List Byte) : Option (List Byte) :=
  if lens = List.replicate 256 8 then (if bs.length = n then some bs else none)
  else let bits := bytesToBits bs; decodeBits lens bits.length n 0 0 bits

/-- Bytes of a coded segment's header: 8 + 2P rounded up to a multiple of 8 (Table 5.8). -/
def segHeader (P : Nat) : Nat := 8 * ceilDiv (8 + 2 * P) 8

/-- out_len padded to the bin (R204). -/
def padLen (bin out : Nat) : Nat := if binSize bin = 0 then out else ceilDiv out (binSize bin) * binSize bin

/-- Zero bytes. -/
def zeroBytes (n : Nat) : List Byte := List.replicate n 0

/-- A stored segment as it goes on the wire (R192, Table 5.8). -/
def storedSegment (planesCode bin : Nat) (bs : List Byte) : List Byte :=
  let out := 8 + bs.length
  let pad := padLen bin out
  leBytes 2 bs.length ++ leBytes 1 (1 + 2 * b2n (binSize bin != 0)) ++ leBytes 1 planesCode ++ leBytes 2 out ++ leBytes 2 pad ++
    bs ++ zeroBytes (pad - out)

/-- A segment coded under the plane tables of its transfer, or stored where coding would not shrink it (R192). -/
def codeSegment (planesCode bin : Nat) (tables : List (List Nat)) (bs : List Byte) : List Byte :=
  let P := planesOf planesCode
  let planes := (List.range P).map (fun p => codePlane (tables.getD p (List.replicate 256 8)) (planeBytes P p bs))
  let out := segHeader P + (planes.map List.length).foldl (· + ·) 0
  if out < 8 + bs.length then
    let pad := padLen bin out
    leBytes 2 bs.length ++ leBytes 1 (2 * b2n (binSize bin != 0)) ++ leBytes 1 planesCode ++ leBytes 2 out ++ leBytes 2 pad ++
      (planes.map (fun q => leBytes 2 q.length)).flatten ++ zeroBytes (segHeader P - (8 + 2 * P)) ++ planes.flatten ++
      zeroBytes (pad - out)
  else storedSegment planesCode bin bs

/-- Interleave planes back into the bytes of a segment. -/
def joinPlanes (P n : Nat) (planes : List (List Byte)) : List Byte :=
  (List.range n).map (fun i => (planes.getD (i % P) []).getD (i / P) 0)

/-- Cut consecutive runs of the given lengths. -/
def cutRuns : List Nat → List Byte → List (List Byte)
  | [], _ => []
  | n :: ns, bs => bs.take n :: cutRuns ns (bs.drop n)

/-- A wire segment expanded (R202): none for an invalid header, a missing table, an unassigned code, or lengths that
disagree. `tables` is none when the receiver holds no table set for the transfer. -/
def expandSegment (tables : Option (List (List Nat))) (wire : List Byte) : Option (List Byte) :=
  let inLen := leValue (wire.take 2)
  let fl := leValue ((wire.drop 2).take 1)
  let code := leValue ((wire.drop 3).take 1)
  let out := leValue ((wire.drop 4).take 2)
  let pad := leValue ((wire.drop 6).take 2)
  if inLen = 0 ∨ 4096 < inLen ∨ 4 ≤ fl ∨ pad < out ∨ wire.length ≠ pad ∨ (wire.drop out).any (· != 0) then none
  else if bit fl 0 then
    if out = 8 + inLen then some ((wire.drop 8).take inLen) else none
  else match tables with
    | none => none
    | some ts =>
      if code = 0 ∨ 5 < code ∨ ts.length ≠ planesOf code then none
      else
        let P := planesOf code
        let lens := (List.range P).map (fun p => leValue ((wire.drop (8 + 2 * p)).take 2))
        let body := (wire.take out).drop (segHeader P)
        if segHeader P + lens.foldl (· + ·) 0 ≠ out then none
        else
          let runs := cutRuns lens body
          let ex := (List.range P).map (fun p =>
            expandPlane (ts.getD p []) (ceilDiv (inLen - p) P) (runs.getD p []))
          if ex.all Option.isSome then some (joinPlanes P inLen (ex.map (fun o => o.getD []))) else none

/-- The table-set unit of a transfer (R191, R204, Table 5.7). -/
def tableSetUnit (planesCode bin len : Nat) (tables : List (List Nat)) : List Byte :=
  let carried := tables.map (fun t => binSize bin != 0 || t != List.replicate 256 8)
  let mask := (carried.mapIdx (fun i c => b2n c * 2 ^ i)).foldl (· + ·) 0
  leBytes 2 1 ++ leBytes 1 planesCode ++ leBytes 1 bin ++ leBytes 4 mask ++ leBytes 8 len ++
    ((List.zip carried tables).map (fun ct =>
      if ct.1 then (List.range 128).map (fun i => BitVec.ofNat 8 (ct.2.getD (2 * i) 0 + 16 * ct.2.getD (2 * i + 1) 0)) else [])).flatten

/-- Slots of the table store a table set needs: one per carried plane and at least one (R193). -/
def tableSlots (mask : Nat) : Nat := max 1 ((List.range 32).countP (fun i => bit mask i))

end Sys2Proof.Machine
end

