-- ==== Sys2Proof/Config.lean ====
section
/-! DEFINITION. What the spec leaves open: the free values, as constants without a body, and functions of units whose
arithmetic the spec names and does not give (hashes, keys). No statement can rest on a value of them. -/

namespace Sys2Proof

/-- A value that the spec leaves open: the n-th one the hub has needed (`State.free` counts them). -/
opaque Config.freeNat : Nat → Nat

/-- A word of a stock image whose words the spec does not write out (R217, Table 6.8 gives their results only), by image
version and store index. -/
opaque Config.stockWord : Nat → Nat → Nat

/-- A byte of host memory as its host answers it: by the count of free values at the access and the host physical address.
The hub never holds host memory (R45), so the spec cannot say what a read of it returns. -/
opaque Config.hostByte : Nat → Nat → Nat

/-- The SHA-384 hash of a string of bytes (R473, R481, R505), as a number. -/
opaque Config.hash : List Byte → Nat

/-- The digest of a measurement of this hub (R505): the index of Table 14.8 and the state it covers, written as numbers. The
spec gives what each index covers, not how it is laid out for the hash. -/
opaque Config.measure : Nat → List Nat → Nat

end Sys2Proof
end

