-- ==== Sys2Proof/Machine/PartsTick.lean ====
section
/-! DEFINITION. The parts of the state that The tick (ch. 2) and Cores, threads and command streams (ch. 3) name:
budget records, streams and their running frames, the ring, thread contexts, engine queues, synchronisation objects. -/

namespace Sys2Proof.Machine

/-- A reservation entry of a budget record (Table 2.6). `a` is TE cycles, egress bytes or bytes toward the host;
`b` is HBM bytes, ingress bytes or bytes from the host; `c` is far-tier bytes. -/
structure Reservation where
  kind : Nat
  unit : Nat
  slots : Nat
  a : Nat
  b : Nat
  c : Nat
  deriving DecidableEq, Repr

/-- A stream budget record as read (Tables 2.5 and 2.6). -/
structure Budget where
  multiHub : Bool
  dropOnStall : Bool
  deterministic : Bool
  context : Nat
  stride : Nat
  job : Nat
  watchThreshold : Nat
  primary : Nat
  cheaper : Nat
  firstTick : Nat
  ring : Nat
  ringEntries : Nat
  progressTotal : Nat
  entries : List Reservation
  deriving DecidableEq, Repr

/-- Where a running stream frame stands (R86 to R97): running, stalled at D, aborted and waiting for its recompute,
complete and awaiting its CLOSE, or ended by a second abort and awaiting its DROPPED record. -/
inductive RunState where
  | running | stalled | recovering | complete | dropped
  deriving DecidableEq, Repr

/-- One run of a stream: the spec's stream instance (R75, R86 to R97, R109, R545 to R547). `late` once it has stalled, with
the cause of its first stall; `recovered` once it has been restarted, `recomputing` until that restart ends or its CLOSE.
The waits, `exceeded` and `recovery` count for the current tick (R92). -/
structure StreamRun where
  tick : Nat
  state : RunState
  path : Bool
  progress : Nat
  atWatch : Nat
  late : Bool
  cause : Nat
  recovered : Bool
  recomputing : Bool
  abortSeq : Nat
  farWait : Nat
  fabricWait : Nat
  hostWait : Nat
  exceeded : Bool
  recovery : Bool
  trigFirst : Nat
  trigTaken : Nat
  deriving DecidableEq, Repr

/-- An admitted stream (R77, R78, R84, R85). `run` holds the threads, or has last held them; `done` are runs complete or
dropped before it that await their CLOSE, `redo` runs aborted before it that await their recompute; `pendingTicks` are the
ticks whose runs wait (R89); `lastStart` is one above the tick in which a run last started (R90). -/
structure Stream where
  budget : Budget
  order : Nat
  startTick : Nat
  suspended : Bool
  threads : List Nat
  run : Option StreamRun
  done : List StreamRun
  redo : List StreamRun
  pendingTicks : List Nat
  lastStart : Nat
  /-- What the stream has used of each resource in this tick (R83, R665), by `useKey`. -/
  used : Tab Nat
  deriving DecidableEq, Repr

/-- The road by which an admission request came (R76, R82). -/
inductive AdmRoad where
  | management
  | launch (core ctx : Nat)
  | hostQueue (queue : Nat)
  deriving DecidableEq, Repr

/-- A waiting request of the admission queue (R76): the requesting address context, 0xFFFF for the management road, and the
physical address of the record, none for a LAUNCH address that does not translate. -/
inductive AdmRequest where
  | enter (road : AdmRoad) (context : Nat) (addr : Option Nat)
  | withdraw (road : AdmRoad) (context handle : Nat)
  deriving DecidableEq, Repr

/-- The tick unit (ch. 2): the timer's phase within the tick, its edge source, the ring and the streams. -/
structure TickUnit where
  /-- Half-nanoseconds since the hub's own edge (R54). -/
  phase : Nat
  /-- The part of the tick that has begun: 0 OPEN and WORK, 2 WATCH, 3 headroom, 4 CLOSE (R67). -/
  stage : Nat
  /-- The next edge as a tick source has placed it: its number and its time (R61, R95, R472). -/
  due : Option (Nat × Nat)
  /-- Since when the hub has had no tick source, and since when it has been in HOLDOVER (R64, R65). -/
  noSource : Option Nat
  holdSince : Option Nat
  /-- Consecutive ring frames with a bad CRC (R61). -/
  badCrc : Nat
  /-- The bypass across the ring: true while closed (R59). -/
  bypassClosed : Bool
  /-- Ring frames sent and not yet seen returning (R655). -/
  ringSent : List Nat
  streams : Tab Stream
  nextOrder : Nat
  abortCount : Nat
  queue : List AdmRequest
  /-- The next index of each completion ring (R75), by context · 2^57 + address. -/
  rings : Tab Nat
  /-- Jobs and ticks whose Wedge this hub has sent or been delivered (R468, R546). -/
  wedged : List (Nat × Nat)
  wedgeSeen : List (Nat × Nat)
  deriving DecidableEq, Repr

/-- Table 3.2. -/
inductive ThreadState where
  | free | placed | run | waitSync | waitQueue | waitDrain | stalled | ended | faulted
  deriving DecidableEq, Repr

/-- What a thread has open at an object's home (R108, R127, R130): the word's operation, object and fields, since when it
waits, whether it must repeat, whether an operation is outstanding, whether it has sent a cancel. `answer` is the final status
that the home has given, with the object's state word. -/
structure OpenSync where
  tag : Nat
  op : Nat
  obj : Nat
  ra : Nat
  cond : Nat
  imm : Nat
  disp : Nat
  timeout : Nat
  since : Nat
  retrying : Bool
  outstanding : Bool
  cancelled : Bool
  answer : Option (Nat × Nat)
  deriving DecidableEq, Repr

/-- An entry of an engine queue (R113): the word, its ordering and cache attribute, and what a tagged sample needs. -/
structure QueueEntry where
  word : Nat
  /-- c0 to c7 as they were when the word was pushed: they form its M-space addresses (R158). -/
  counters : List W64
  address : Bool
  bypass : Bool
  pc : Nat
  /-- Tick, time and phase of the push. -/
  tick : Nat
  pushed : Nat
  phase : Nat
  headSince : Nat
  monitored : Bool
  deriving DecidableEq, Repr

/-- A thread context (Table 3.1). -/
structure Thread where
  state : ThreadState
  handle : Nat
  ordinal : Nat
  pc : Nat
  counters : List W64
  pr : Nat
  path : Bool
  stack : List Nat
  held : List Nat
  /-- Ordering (bit 0) and cache (bit 1) attribute of the queue of each engine, TE VE SE ME. -/
  modes : List Nat
  queues : List (List QueueEntry)
  fault : Nat
  sync : Option OpenSync
  /-- Engines whose commands a WAITQ drains, bits as in WAITQ's imm. -/
  drain : Nat
  /-- Draining for a cheaper-path switch (R102), with the sampled progress. -/
  switching : Option Nat
  /-- The fetched word that has not yet issued. -/
  fetched : Option Nat
  /-- The engine word a full queue holds back (R114). -/
  pushing : Option Nat
  deriving DecidableEq, Repr

/-- Table 3.10 kinds. -/
inductive SyncKind where
  | semaphore | barrier | lock | event
  deriving DecidableEq, Repr

/-- A waiter record (R125, R130). -/
structure Waiter where
  who : Requester
  tag : Nat
  imm : Nat
  deriving DecidableEq, Repr

/-- A synchronisation object (Table 3.10). Its assigned address context is held outside the partition (R132). -/
structure SyncObj where
  kind : SyncKind
  abandoned : Bool
  overflow : Bool
  count : Nat
  parties : Nat
  arrived : Nat
  generation : Nat
  holder : Option Requester
  /-- The holder of a lock that was abandoned and not granted since: only bit 31 of its holder is cleared (R133). -/
  former : Option Requester
  isSet : Bool
  waiters : List Waiter
  deriving DecidableEq, Repr

/-- An operation on its way to an object's home (R108, R127, R135). -/
inductive SyncOpKind where
  | wait | signal | sinit | sample | cancel | abandon
  deriving DecidableEq, Repr

/-- The sync arrays of the hub (ch. 3). -/
structure SyncUnit where
  objs : Tab SyncObj
  /-- Address context each object is assigned to (R132, R487). -/
  assigned : Tab Nat
  /-- Operations sent and not yet at their homes. -/
  flight : List (SyncOpKind × SyncReq)
  nextTag : Nat
  /-- Highest count of waiter records of each partition since its clear (Table 3.17). -/
  high : Tab Nat
  deriving DecidableEq, Repr

/-- Table 3.12, as read at the last commit of the trigger table, with the ring's state (R137 to R140). -/
structure TriggerEntry where
  handle : Nat
  maxTake : Nat
  callerSet : Nat
  ring : Nat
  ringEntries : Nat
  nextSeq : Nat
  taken : Nat
  freed : Nat
  deriving DecidableEq, Repr

end Sys2Proof.Machine
end

