-- ==== Sys2Proof/Machine/PartsMem.lean ====
section
/-! DEFINITION. The parts of the state that the engines (ch. 4 to 7), the tiers and Haul (ch. 8), translation (ch. 9),
the host ports (ch. 10) and the Seam (ch. 11) name. -/

namespace Sys2Proof.Machine

/-! ### Engines -/

/-- A popped command that has not completed (R664): its queue entry, its thread, and what its completion still needs. -/
structure Held where
  seq : Nat
  ctx : Nat
  handle : Nat
  tick : Nat
  entry : QueueEntry
  popped : Nat
  /-- The engine has carried out the command (R240). -/
  done : Bool
  /-- Its stream run was aborted: no signal, no progress (R545). -/
  aborted : Bool
  /-- Array-busy or engine cycles (R148, R665). -/
  cycles : Nat
  flags : Nat
  /-- Engine error code; 0 for none (R166). -/
  error : Nat
  variant : Nat
  /-- Position reached by a command that runs in pieces. -/
  pos : Nat
  /-- Once the command has started, the records that it read once (R160, R178, R212, R291). -/
  latch : Option (List (List Byte))
  deriving DecidableEq, Repr

/-- Service count and age of a stream at an arbitration point (R665). -/
structure Service where
  handle : Nat
  count : Nat
  last : Nat
  /-- The thread context served last, for the round-robin within the stream (R115). -/
  lastCtx : Nat
  deriving DecidableEq, Repr

/-- One engine of a core (R115, R664, R665). -/
structure Engine where
  held : List Held
  service : List Service
  nextSeq : Nat
  /-- Grants so far, the clock of `Service.last`. -/
  grants : Nat
  deriving DecidableEq, Repr

/-- A line of an operand cache or a Sieve bitmap cache (R242, R228): physical line address, address context, bytes. -/
structure CacheLine where
  addr : Nat
  context : Nat
  data : List Byte
  deriving DecidableEq, Repr

/-- A fill on its way to an operand cache; an invalidation on the way makes it uninstallable (R245). -/
structure Fill where
  line : CacheLine
  stale : Bool
  deriving DecidableEq, Repr

/-- Query context states (Table 6.1). -/
inductive QState where
  | free | load | ready | waitMem | waitList | waitIns | close
  deriving DecidableEq, Repr

/-- A query descriptor as read at pop (Table 6.4), with the command's own fields (Table 6.3). -/
structure QDesc where
  query : Nat
  vlen : Nat
  kernel : Nat
  prologue : Nat
  k : Nat
  topk : Nat
  aux : Nat
  sieve : Nat
  base : Nat
  idBase : Nat
  vstride : Nat
  visited : Nat
  vbits : Nat
  fresh : Bool
  vhash : Bool
  vclear : Bool
  width : Nat
  rounds : Nat
  degree : Nat
  adj : Nat
  deriving DecidableEq, Repr

/-- One bitmap of a Sieve block: virtual address, first item, items covered, value outside (Table 6.9). -/
structure SieveMap where
  base : Nat
  first : Nat
  count : Nat
  outside : Bool
  deriving DecidableEq, Repr

/-- A Sieve block as read at pop (R225). -/
structure Sieve where
  maps : List SieveMap
  ops : List Nat
  deriving DecidableEq, Repr

/-- A record of a top-k list (Table 6.5). -/
structure Rec where
  id : Nat
  key : Nat
  expanded : Bool
  reranked : Bool
  deriving DecidableEq, Repr

/-- A query context of a search engine (R207), with the position of its command in the order of R222 and R233. -/
structure QCtx where
  state : QState
  heldSeq : Nat
  isProbe : Bool
  mode : Nat
  desc : QDesc
  sieve : Sieve
  pc : Nat
  inPrologue : Bool
  sregs : List W64
  acc : List W32
  /-- The candidate being scored: item ID and vector bytes. -/
  candId : Nat
  vec : List Byte
  scored : Nat
  filtered : Nat
  nan : Bool
  poison : Bool
  /-- Records in the output list. -/
  listed : Nat
  /-- SCAN: item index, list index, and the lists or input records of the command. -/
  index : Nat
  count : Nat
  first : Nat
  lists : List Nat
  input : List Rec
  /-- GPROBE: seeds left, round, nodes left of this round, neighbours left of the node in hand. -/
  seeds : List Nat
  round : Nat
  nodes : List Nat
  slots : List Nat
  src : Nat
  deriving DecidableEq, Repr

/-- A candidate in an insertion queue (R215). -/
structure Insert where
  qctx : Nat
  id : Nat
  key : Nat
  reranked : Bool
  deriving DecidableEq, Repr

/-- A search engine beyond its held commands. -/
structure SearchUnit where
  qctxs : Tab QCtx
  inserts : List Insert
  lastIssued : Nat
  /-- The thread context whose SLOAD the engine has chosen and waits to pop (R207). -/
  chosen : Option Nat
  deriving DecidableEq, Repr

/-- A word of a microcode store (R218, R223). -/
structure UcWord where
  word : Nat
  shared : Bool
  context : Nat
  deriving DecidableEq, Repr

/-- A core: its threads' issue order, caches and engines. -/
structure Core where
  lastIssued : Nat
  fenced : Bool
  opLines : List CacheLine
  fills : List Fill
  engines : List Engine
  search : SearchUnit
  ucode : Tab UcWord
  imageId : Nat
  deriving DecidableEq, Repr

/-! ### Translation (ch. 9) -/

/-- A segment of a context (Table 9.3). -/
structure Segment where
  base : Nat
  limit : Nat
  phys : Nat
  rd : Bool
  wr : Bool
  fx : Bool
  nc : Bool
  deriving DecidableEq, Repr

/-- An address context (R308 to R310, R326). -/
structure Context where
  valid : Bool
  walk : Bool
  root : Nat
  segs : List Segment
  epoch : Nat
  deriving DecidableEq, Repr

/-- A TLB entry: one page or one run (R316, R317). -/
structure TlbEntry where
  context : Nat
  vbase : Nat
  pbase : Nat
  size : Nat
  rd : Bool
  wr : Bool
  fx : Bool
  nc : Bool
  deriving DecidableEq, Repr

/-- A walk that has read its tables and not yet filled the TLBs (R317, R319). -/
structure Walk where
  core : Nat
  entry : TlbEntry
  stale : Bool
  deriving DecidableEq, Repr

/-- The translation unit. `busy` is the operation in progress: the context it names, or none for every context;
`heldBumps` are epoch increments that wait under R327. -/
structure Xlt where
  contexts : Tab Context
  coreTlb : Tab (List TlbEntry)
  partTlb : Tab (List TlbEntry)
  walks : List Walk
  busy : Option (Option Nat)
  heldBumps : List Nat
  deriving DecidableEq, Repr

/-- A move-engine descriptor in flight (R324 to R329): both ends translated, its context and epoch. Ends are coded as space
(0 S, 1 C, 2 M, 3 an element of a FATOM or FTRIG) and address. -/
structure Descriptor where
  id : Nat
  core : Nat
  seq : Nat
  ctx : Nat
  srcSpace : Nat
  src : Nat
  dstSpace : Nat
  dst : Nat
  len : Nat
  context : Nat
  epoch : Nat
  /-- Tag of the fabric request that carries it; 0 and `remote` false for none. -/
  tag : Nat
  remote : Bool
  /-- Its offset in the transfer that carries it, the other hub and the transfer's number (R450). -/
  off : Nat
  peer : Nat
  xfer : Nat
  /-- Bytes of it that have arrived, and the extents of them that are poison. -/
  data : List Byte
  bad : List (Nat × Nat)
  deriving DecidableEq, Repr

/-! ### Pools and Haul (ch. 8) -/

/-- An entry of the Haul table (R294). Slot tags are layer and generation. -/
structure HaulEntry where
  context : Nat
  id : Nat
  window : Nat
  slotBytes : Nat
  slots : Nat
  resident : Bool
  gen : Nat
  tags : List (Option (Nat × Nat))
  srcs : List Nat
  handle : Nat
  late : Bool
  held : Bool
  next : Nat
  /-- Lines a landing layer missed while their partition was away (R287): offsets in the window. -/
  missed : List Nat
  deriving DecidableEq, Repr

/-- A layer entry (Table 8.4). -/
structure HaulLayer where
  src : Nat
  bytes : Nat
  due : Nat
  tag : Nat
  deriving DecidableEq, Repr

/-- A running HAUL command (R292). `granted` says that the layer's free acquisition has been granted; `asked` that it
has been sent. -/
structure HaulRun where
  core : Nat
  seq : Nat
  ctx : Nat
  entry : Nat
  layers : List HaulLayer
  fullObj : Nat
  freeObj : Nat
  slack : Nat
  lateSwitch : Bool
  layer : Nat
  last : Nat
  asked : Bool
  granted : Bool
  stopping : Bool
  /-- The tag of the acquire, and the descriptors the command may hold in flight. -/
  waitTag : Nat
  depth : Nat
  deriving DecidableEq, Repr

/-! ### Host ports (ch. 10) -/

/-- A page lease (R355). -/
structure Lease where
  page : Nat
  size : Nat
  agent : Nat
  context : Nat
  ro : Bool
  deriving DecidableEq, Repr

/-- A lease on its way to the seam dies (R401): which dies still have to install it. -/
structure LeaseReq where
  lease : Lease
  dies : List Nat
  queue : Nat
  cid : Nat
  hostAddr : Nat
  deriving DecidableEq, Repr

/-- A command in flight on a host queue (R367), or a completion waiting for its ring slot. `waiting` says that it has started
and something else must answer it, `since` when it started, `cancelled` that its wait has timed out; `complete` has the
status, the fault code and the result, and `doneAt` when it completed. -/
structure QueueCmd where
  opcode : Nat
  cid : Nat
  fence : Bool
  irq : Bool
  arg0 : Nat
  arg1 : Nat
  arg2 : Nat
  headAfter : Nat
  started : Bool
  waiting : Bool
  since : Nat
  cancelled : Bool
  complete : Option (Nat × Nat × Nat)
  doneAt : Nat
  deriving DecidableEq, Repr

/-- TDISP states (Table 10.4). -/
inductive Tdisp where
  | unlocked | locked | run | error
  deriving DecidableEq, Repr

/-- A host command queue (R362 to R369). -/
structure HostQueue where
  sqBase : Nat
  cqBase : Nat
  sqLog : Nat
  cqLog : Nat
  enable : Bool
  head : Nat
  tail : Nat
  cqHead : Nat
  cqTail : Nat
  phase : Bool
  cmds : List QueueCmd
  tdisp : Tdisp
  latched : Option Nat
  stopping : Bool
  runningOn : Nat
  core : Nat
  bound : Bool
  deriving DecidableEq, Repr

/-- A host link beyond its registers: since when it has been out of L0, the map entries its complex caches (R346), oldest
first, by index, and while an invalidation runs the tags of the requests translated with what it removed. -/
structure HostLink where
  outOfL0 : Option Nat
  mapCache : List (Nat × Nat)
  invalidating : Option (List Nat)
  deriving DecidableEq, Repr

/-! ### The Seam (ch. 11) -/

/-- Directory states (Table 11.1). -/
inductive DirState where
  | i | s | m
  deriving DecidableEq, Repr

/-- A directory entry (R383, R384): its distinct holders, owner first. -/
structure DirEntry where
  state : DirState
  holders : List Nat
  overflow : Bool
  group : Nat
  deriving DecidableEq, Repr

/-- A valid way of a bucket (R386). -/
structure DirWay where
  way : Nat
  tag : Nat
  age : Nat
  entry : DirEntry
  deriving DecidableEq, Repr

/-- Request kinds (Table 11.4) and the Seam's own operations (R380). -/
inductive SeamKind where
  | rdCur | rdS | rdM | invM | wrCur | wrBk (metaS : Bool) | evict | atomic | recall | recallClean
  deriving DecidableEq, Repr

/-- Who a coherent request answers. -/
inductive SeamWho where
  /-- An engine command: core, unit, thread context, the command's number, and the element of an atomic. -/
  | engine (core unit ctx seq idx : Nat)
  | agent (id tag : Nat)
  | seam
  deriving DecidableEq, Repr

/-- A coherent request: the line (hub-local), the line's bytes to write with their mask, and for an atomic its offset in the
line, its operation (word3 of Table 13.5), its operand and the packet that brought it. -/
structure SeamReq where
  kind : SeamKind
  who : SeamWho
  line : Nat
  data : List Byte
  mask : Nat
  poison : Bool
  offset : Nat
  atom : Nat
  operand : Nat
  packet : Option Packet
  deriving DecidableEq, Repr

/-- An answer a transaction awaits: from an agent, by the message sent to it. -/
inductive SnoopKind where
  | biInv | biData | inv | fwd
  deriving DecidableEq, Repr

/-- One awaited answer (R393, R396, R403). -/
structure Await where
  agent : Nat
  kind : SnoopKind
  acked : Bool
  deriving DecidableEq, Repr

/-- An open transaction (R378). -/
structure SeamTxn where
  req : SeamReq
  awaits : List Await
  /-- The line has been delivered to the requester by the owner's hub (R396). -/
  served : Bool
  opened : Nat
  deriving DecidableEq, Repr

/-- A fence mark (R405). -/
inductive FenceMark where
  | none | lost | silent | rejoin
  deriving DecidableEq, Repr

/-- A fence mark with its sweep (R406). -/
structure Fence where
  mark : FenceMark
  swept : Bool
  start : Nat
  deriving DecidableEq, Repr

/-- What a recall is for: a region's lines, a share group's, a key ID's. -/
inductive RecallOf where
  | region | group | key
  deriving DecidableEq, Repr

/-- A recall that the sweep carries (R352, R354, R406, R495). -/
structure Recall where
  kind : RecallOf
  index : Nat
  start : Nat
  /-- The region operation to complete, as its new entry or membership. -/
  newValue : Nat
  /-- For a group: the members that leave. -/
  leaving : List Nat
  deriving DecidableEq, Repr

/-- A seam die (R28, R378 to R407). -/
structure SeamDie where
  dir : Tab (List DirWay)
  failed : List Nat
  txns : List SeamTxn
  waiting : List SeamReq
  fences : Tab Fence
  recalls : List Recall
  position : Nat
  sweeping : Bool
  abuf : List Nat
  leases : List Lease
  deriving DecidableEq, Repr

/-- The region machinery (R350 to R361). -/
structure Regions where
  entries : Tab W64
  groups : Tab Nat
  leaseReqs : List LeaseReq
  deriving DecidableEq, Repr

/-- A pool request (Table 8.9). -/
structure PoolReq where
  place : Bool
  region : Nat
  pmask : Nat
  frames : Nat
  deriving DecidableEq, Repr

/-- The pools (R270 to R283): placed frames by frame number (hub-local offset div 2 MiB) with region + 1; those of them that
count on the Face reserve; the request that waits for its list's memory. -/
structure Pools where
  placed : Tab Nat
  faceTaken : List Nat
  waiting : Option PoolReq
  deriving DecidableEq, Repr

end Sys2Proof.Machine
end

