-- ==== Sys2Proof/Machine/PartsFabric.lean ====
section
/-! DEFINITION. The parts of the state that the Nelpin links (ch. 12), the fabric (ch. 13) and traffic compression (ch. 5)
name. -/

namespace Sys2Proof.Machine

/-- Link states (Table 12.6). -/
inductive LinkState where
  | disabled | detect | equalize | align | params | secure | delay | active | retrain | down
  deriving DecidableEq, Repr

/-- A Nelpin port (ch. 12): both directions of its link. -/
structure Port where
  state : LinkState
  since : Nat
  /-- Lane indices that are healthy, bit i for index i (R430). -/
  healthy : Nat
  width : Nat
  cause : Nat
  partnerHub : Nat
  partnerPort : Nat
  partnerJoined : Bool
  partnerEpoch : Nat
  /-- Transmitter: next sequence number, replay buffer, last ack applied, credit per virtual channel. -/
  txSeq : Nat
  replay : List Flit
  txAck : Nat
  credit : List Nat
  replayTimeouts : Nat
  /-- Cumulative credit counts last taken, the round-robin place of the arbiter, and since when no new ack has arrived. -/
  counted : List Nat
  turn : Nat
  ackAt : Nat
  /-- Packets not yet acknowledged, with the sequence number of their last flit, 4,096 while one has still to leave. -/
  inFlight : List (Nat × Packet)
  /-- Receiver: next expected number, the group in progress with its flits' arrivals, the last verified seal, slots freed per
  channel and as last told, the time of the last nak, units of a packet per channel that its next flit continues. -/
  expected : Nat
  group : List (Flit × Nat)
  verified : Nat
  freed : List Nat
  told : List Nat
  nakAt : Nat
  rest : List (List Nat)
  nakPending : Bool
  naksInRow : Nat
  sealRetry : Bool
  /-- Units of a packet that the next flit of a channel continues. -/
  partialUnits : List (List Nat)
  /-- Key generations and the count of sequenced flits sent under the transmitter's one (R417, R418). -/
  txGen : Nat
  txCount : Nat
  rxGen : Nat
  rxCount : Nat
  keyed : Bool
  /-- Delay results, newest first (R436), and probes sent in DELAY. -/
  delays : List Nat
  probes : Nat
  timeouts : Nat
  /-- Release record of the ended session and when the link went down (R462). -/
  release : Option (Nat × Nat)
  lastGood : Nat
  /-- Packets handed back and waiting for a reconcile (R463): with the sequence number of their last flit. -/
  handed : List (Nat × Packet)
  /-- When the open reconcile was sent. -/
  reconciling : Option Nat
  deriving DecidableEq, Repr

/-- A packet in an egress queue (R438): when it arrived and the switch port it came from. -/
structure Queued where
  packet : Packet
  arrived : Nat
  /-- Packets combined into this one, as they arrived, each with its prefix (R461); none for a packet that stands alone. -/
  members : List (Packet × Nat)
  deriving DecidableEq, Repr

/-- A flow (R440, R441): class, destination and transfer, the egress it uses, and what waits behind a fence of a tag; 65,536
and above for a reconcile of a port. -/
structure Flow where
  cls : Nat
  dst : Nat
  xfer : Nat
  egress : Nat
  fenced : Option Nat
  held : List Packet
  deriving DecidableEq, Repr

/-- What waits for a fabric request's answer (R454). -/
inductive ReqFor where
  /-- A line read for an engine: it is kept in the engine's inbox. -/
  | line (core unit seq context : Nat) (proxy : Bool)
  /-- A line written by an engine command. -/
  | write (core unit ctx seq : Nat)
  /-- A descriptor of a move engine. -/
  | descriptor (core id : Nat)
  /-- Element i of a FATOM, or the FTRIG, of a core's command; where its result element goes. -/
  | element (core seq index res : Nat)
  /-- A synchronisation operation of a thread, under the tag of what the thread has open. -/
  | sync (core ctx tag : Nat)
  /-- The completion signal of a command of a thread (R111). -/
  | signal (core ctx pc : Nat)
  /-- The free acquisition of a HAUL (R292). -/
  | haul (core seq : Nat)
  /-- A Haul's post, or an abandon message: nobody waits. -/
  | nobody
  /-- A request that a host complex sent for a host agent. -/
  | host (agent tag : Nat)
  /-- A combined request: its members are in the switch. -/
  | combined
  deriving DecidableEq, Repr

/-- An outstanding fabric request (R454). -/
structure Request where
  packet : Packet
  purpose : ReqFor
  firstSend : Nat
  lastSend : Nat
  sends : Nat
  /-- Sends that ended in NO_ROOM or a NakPath and were therefore not applied. -/
  refused : Nat
  /-- A NakPath, a NO_ROOM or a BUSY_RETRY answered the last send, which may be repeated before its 20 µs (Table 13.9). -/
  again : Bool
  /-- From when the repeat may leave; the home has answered QUEUED, and its grant is awaited without limit (R131). -/
  againAt : Nat
  parked : Bool
  /-- Members of a combined packet with their prefixes. -/
  members : List (Packet × Nat)
  deriving DecidableEq, Repr

/-- A stored result (R455). -/
structure Stored where
  agent : Nat
  tag : Nat
  packet : Packet
  entered : Nat
  /-- Its entry has failed its check: the key is kept and never answered (Table 15.2). -/
  dead : Bool
  deriving DecidableEq, Repr

/-- A job slot of the job table (R466). -/
structure JobSlot where
  job : Nat
  valid : Bool
  hubs : Nat
  deriving DecidableEq, Repr

/-- A part of a transfer that a peer asks for (BulkGet) and that has not been read: offset, bytes, physical address. -/
structure BulkPart where
  off : Nat
  bytes : Nat
  addr : Nat
  deriving DecidableEq, Repr

/-- Where a compressed transfer's table set stands (R189, R193, R194): not compressed, sample being read, answer awaited,
TABLE_OK, TABLE_BUSY. -/
inductive TableState where
  | raw | sampling | asked | ok | busy
  deriving DecidableEq, Repr

/-- A transfer this hub sends (R450, R186 to R205). -/
structure SendXfer where
  peer : Nat
  number : Nat
  /-- It answers the peer's BulkGets; else it carries a command of this hub. -/
  serves : Bool
  /-- Core and stream of the command that sends, for events and reservations. -/
  core : Nat
  seq : Nat
  handle : Nat
  die : Nat
  total : Nat
  planes : Nat
  stride : Nat
  cap : Nat
  bin : Nat
  table : TableState
  tables : List (List Nat)
  /-- Bytes read and not yet cut into segments, the offset of their first, and the stream bytes sent. -/
  bytes : List Byte
  taken : Nat
  sent : Nat
  parts : List BulkPart
  /-- Descriptors of it seen so far. -/
  seen : Nat
  /-- The egress port that its units follow (R195). -/
  path : Nat
  deriving DecidableEq, Repr

/-- Where bytes of a transfer go (R450): a Place, with its tag, the bytes written and those that must wait. -/
structure PlaceRec where
  offset : Nat
  bytes : Nat
  addr : Nat
  tag : Nat
  done : Nat
  refused : Bool
  deriving DecidableEq, Repr

/-- A transfer this hub receives (R450): for a core's command that reads, or for the Places of a peer. -/
structure RecvXfer where
  peer : Nat
  number : Nat
  reader : Option (Nat × Nat)
  die : Nat
  total : Nat
  /-- Table-set bytes received and their length once known, slots held, tables. -/
  head : List Byte
  slots : Nat
  tables : Option (List (List Nat))
  headDone : Bool
  /-- Stream bytes not yet whole, the next stream offset, and the transfer bytes expanded. -/
  stream : List Byte
  nextOffset : Nat
  expanded : Nat
  places : List PlaceRec
  /-- Bytes whose line's partition is away (R533): physical address, bytes, poison, and the tag of their Place. -/
  waiting : List (Nat × List Byte × Bool × Nat)
  deriving DecidableEq, Repr

/-- A segment in a staging queue (R198). -/
structure Segment4k where
  peer : Nat
  number : Nat
  serves : Bool
  bytes : List Byte
  last : Bool
  deriving DecidableEq, Repr

/-- A compression stage of an I/O die (ch. 5). -/
structure CmpDie where
  queue : List Segment4k
  passing : Bool
  /-- Segments whose credit is withheld (R200). -/
  withheld : List Segment4k
  deriving DecidableEq, Repr

/-- A Fwd that this hub carries to the owner's link (R396): the physical line number, the owner, the home and its tag, the
snoop type, the requester it names, and when the snoop left. -/
structure Forward where
  line : Nat
  owner : Nat
  home : Nat
  tag : Nat
  inv : Bool
  requester : Option Nat
  start : Nat
  deriving DecidableEq, Repr

/-- The switch and the fabric layer (ch. 13). -/
structure Fabric where
  egress : Tab (List Queued)
  flows : List Flow
  routes : Tab Nat
  agents : Tab Nat
  jobs : List JobSlot
  requests : List Request
  nextTag : Nat
  nextXfer : Nat
  results : Tab (List Stored)
  /-- Highest in_use of each result cache since its clear. -/
  rcHigh : Tab Nat
  epochs : Tab Nat
  lostHubs : List Nat
  sends : List SendXfer
  recvs : List RecvXfer
  cmp : List CmpDie
  dtime : Nat
  /-- Lines fetched from other hubs for engine commands that wait: the reader (`readerKey`), line address, bytes, poison. -/
  inbox : List (Nat × Nat × List Byte × Bool)
  forwards : List Forward
  /-- Proxy copies (R374): line address, partition, context, bytes. -/
  proxies : List (Nat × Nat × Nat × List Byte)
  /-- Lines whose Data must not be installed, because an Inv came first (R445). -/
  invFirst : List Nat
  /-- Packets released to the switch and not yet taken by their unit: port, arrival of the flit, packet. -/
  incoming : List (Nat × Nat × Packet)
  /-- When a packet of each hub was last delivered, and hubs toward which a reconcile has failed (R523). -/
  heard : Tab Nat
  unreconciled : List Nat
  deriving DecidableEq, Repr

end Sys2Proof.Machine
end

