-- ==== Sys2Proof/Machine/PartsSystem.lean ====
section
/-! DEFINITION. The parts of the state that Secrecy (ch. 14), Faults (ch. 15), Tally (ch. 17), Power (ch. 18), Start-up
(ch. 19), the package (ch. 20) and the Henyen controllers (ch. 16) name. -/

namespace Sys2Proof.Machine

/-! ### Secrecy (ch. 14) -/

/-- Key ID states (Table 14.6). -/
inductive KeyState where
  | free | assigned | keyed | destroying | scrub
  deriving DecidableEq, Repr

/-- A key ID (R480, R494, R496). -/
structure KeyId where
  state : KeyState
  tid : Nat
  integrity : Bool
  bin : Nat
  deriving DecidableEq, Repr

/-- Binding of an address context (R481). -/
structure Binding where
  /-- TID named by the last CTX_BIND, that may confirm. -/
  candidate : Option Nat
  /-- TID the context is bound to. -/
  bound : Option Nat
  /-- The confirmed descriptor hash. -/
  hash : Option Nat
  deriving DecidableEq, Repr

/-- A window (Table 14.4), under the number its hub gives it. -/
structure Window where
  number : Nat
  tid : Nat
  kind : Nat
  hub : Nat
  first : Nat
  count : Nat
  rd : Bool
  wr : Bool
  atm : Bool
  region : Nat
  keyId : Nat
  deriving DecidableEq, Repr

/-- A grant of this hub that is outstanding: the requesting hub, its window, the region and key ID (R490). -/
structure Grant where
  hub : Nat
  number : Nat
  region : Nat
  keyId : Nat
  deriving DecidableEq, Repr

/-- A debug nonce that is outstanding (R508): the level it was asked for and the time it was given. -/
structure Nonce where
  level : Nat
  value : Nat
  since : Nat
  deriving DecidableEq, Repr

/-- A share of a region with another tenant's key hash (R490). -/
structure Share where
  region : Nat
  keyHash : Nat
  rd : Bool
  wr : Bool
  atm : Bool
  deriving DecidableEq, Repr

/-- The Eloan root pair (ch. 14). -/
structure Eloan where
  /-- Key hash of each TID above 0 in use. -/
  tenants : Tab Nat
  keys : Tab KeyId
  bindings : Tab Binding
  windows : List Window
  /-- Windows asked for and not yet granted, windows gone whose receipt is owed, grants outstanding. -/
  windowReqs : List Window
  receipts : List Window
  grants : List Grant
  shares : List Share
  /-- TID each host link is bound to. -/
  linkTid : Tab Nat
  /-- Requester key hash of the IDE_KM session that programmed a stream: 2 · link for the link IDE stream, 2 · link + 1 for
  CXL.cachemem IDE (R486). -/
  linkKey : Tab Nat
  /-- TID and last TID hold of each cluster: tid + 1; 0 for none (R489). -/
  clusterTid : Tab Nat
  /-- Clusters waiting for their scrub, and those scrubbed and waiting for an OPEN. -/
  scrubbing : List Nat
  scrubbed : List Nat
  nonces : Tab Nonce
  debugFails : Tab Nat
  /-- Debug level open on each partition: 1 OWNER, 2 VENDOR. -/
  debugOpen : Tab Nat
  /-- Partition resets that debug waits for: the level that opens when one ends, 3 for one that ends an open debug, 4 for one
  that DEBUG_CLOSE asked for. -/
  debugOpening : Tab Nat
  owned : Bool
  ownerGen : Nat
  ownerHash : Nat
  managerHash : Option Nat
  cosign : Bool
  minEloan : Nat
  minHenyen : Nat
  minUcode : Nat
  minPeer : Nat
  /-- SVN raises left per class: Eloan, Henyen, microcode and stock images. -/
  raises : List Nat
  mirrorOk : Bool
  sigFail : Nat
  /-- Full copies of fault records, newest first, by TID (R520). -/
  fullCopies : Tab (List (List Byte))
  deriving DecidableEq, Repr

/-! ### Faults (ch. 15) -/

/-- States of a partition: up, in reset, asleep; failed is kept beside it (R535). -/
inductive PartState where
  | up | inReset | asleep
  deriving DecidableEq, Repr

/-- A partition's reset unit (ch. 15). -/
structure Partition where
  state : PartState
  failed : Bool
  /-- Its HBM stack and plain far frames are lost until the next cold start (R535, R644). -/
  lost : Bool
  epoch : Nat
  standin : Bool
  /-- Guarded rows the stand-in wrote while the partition was away (R540). -/
  resync : List Nat
  /-- Cores to unfence at the next reset, and cores to fence once the partition is up (R529, Table 15.13). -/
  unfence : List Nat
  fenceAtUp : List Nat
  deriving DecidableEq, Repr

/-- A slot of an input log that is open or sealed (R549): its tick and, once sealed, its 4 KiB pages of this hub's store. -/
structure LogSlot where
  tick : Nat
  isSealed : Bool
  pages : List Nat
  deriving DecidableEq, Repr

/-- An input-log entry of the log table (Table 15.9), with its slots. -/
structure LogEntry where
  context : Nat
  primary : Nat
  ring : Nat
  slotBytes : Nat
  depth : Nat
  seals : Nat
  /-- A slot that is not listed is released. -/
  slots : Tab LogSlot
  deriving DecidableEq, Repr

/-- Errors of the silicon (Table 15.2), by the place where a check finds them. -/
inductive SiliconError where
  /-- A DRAM line that the code corrects, with the device; one that it does not correct; one whose MAC fails (R494). -/
  | dramOne (line device : Nat)
  | dramLost (line : Nat)
  | mac (line : Nat)
  /-- Data of a line in its home line cache, clean or dirty. -/
  | cacheData (line : Nat) (dirty : Bool)
  /-- Tag or state of a partition's line cache, with the lines that it held dirty (R532). -/
  | cacheState (part : Nat) (dirty : List Nat)
  /-- An 8-byte word of S-space, or of C-space. -/
  | scratch (cspace : Bool) (word : Nat)
  /-- A cached copy: kind as in detail of cause CACHE (Table 15.4), core, cluster or partition, and place. A partition's TLB
  is unit 384 and above. -/
  | copy (kind unit place : Nat)
  /-- The residue check of the command that an engine carries out. -/
  | residue (core unit : Nat)
  /-- Thread sequencer or queue state of a core. -/
  | sequencer (core : Nat)
  /-- State of a synchronisation object. -/
  | object (key : Nat)
  /-- A Seam queue entry or atomic-buffer line. -/
  | seamArray (line : Nat)
  /-- An entry of an atomic result cache. -/
  | result (part agent tag : Nat)
  /-- A directory entry in one copy or both, and the tag block of a bucket (R391). -/
  | dirEntry (line : Nat) (both : Bool)
  | dirBucket (die bucket : Nat) (both : Bool)
  /-- A second mismatch of a checked pair on one operation: 1 seam die, 2 I/O die, 3 Henyen, 4 Eloan; which of the two. -/
  | pair (unit which : Nat)
  /-- A partition rail out of regulation. -/
  | rail (part : Nat)
  /-- A codeword of a Nelpin port in which the code corrects symbols (Table 12.9). -/
  | codeword (port : Nat)
  deriving DecidableEq, Repr

/-- The RAS unit (ch. 15). -/
structure Ras where
  parts : Tab Partition
  hubEpoch : Nat
  logs : List LogEntry
  /-- Times of the last CORRECTED record by location (R520). -/
  corrected : Tab Nat
  /-- CORRECTED errors since cold start (INT_RAW bit 2, Table 15.12). -/
  correctedTotal : Nat
  spareLeft : Tab Nat
  spareUsed : Tab Nat
  retired : List Nat
  retireList : List Nat
  retiredChannels : List Nat
  /-- Poisoned store lines, hub-local line numbers; poisoned words of S-space and C-space. -/
  poison : Tab Unit
  poisonS : Tab Unit
  poisonC : Tab Unit
  /-- Errors of the silicon that no check has found yet, in the order in which checks find them. -/
  errors : List SiliconError
  /-- Cores and times of residue checks that failed within the last millisecond (Table 15.2). -/
  checks : List (Nat × Nat)
  deriving DecidableEq, Repr

/-! ### The Henyen controllers (ch. 16) -/

/-- A logged register message (R577, R578, R581): the die and transport of its buffer, its sender, its sequence number, its
operations (op, page, offset, value) and the results recorded so far (status, value). -/
structure HenMsg where
  die : Nat
  transport : Nat
  endpoint : Nat
  seq : Nat
  ops : List (Nat × Nat × Nat × Nat)
  results : List (Nat × Nat)
  deriving DecidableEq, Repr

/-- A firmware image: its class, version and security version. -/
structure Image where
  cls : Nat
  version : Nat
  svn : Nat
  deriving DecidableEq, Repr

/-- The Henyen controller pair (ch. 16, R637). -/
structure Henyen where
  active : Nat
  running : List Bool
  log : List HenMsg
  /-- Bytes held in each receive buffer: die · 4 + transport (R577). -/
  buffers : Tab Nat
  /-- Lease cells (holder · 2^32 + count), the standby's last samples and since when they have not moved. -/
  cells : List Nat
  sampled : List Nat
  lastMove : List Nat
  lastRenew : Nat
  /-- The mirror is current, and the time of its last traffic. -/
  mirrorOk : Bool
  mirrorAt : Nat
  /-- Endpoints that hold a manager session. -/
  sessions : List Nat
  /-- The flash slot each controller runs. -/
  slot : List Nat
  /-- HEN_UPD_STATUS.state and code; the update in progress: next entry, order, first tick, spacing, and its direction. -/
  updState : Nat
  updCode : Nat
  updNext : Nat
  updOrder : List Nat
  updFirst : Nat
  updSpacing : Nat
  updBack : Bool
  /-- The image in the shadow banks, the inactive slot or the roots' store, and the one that an update replaced. -/
  loaded : Option Image
  previous : Option Image
  /-- Images committed hub-wide, and the versions each partition runs. -/
  micro : Image
  stock : Image
  eloan : Image
  microVer : Tab Nat
  stockVer : Tab Nat
  deriving DecidableEq, Repr

/-! ### Tally (ch. 17) -/

/-- A tagged command in flight (R604, R605). -/
structure Tagged where
  core : Nat
  unit : Nat
  seq : Nat
  tPush : Nat
  tPop : Nat
  tFirst : Option Nat
  tLast : Nat
  bytesRead : Nat
  bytesWritten : Nat
  deriving DecidableEq, Repr

/-- The sampler of a partition. -/
structure Sampler where
  lfsr : Nat
  countdown : Nat
  records : List (List Byte)
  nextSeq : Nat
  inFlight : List Tagged
  deriving DecidableEq, Repr

/-- Bytes of the open window, and the results of the last one, of one port and direction (R608). -/
structure BwPort where
  bytes : Nat
  last : Nat
  rate : Nat
  peak : Nat
  deriving DecidableEq, Repr

/-- Tally (ch. 17). -/
structure Tally where
  samplers : Tab Sampler
  bw : Tab BwPort
  windowStart : List Nat
  deriving DecidableEq, Repr

end Sys2Proof.Machine
end

