-- ==== Sys2Proof/Machine/PartsPower.lean ====
section
/-! DEFINITION. The parts of the state that Power, clocks and temperature (ch. 18), Start-up, joining and leaving (ch. 19)
and Package, lands and electrical limits (ch. 20) name, what is fused or soldered, and what the hub sends out. -/

namespace Sys2Proof.Machine

/-! ### Power (ch. 18) -/

/-- The five holders of a ceiling (R612), in the rule's order: power, sustained, temperature, neighbour, die sensor. -/
inductive Limit where
  | power | sustained | temperature | neighbour | dieSensor
  deriving DecidableEq, Repr

/-- A partition's operating point machinery (R611 to R626). -/
structure PowerPart where
  /-- A ceiling that has acted, by its holder; one that has not is the variant's highest point. -/
  ceilings : List (Limit × Nat)
  /-- Issue duty in sixteenths, since when it lies below 16, and since when its limits have held with margin (R618). -/
  duty : Nat
  dutySince : Nat
  marginSince : Option Nat
  /-- The effective point now in force, and a raise on its way: the point and the time its clock switches (R613). -/
  point : Nat
  rising : Option (Nat × Nat)
  /-- Limits of R618 that lowered the duty: package (bit 0), partition (bit 1). -/
  dutyBy : Nat
  /-- Last reported power in 10 mW (R610), and energy below one mJ in 10 nJ. -/
  report : Nat
  energyRest : Nat
  /-- Hottest core and stack sensor, quarter degrees (R621). -/
  coreTemp : Int
  stackTemp : Int
  margin : Nat
  lift : Nat
  /-- Droops of the last millisecond, and the time of the last droop or decay (R625). -/
  droops : List Nat
  lastDroop : Nat
  /-- Being lowered by the neighbour-temperature limit (R616), tripped (R622), below its floor in this tick (R620). -/
  neighbourHeld : Bool
  tripped : Bool
  belowFloor : Bool
  /-- Ticks that begin at this time or later use a slot, whatever the interval says; the stack temperature and time of the
  last slot (R626). -/
  slotDue : Option Nat
  slotTemp : Int
  slotTime : Nat
  deriving DecidableEq, Repr

/-- Package supply states (Table 18.3). -/
inductive PkgState where
  | normal | dip | surge | quiescing | quiesced
  deriving DecidableEq, Repr

/-- The package (R610, R617, R619, R624). -/
structure PowerPkg where
  state : PkgState
  /-- VIN now in mV, and since when it has been there. -/
  vin : Nat
  since : Nat
  /-- Spans below 10.8 V of the last 100 ms, newest first, as start and end; the open one's start. -/
  dips : List (Nat × Nat)
  dipStart : Option Nat
  below9 : Option Nat
  surgeStart : Option Nat
  /-- VIN fell below 7.5 V since quiescence began; since when it has held 11.4 V. -/
  below75 : Bool
  above114 : Option Nat
  /-- Quiescence caused by a die sensor (therm_trip_n, Table 20.6). -/
  byTemp : Bool
  /-- Package power reports of the last second, newest first: time and power in 0.1 mW. -/
  reports : List (Nat × Nat)
  /-- Hottest sensor of SD0, SD1, ID0, ID1, quarter degrees. -/
  dieTemp : List Int
  deriving DecidableEq, Repr

/-! ### Start-up (ch. 19) -/

/-- The hub's own phases (R631, Table 19.2). -/
inductive HubPhase where
  | starting | ready | joined | rejoin
  deriving DecidableEq, Repr

/-- The warm record (R638). -/
structure WarmRecord where
  sequence : Nat
  hubId : Nat
  domain : Nat
  guardRows : Nat
  regions : Tab W64
  shgBase : Nat
  frames : Tab Nat
  faceReserve : Nat
  ctxBase : Nat
  contexts : List Nat
  deriving DecidableEq, Repr

/-- Start-up, joining and leaving. -/
structure Startup where
  phase : HubPhase
  domain : Nat
  /-- First frame and key ID of the designated warm-record area (R638), and its two copies. -/
  warmArea : Option (Nat × Nat)
  warmA : Option WarmRecord
  warmB : Option WarmRecord
  /-- The hub waits for its first tick source after JOIN (R633). -/
  firstSource : Bool
  /-- The epoch notice has been sent since FORM or JOIN (R634). -/
  noticeSent : Bool
  /-- Partitions with what waits for their reset to end (R645): 0 a SLEEP, 1 a WAKE, 2 the answer to a WAKE under way. -/
  waitingPower : List (Nat × Nat)
  deriving DecidableEq, Repr

/-! ### The package (ch. 20) -/

/-- A multiplexed land (R657): the function active or last active, the one requested, the state of Table 20.16, the time the
switch began, the moment tz, the hold in half-nanoseconds, the last write, and PIN_CLOCKS as it was when the switch began. -/
structure Land where
  active : Nat
  wanted : Nat
  state : Nat
  since : Nat
  tz : Nat
  hold : Nat
  lastWrite : Nat
  clocks : Nat
  deriving DecidableEq, Repr

/-- The lands and their supplies. -/
structure Pins where
  lands : Tab Land
  vio : Bool
  vstby : Bool
  coldResetLow : Bool
  deriving DecidableEq, Repr

/-- The reference clocks and PLLs (R627): 12 partition PLLs, ID0, ID1, SD0, SD1, management. -/
structure Clocks where
  refA : Bool
  refB : Bool
  onB : Bool
  deriving DecidableEq, Repr

/-! ### What never changes in service -/

/-- Fused facts (R5, R6, Table 16.7). -/
structure Fuse where
  variantB : Bool
  gradeL : Bool
  memOnly : List Nat
  serial : Nat
  stepping : Nat
  deriving DecidableEq, Repr

/-- The board and its flash: 2 MiB frames behind each DDR5 channel (0 for none, R661), the straps (Table 20.7), whether
owner_clear_n was low throughout (R653), and the Henyen images A and B as verified, version, SVN (R580). -/
structure Board where
  channelFrames : List Nat
  split : Nat
  i3cAddr : Nat
  ownerClear : Bool
  images : List (Bool × Nat × Nat)
  deriving DecidableEq, Repr

/-! ### What the hub sends -/

/-- What the hub sends to the outside. -/
inductive Out where
  /-- A flit on a Nelpin port. -/
  | flit (port : Nat) (f : Flit)
  /-- A link-control flit on a Nelpin port: its kind (Table 12.3) and fields. -/
  | control (port : Nat) (kind : Nat) (fields : List Nat)
  /-- A frame on the tick ring. -/
  | ring (frame : List Byte)
  /-- A posted write of poison into host memory: link, address, bytes. -/
  | hostPoison (link addr bytes : Nat)
  /-- A back-invalidate snoop to a host agent: agent, line, kind. -/
  | snoop (agent line : Nat) (kind : SnoopKind)
  /-- An answer to an agent's coherent request: agent, tag, code, data, poison. -/
  | grant (agent tag code : Nat) (data : List Byte) (poison : Bool)
  /-- A conflict acknowledgement (R382): agent, line, and whether its request lies before the snoop. -/
  | conflictAck (agent line : Nat) (before : Bool)
  /-- A posted write into host memory. -/
  | hostWrite (link addr : Nat) (data : List Byte)
  /-- An interrupt of a queue (R366). -/
  | msix (queue : Nat)
  /-- A result of a register operation: status and value (Table 16.4). -/
  | regResult (status value : Nat)
  /-- The MCTP event naming a group (R575). -/
  | event (endpoint group : Nat)
  /-- An I3C target's refusal of a message (R577). -/
  | nack (transport : Nat)
  /-- A completion code of a domain message, with what STATUS returns (Table 19.2). -/
  | domainAnswer (code : Nat) (fields : List Nat)
  /-- The answer to an Eloan message: status and fields (Table 14.9). -/
  | eloanAnswer (code : Nat) (fields : List Nat)
  /-- The answer to a synchronisation operation of another hub or of a host agent: requester, tag, status. -/
  | syncAnswer (who : Requester) (tag status : Nat)
  /-- An envelope to another hub's Eloan root (R491). -/
  | envelope (hub : Nat) (e : Envelope)
  /-- Measurements 1 to 9 (Table 14.8); 0 for one that is not reported. -/
  | measurements (values : List Nat)
  /-- The status of a state-word read (R123). -/
  | word (value : Nat)
  /-- Records that QUERY returns (R603). -/
  | records (data : List Byte)
  deriving DecidableEq, Repr

end Sys2Proof.Machine
end

