-- ==== Sys2Proof/Machine/RegTable.lean ====
section
/-! DEFINITION. The field tables of every register page: offset, lowest bit, length, access type (Table 0.5), reset value and
legal values (R569), written out from the register tables of the chapters (2.11 to 2.15, 3.16 to 3.18, 4.19, 4.20, 5.12,
6.15, 6.16, 8.9, 8.10, 9.14, 10.11, 10.12, 11.11, 12.9, 13.16, 14.12, 14.13, 15.13, 16.2, 16.7, 16.8, 17.6, 17.7, 18.8 to
18.10, 20.16) and the page directory of Table 16.1; and one name per field. -/

namespace Sys2Proof.Machine

/-- Access types (Table 0.5). -/
inductive Access where
  | ro | rw | rws | w1c | w1s | rwl | wo
  deriving DecidableEq, Repr

/-- The legal values of a field (R569): every value its bits hold, ranges, the highest point of the variant (R611), or the
rows available (R271). -/
inductive Legal where
  | any | ranges (rs : List (Nat × Nat)) | point | rows
  deriving DecidableEq, Repr

/-- A field of a register of a page kind. -/
structure Field where
  off : Nat
  lo : Nat
  len : Nat
  access : Access
  reset : Nat
  legal : Legal
  deriving DecidableEq, Repr

/-- A named field: first page of its kind, register offset, lowest bit, length. -/
structure FRef where
  page : Nat
  off : Nat
  lo : Nat
  len : Nat
  deriving DecidableEq, Repr

/-- Block kinds (Table 16.1); the package instance of PWR has its own registers (Table 18.9). -/
inductive Kind where
  | kHUB_ID
  | kHEN
  | kTICK
  | kHUB_RPT
  | kHUB_POOL
  | kHAUL
  | kXLT
  | kHUB_RGN
  | kRAS
  | kTICK_PART
  | kSYNC
  | kSEAM
  | kNFAB
  | kNFAB_CMP
  | kELN
  | kCRYP
  | kHPORT
  | kNLK
  | kSE_BMC
  | kTALLY
  | kTALLY_BW
  | kPWR
  | kPWRPKG
  | kCLK
  | kPIN
  | kCORE
  | kTE
  | kVE
  | kSE
  | kHPORT_Q
  deriving DecidableEq, Repr

/-- First page, number of pages and kind code of each kind (Table 16.1). -/
def Kind.pages : Kind → Nat × Nat × Nat
  | .kHUB_ID => (0, 1, 1)
  | .kHEN => (1, 2, 2)
  | .kTICK => (4, 1, 3)
  | .kHUB_RPT => (5, 1, 11)
  | .kHUB_POOL => (6, 1, 12)
  | .kHAUL => (7, 1, 13)
  | .kXLT => (8, 1, 14)
  | .kHUB_RGN => (9, 1, 17)
  | .kRAS => (10, 1, 24)
  | .kTICK_PART => (16, 12, 4)
  | .kSYNC => (32, 12, 10)
  | .kSEAM => (48, 2, 18)
  | .kNFAB => (50, 2, 20)
  | .kNFAB_CMP => (52, 2, 21)
  | .kELN => (54, 2, 22)
  | .kCRYP => (56, 4, 23)
  | .kHPORT => (64, 8, 15)
  | .kNLK => (128, 48, 19)
  | .kSE_BMC => (256, 24, 9)
  | .kTALLY => (512, 12, 25)
  | .kTALLY_BW => (528, 2, 26)
  | .kPWR => (576, 12, 27)
  | .kPWRPKG => (588, 1, 27)
  | .kCLK => (600, 1, 28)
  | .kPIN => (608, 1, 29)
  | .kCORE => (1024, 384, 5)
  | .kTE => (2048, 384, 6)
  | .kVE => (3072, 384, 7)
  | .kSE => (4096, 384, 8)
  | .kHPORT_Q => (8192, 1024, 16)

/-- The kind and instance of a page (Table 16.1); none for a page that the table does not assign (R561). -/
def pageKind (n : Nat) : Option (Kind × Nat) :=
  if n = 0 then some (.kHUB_ID, 0) else
  if 1 ≤ n ∧ n < 3 then some (.kHEN, n - 1) else
  if n = 4 then some (.kTICK, 0) else
  if n = 5 then some (.kHUB_RPT, 0) else
  if n = 6 then some (.kHUB_POOL, 0) else
  if n = 7 then some (.kHAUL, 0) else
  if n = 8 then some (.kXLT, 0) else
  if n = 9 then some (.kHUB_RGN, 0) else
  if n = 10 then some (.kRAS, 0) else
  if 16 ≤ n ∧ n < 28 then some (.kTICK_PART, n - 16) else
  if 32 ≤ n ∧ n < 44 then some (.kSYNC, n - 32) else
  if 48 ≤ n ∧ n < 50 then some (.kSEAM, n - 48) else
  if 50 ≤ n ∧ n < 52 then some (.kNFAB, n - 50) else
  if 52 ≤ n ∧ n < 54 then some (.kNFAB_CMP, n - 52) else
  if 54 ≤ n ∧ n < 56 then some (.kELN, n - 54) else
  if 56 ≤ n ∧ n < 60 then some (.kCRYP, n - 56) else
  if 64 ≤ n ∧ n < 72 then some (.kHPORT, n - 64) else
  if 128 ≤ n ∧ n < 176 then some (.kNLK, n - 128) else
  if 256 ≤ n ∧ n < 280 then some (.kSE_BMC, n - 256) else
  if 512 ≤ n ∧ n < 524 then some (.kTALLY, n - 512) else
  if 528 ≤ n ∧ n < 530 then some (.kTALLY_BW, n - 528) else
  if 576 ≤ n ∧ n < 588 then some (.kPWR, n - 576) else
  if n = 588 then some (.kPWRPKG, 12) else
  if n = 600 then some (.kCLK, 0) else
  if n = 608 then some (.kPIN, 0) else
  if 1024 ≤ n ∧ n < 1408 then some (.kCORE, n - 1024) else
  if 2048 ≤ n ∧ n < 2432 then some (.kTE, n - 2048) else
  if 3072 ≤ n ∧ n < 3456 then some (.kVE, n - 3072) else
  if 4096 ≤ n ∧ n < 4480 then some (.kSE, n - 4096) else
  if 8192 ≤ n ∧ n < 9216 then some (.kHPORT_Q, n - 8192) else
  none

/-- The common registers (Table 16.2). -/
def commonFields : List Field :=
  [⟨0x0, 0, 16, .ro, 0x0, .any⟩,
   ⟨0x0, 16, 16, .ro, 0x0, .any⟩,
   ⟨0x0, 32, 8, .ro, 0x1, .any⟩,
   ⟨0x8, 0, 1, .ro, 0x0, .any⟩,
   ⟨0x8, 1, 1, .ro, 0x0, .any⟩,
   ⟨0x8, 2, 1, .ro, 0x0, .any⟩,
   ⟨0x8, 3, 1, .ro, 0x0, .any⟩,
   ⟨0x10, 0, 1, .w1s, 0x0, .any⟩,
   ⟨0x10, 1, 1, .rw, 0x1, .any⟩,
   ⟨0x10, 2, 1, .wo, 0x0, .any⟩,
   ⟨0x10, 3, 1, .wo, 0x0, .any⟩,
   ⟨0x18, 0, 2, .ro, 0x0, .any⟩,
   ⟨0x18, 2, 1, .ro, 0x0, .any⟩,
   ⟨0x18, 3, 1, .ro, 0x0, .any⟩,
   ⟨0x18, 4, 1, .ro, 0x0, .any⟩,
   ⟨0x20, 0, 64, .w1c, 0x0, .any⟩,
   ⟨0x28, 0, 64, .rw, 0x0, .any⟩,
   ⟨0x30, 0, 64, .ro, 0x0, .any⟩,
   ⟨0x38, 0, 63, .ro, 0x0, .any⟩,
   ⟨0x38, 63, 1, .ro, 0x0, .any⟩] ++
  [⟨0x40, 0, 12, .ro, 0x0, .any⟩,
   ⟨0x40, 12, 6, .ro, 0x0, .any⟩,
   ⟨0x40, 18, 6, .ro, 0x0, .any⟩,
   ⟨0x40, 24, 1, .ro, 0x0, .any⟩,
   ⟨0x40, 25, 1, .ro, 0x0, .any⟩,
   ⟨0x40, 32, 32, .ro, 0x0, .any⟩,
   ⟨0x48, 0, 32, .ro, 0x0, .any⟩,
   ⟨0x48, 32, 32, .ro, 0x0, .any⟩,
   ⟨0x50, 0, 32, .ro, 0x0, .any⟩,
   ⟨0x60, 0, 1, .w1s, 0x0, .any⟩]

/-- The registers of HUB_ID pages. -/
def fieldsHUB_ID : List Field :=
  [⟨0x100, 0, 1, .ro, 0x0, .any⟩,
   ⟨0x100, 1, 1, .ro, 0x0, .any⟩,
   ⟨0x100, 2, 12, .ro, 0x0, .any⟩,
   ⟨0x100, 16, 10, .ro, 0x0, .any⟩,
   ⟨0x100, 26, 1, .ro, 0x0, .any⟩,
   ⟨0x108, 0, 64, .ro, 0x0, .any⟩,
   ⟨0x110, 0, 8, .ro, 0x0, .any⟩,
   ⟨0x110, 8, 8, .ro, 0x1, .any⟩]

/-- The registers of HEN pages. -/
def fieldsHEN : List Field :=
  [⟨0x100, 0, 1, .ro, 0x0, .any⟩,
   ⟨0x100, 1, 1, .ro, 0x0, .any⟩,
   ⟨0x100, 2, 1, .ro, 0x0, .any⟩,
   ⟨0x100, 16, 16, .ro, 0x0, .any⟩,
   ⟨0x100, 32, 32, .ro, 0x0, .any⟩,
   ⟨0x108, 0, 1, .rw, 0x0, .any⟩,
   ⟨0x108, 1, 8, .rw, 0xA, .any⟩,
   ⟨0x110, 0, 64, .ro, 0x0, .any⟩,
   ⟨0x118, 0, 6, .rw, 0x0, .any⟩,
   ⟨0x118, 6, 4, .rw, 0x0, .any⟩,
   ⟨0x120, 0, 64, .ro, 0x0, .any⟩,
   ⟨0x128, 0, 16, .ro, 0x0, .any⟩,
   ⟨0x128, 16, 16, .ro, 0x0, .any⟩,
   ⟨0x128, 32, 16, .ro, 0x0, .any⟩,
   ⟨0x128, 48, 16, .ro, 0x0, .any⟩,
   ⟨0x130, 12, 46, .rw, 0x0, .any⟩,
   ⟨0x138, 0, 2, .rw, 0x0, .any⟩,
   ⟨0x138, 2, 3, .wo, 0x0, .any⟩,
   ⟨0x140, 0, 64, .rw, 0x0, .any⟩,
   ⟨0x148, 0, 48, .rw, 0xFFFFFFFFFFF, .any⟩] ++
  [⟨0x148, 48, 16, .rw, 0x1, .ranges [(1, 65535)]⟩,
   ⟨0x150, 0, 3, .ro, 0x0, .any⟩,
   ⟨0x150, 3, 1, .ro, 0x0, .any⟩,
   ⟨0x150, 4, 1, .w1c, 0x0, .any⟩,
   ⟨0x150, 8, 4, .ro, 0x0, .any⟩,
   ⟨0x150, 12, 4, .ro, 0x0, .any⟩,
   ⟨0x150, 32, 32, .ro, 0x0, .any⟩]

/-- The registers of TICK pages. -/
def fieldsTICK : List Field :=
  [⟨0x100, 0, 2, .rw, 0x0, .any⟩,
   ⟨0x100, 2, 1, .rw, 0x0, .any⟩,
   ⟨0x100, 3, 1, .rw, 0x1, .any⟩,
   ⟨0x108, 0, 28, .rws, 0x989680, .ranges [(20000, 200000000)]⟩,
   ⟨0x110, 0, 8, .rws, 0xC0, .ranges [(16, 240)]⟩,
   ⟨0x110, 8, 8, .rws, 0x20, .ranges [(16, 128)]⟩,
   ⟨0x118, 0, 64, .ro, 0x0, .any⟩,
   ⟨0x120, 0, 64, .rw, 0x0, .any⟩,
   ⟨0x128, 0, 2, .ro, 0x0, .any⟩,
   ⟨0x128, 2, 2, .ro, 0x0, .any⟩,
   ⟨0x128, 4, 3, .ro, 0x0, .any⟩,
   ⟨0x128, 7, 1, .ro, 0x0, .any⟩,
   ⟨0x128, 16, 16, .ro, 0x0, .any⟩,
   ⟨0x130, 0, 32, .ro, 0x0, .any⟩,
   ⟨0x138, 0, 16, .rw, 0x0, .any⟩,
   ⟨0x140, 6, 52, .rw, 0x0, .any⟩,
   ⟨0x148, 0, 1, .wo, 0x0, .any⟩,
   ⟨0x148, 1, 1, .wo, 0x0, .any⟩,
   ⟨0x148, 16, 13, .wo, 0x0, .any⟩,
   ⟨0x150, 0, 8, .ro, 0x0, .any⟩] ++
  [⟨0x150, 8, 6, .ro, 0x0, .any⟩,
   ⟨0x150, 14, 4, .ro, 0x0, .any⟩,
   ⟨0x150, 18, 13, .ro, 0x0, .any⟩,
   ⟨0x150, 32, 32, .ro, 0x0, .any⟩,
   ⟨0x158, 0, 11, .ro, 0x0, .any⟩]

/-- The registers of HUB_RPT pages. -/
def fieldsHUB_RPT : List Field :=
  [⟨0x100, 12, 46, .rws, 0x0, .any⟩,
   ⟨0x108, 0, 9, .rws, 0x0, .ranges [(0, 256)]⟩,
   ⟨0x110, 0, 32, .ro, 0x0, .any⟩]

/-- The registers of HUB_POOL pages. -/
def fieldsHUB_POOL : List Field :=
  [⟨0x100, 0, 19, .rwl, 0x0, .rows⟩,
   ⟨0x108, 0, 19, .ro, 0x0, .any⟩,
   ⟨0x108, 19, 1, .ro, 0x0, .any⟩,
   ⟨0x110, 0, 32, .ro, 0x5F000, .any⟩,
   ⟨0x110, 32, 32, .ro, 0x0, .any⟩,
   ⟨0x118, 0, 32, .ro, 0x0, .any⟩,
   ⟨0x118, 32, 32, .ro, 0x0, .any⟩,
   ⟨0x120, 0, 19, .rw, 0x0, .any⟩,
   ⟨0x128, 6, 52, .rw, 0x0, .any⟩,
   ⟨0x130, 0, 12, .wo, 0x0, .any⟩,
   ⟨0x130, 12, 12, .wo, 0x0, .any⟩,
   ⟨0x130, 24, 28, .wo, 0x0, .any⟩,
   ⟨0x130, 52, 2, .wo, 0x0, .any⟩,
   ⟨0x138, 0, 4, .ro, 0x0, .any⟩,
   ⟨0x138, 4, 1, .ro, 0x0, .any⟩,
   ⟨0x138, 5, 1, .w1c, 0x0, .any⟩,
   ⟨0x138, 8, 28, .ro, 0x0, .any⟩,
   ⟨0x138, 36, 28, .ro, 0x0, .any⟩,
   ⟨0x140, 0, 32, .ro, 0x0, .any⟩,
   ⟨0x140, 32, 12, .ro, 0x0, .any⟩]

/-- The registers of HAUL pages. -/
def fieldsHAUL : List Field :=
  [⟨0x100, 0, 9, .ro, 0x0, .any⟩,
   ⟨0x100, 9, 9, .ro, 0x0, .any⟩,
   ⟨0x108, 0, 32, .ro, 0x0, .any⟩,
   ⟨0x110, 0, 8, .rw, 0x0, .any⟩,
   ⟨0x118, 0, 12, .ro, 0x0, .any⟩,
   ⟨0x118, 12, 1, .ro, 0x0, .any⟩,
   ⟨0x118, 13, 1, .ro, 0x0, .any⟩,
   ⟨0x118, 14, 1, .ro, 0x0, .any⟩,
   ⟨0x118, 15, 1, .ro, 0x0, .any⟩,
   ⟨0x118, 16, 13, .ro, 0x0, .any⟩,
   ⟨0x118, 32, 32, .ro, 0x0, .any⟩,
   ⟨0x120, 0, 32, .ro, 0x0, .any⟩,
   ⟨0x120, 32, 24, .ro, 0x0, .any⟩]

/-- The registers of XLT pages. -/
def fieldsXLT : List Field :=
  [⟨0x100, 21, 37, .rw, 0x0, .any⟩,
   ⟨0x108, 0, 12, .wo, 0x0, .any⟩,
   ⟨0x108, 12, 3, .wo, 0x0, .any⟩,
   ⟨0x108, 15, 1, .wo, 0x0, .any⟩,
   ⟨0x110, 12, 45, .rw, 0x0, .any⟩,
   ⟨0x118, 0, 46, .rw, 0x1, .ranges [(1, 35184372088832)]⟩,
   ⟨0x120, 0, 4, .ro, 0x0, .any⟩,
   ⟨0x120, 4, 1, .ro, 0x0, .any⟩,
   ⟨0x120, 5, 1, .w1c, 0x0, .any⟩,
   ⟨0x120, 16, 12, .ro, 0x0, .any⟩,
   ⟨0x128, 0, 12, .rw, 0x0, .any⟩,
   ⟨0x130, 0, 32, .ro, 0x0, .any⟩,
   ⟨0x130, 32, 32, .ro, 0x0, .any⟩,
   ⟨0x138, 0, 12, .wo, 0x0, .any⟩,
   ⟨0x140, 0, 1, .ro, 0x0, .any⟩,
   ⟨0x140, 1, 1, .w1c, 0x0, .any⟩,
   ⟨0x140, 16, 12, .ro, 0x0, .any⟩,
   ⟨0x140, 32, 32, .ro, 0x0, .any⟩,
   ⟨0x148, 0, 4, .ro, 0x0, .any⟩,
   ⟨0x148, 4, 2, .ro, 0x0, .any⟩] ++
  [⟨0x148, 16, 12, .ro, 0x0, .any⟩,
   ⟨0x148, 32, 16, .ro, 0x0, .any⟩,
   ⟨0x150, 0, 57, .ro, 0x0, .any⟩,
   ⟨0x158, 0, 64, .ro, 0x0, .any⟩]

/-- The registers of HUB_RGN pages. -/
def fieldsHUB_RGN : List Field :=
  [⟨0x100, 0, 64, .rw, 0x0, .any⟩,
   ⟨0x108, 0, 12, .wo, 0x0, .any⟩,
   ⟨0x108, 12, 3, .wo, 0x0, .any⟩,
   ⟨0x110, 0, 4, .ro, 0x0, .any⟩,
   ⟨0x110, 4, 1, .ro, 0x0, .any⟩,
   ⟨0x110, 5, 1, .w1c, 0x0, .any⟩,
   ⟨0x118, 12, 46, .rw, 0x0, .any⟩,
   ⟨0x120, 0, 17, .ro, 0x0, .any⟩]

/-- The registers of RAS pages. -/
def fieldsRAS : List Field :=
  [⟨0x100, 0, 8, .rw, 0x4, .ranges [(1, 255)]⟩,
   ⟨0x100, 8, 6, .rw, 0x4, .ranges [(1, 32)]⟩,
   ⟨0x108, 12, 46, .rw, 0x0, .any⟩,
   ⟨0x110, 0, 5, .rw, 0x0, .ranges [(0, 0), (6, 20)]⟩,
   ⟨0x110, 32, 32, .ro, 0x0, .any⟩,
   ⟨0x118, 0, 64, .ro, 0x0, .any⟩,
   ⟨0x120, 0, 64, .rw, 0x0, .any⟩,
   ⟨0x128, 0, 16, .ro, 0x0, .any⟩,
   ⟨0x128, 16, 16, .ro, 0x0, .any⟩,
   ⟨0x128, 32, 16, .ro, 0x0, .any⟩,
   ⟨0x128, 48, 16, .ro, 0x0, .any⟩,
   ⟨0x130, 0, 4, .wo, 0x0, .ranges [(0, 11)]⟩,
   ⟨0x130, 4, 1, .wo, 0x0, .any⟩,
   ⟨0x138, 0, 4, .rw, 0x0, .any⟩,
   ⟨0x140, 0, 32, .ro, 0x0, .any⟩,
   ⟨0x140, 32, 1, .ro, 0x0, .any⟩,
   ⟨0x140, 33, 1, .ro, 0x0, .any⟩,
   ⟨0x140, 34, 1, .ro, 0x0, .any⟩,
   ⟨0x140, 35, 14, .ro, 0x0, .any⟩,
   ⟨0x148, 0, 32, .ro, 0x0, .any⟩] ++
  [⟨0x150, 0, 9, .wo, 0x0, .any⟩,
   ⟨0x150, 9, 2, .wo, 0x0, .any⟩,
   ⟨0x158, 0, 6, .rw, 0x0, .ranges [(0, 23), (32, 43)]⟩,
   ⟨0x160, 0, 16, .ro, 0x0, .any⟩,
   ⟨0x160, 16, 16, .ro, 0x0, .any⟩,
   ⟨0x160, 32, 1, .ro, 0x0, .any⟩,
   ⟨0x168, 0, 1, .ro, 0x0, .any⟩,
   ⟨0x168, 21, 37, .ro, 0x0, .any⟩,
   ⟨0x168, 63, 1, .w1s, 0x0, .any⟩,
   ⟨0x170, 0, 32, .wo, 0x0, .any⟩,
   ⟨0x170, 32, 1, .wo, 0x0, .any⟩,
   ⟨0x178, 12, 46, .rws, 0x0, .any⟩,
   ⟨0x180, 0, 11, .rws, 0x0, .ranges [(0, 1024)]⟩,
   ⟨0x188, 0, 10, .rw, 0x0, .any⟩,
   ⟨0x190, 0, 1, .ro, 0x0, .any⟩,
   ⟨0x190, 32, 32, .ro, 0x0, .any⟩]

/-- The registers of TICK_PART pages. -/
def fieldsTICK_PART : List Field :=
  [⟨0x100, 0, 5, .rws, 0x0, .point⟩,
   ⟨0x108, 0, 64, .ro, 0x0, .any⟩,
   ⟨0x110, 0, 64, .ro, 0x0, .any⟩,
   ⟨0x118, 0, 64, .ro, 0x0, .any⟩,
   ⟨0x120, 0, 64, .ro, 0x0, .any⟩,
   ⟨0x128, 0, 12, .ro, 0x0, .any⟩,
   ⟨0x130, 0, 2, .ro, 0x0, .any⟩,
   ⟨0x130, 2, 1, .ro, 0x0, .any⟩]

/-- The registers of SYNC pages. -/
def fieldsSYNC : List Field :=
  [⟨0x100, 0, 15, .ro, 0x0, .any⟩,
   ⟨0x100, 16, 15, .ro, 0x0, .any⟩,
   ⟨0x100, 31, 1, .wo, 0x0, .any⟩,
   ⟨0x108, 0, 1, .ro, 0x0, .any⟩,
   ⟨0x110, 0, 13, .rw, 0x0, .ranges [(0, 6143)]⟩,
   ⟨0x118, 0, 64, .ro, 0x0, .any⟩]

/-- The registers of SEAM pages. -/
def fieldsSEAM : List Field :=
  [⟨0x100, 0, 6, .rw, 0x8, .ranges [(1, 32)]⟩,
   ⟨0x108, 0, 16, .ro, 0x0, .any⟩,
   ⟨0x108, 16, 17, .ro, 0x0, .any⟩,
   ⟨0x108, 33, 1, .ro, 0x0, .any⟩,
   ⟨0x110, 0, 12, .ro, 0x0, .any⟩,
   ⟨0x110, 32, 32, .ro, 0x0, .any⟩,
   ⟨0x118, 0, 32, .ro, 0x0, .any⟩,
   ⟨0x118, 32, 16, .ro, 0x0, .any⟩,
   ⟨0x118, 48, 12, .ro, 0x0, .any⟩,
   ⟨0x120, 0, 32, .ro, 0x0, .any⟩,
   ⟨0x120, 32, 12, .ro, 0x0, .any⟩,
   ⟨0x128, 0, 32, .ro, 0x0, .any⟩,
   ⟨0x128, 32, 16, .ro, 0x0, .any⟩,
   ⟨0x130, 0, 12, .rw, 0x0, .any⟩,
   ⟨0x138, 0, 2, .ro, 0x0, .any⟩,
   ⟨0x138, 2, 1, .ro, 0x0, .any⟩,
   ⟨0x138, 3, 1, .wo, 0x0, .any⟩,
   ⟨0x138, 32, 25, .ro, 0x0, .any⟩,
   ⟨0x140, 0, 25, .ro, 0x0, .any⟩,
   ⟨0x140, 25, 1, .ro, 0x0, .any⟩] ++
  [⟨0x148, 0, 11, .ro, 0x0, .any⟩]

/-- The registers of NFAB pages. -/
def fieldsNFAB : List Field :=
  [⟨0x100, 0, 1, .rw, 0x1, .any⟩,
   ⟨0x100, 1, 1, .rw, 0x1, .any⟩,
   ⟨0x108, 0, 5, .rw, 0x8, .ranges [(2, 31)]⟩,
   ⟨0x110, 13, 45, .rws, 0x0, .any⟩,
   ⟨0x118, 13, 45, .rws, 0x0, .any⟩,
   ⟨0x120, 18, 40, .rws, 0x0, .any⟩,
   ⟨0x128, 0, 11, .rws, 0x0, .ranges [(0, 1024)]⟩,
   ⟨0x130, 0, 6, .rws, 0x3F, .any⟩,
   ⟨0x130, 6, 48, .rws, 0x0, .any⟩,
   ⟨0x138, 0, 64, .ro, 0x0, .any⟩,
   ⟨0x140, 0, 32, .ro, 0x0, .any⟩,
   ⟨0x140, 32, 32, .ro, 0x0, .any⟩,
   ⟨0x148, 0, 16, .ro, 0x0, .any⟩,
   ⟨0x148, 16, 16, .ro, 0x0, .any⟩,
   ⟨0x148, 32, 16, .ro, 0x0, .any⟩,
   ⟨0x148, 48, 16, .ro, 0x0, .any⟩,
   ⟨0x150, 0, 16, .ro, 0x0, .any⟩,
   ⟨0x150, 16, 16, .ro, 0x0, .any⟩,
   ⟨0x150, 32, 16, .ro, 0x0, .any⟩,
   ⟨0x158, 0, 16, .ro, 0x0, .any⟩] ++
  [⟨0x158, 16, 16, .ro, 0x0, .any⟩,
   ⟨0x158, 32, 16, .ro, 0x0, .any⟩,
   ⟨0x158, 48, 16, .ro, 0x0, .any⟩,
   ⟨0x160, 0, 32, .ro, 0x0, .any⟩,
   ⟨0x160, 32, 10, .ro, 0x0, .any⟩,
   ⟨0x160, 42, 8, .ro, 0x0, .any⟩,
   ⟨0x160, 50, 14, .ro, 0x0, .any⟩,
   ⟨0x168, 0, 4, .rw, 0x0, .ranges [(0, 11)]⟩,
   ⟨0x170, 0, 14, .ro, 0x0, .any⟩,
   ⟨0x170, 14, 14, .ro, 0x0, .any⟩,
   ⟨0x170, 28, 1, .wo, 0x0, .any⟩]

/-- The registers of NFAB_CMP pages. -/
def fieldsNFAB_CMP : List Field :=
  [⟨0x100, 0, 3, .rws, 0x0, .ranges [(0, 5)]⟩,
   ⟨0x100, 3, 3, .rws, 0x0, .ranges [(0, 6)]⟩,
   ⟨0x100, 6, 7, .rws, 0x1, .ranges [(1, 64)]⟩,
   ⟨0x100, 13, 3, .rws, 0x0, .ranges [(0, 4)]⟩,
   ⟨0x180, 0, 8, .rw, 0x60, .ranges [(2, 128)]⟩,
   ⟨0x180, 8, 8, .rw, 0x40, .ranges [(1, 127)]⟩,
   ⟨0x188, 0, 24, .ro, 0x0, .any⟩,
   ⟨0x188, 24, 24, .ro, 0x0, .any⟩,
   ⟨0x190, 0, 24, .ro, 0x0, .any⟩,
   ⟨0x190, 24, 1, .wo, 0x0, .any⟩,
   ⟨0x198, 0, 32, .ro, 0x0, .any⟩,
   ⟨0x198, 32, 32, .ro, 0x0, .any⟩,
   ⟨0x1A0, 0, 13, .ro, 0x0, .any⟩,
   ⟨0x1A8, 0, 32, .ro, 0x0, .any⟩,
   ⟨0x1A8, 32, 10, .ro, 0x0, .any⟩,
   ⟨0x1B0, 0, 12, .rw, 0x0, .any⟩,
   ⟨0x1B8, 0, 3, .ro, 0x0, .any⟩]

/-- The registers of ELN pages. -/
def fieldsELN : List Field :=
  [⟨0x100, 0, 2, .ro, 0x0, .any⟩,
   ⟨0x100, 2, 7, .ro, 0x0, .any⟩,
   ⟨0x100, 9, 12, .ro, 0x0, .any⟩,
   ⟨0x100, 21, 1, .ro, 0x0, .any⟩,
   ⟨0x100, 22, 1, .ro, 0x0, .any⟩,
   ⟨0x100, 23, 1, .ro, 0x0, .any⟩,
   ⟨0x108, 0, 16, .ro, 0x0, .any⟩,
   ⟨0x108, 16, 16, .ro, 0x0, .any⟩,
   ⟨0x108, 32, 16, .ro, 0x0, .any⟩,
   ⟨0x108, 48, 16, .ro, 0x0, .any⟩,
   ⟨0x110, 0, 10, .ro, 0x0, .any⟩,
   ⟨0x110, 10, 13, .ro, 0x0, .any⟩,
   ⟨0x110, 23, 12, .ro, 0x0, .any⟩,
   ⟨0x110, 48, 16, .ro, 0x0, .any⟩,
   ⟨0x118, 0, 12, .rw, 0x0, .any⟩,
   ⟨0x120, 0, 3, .ro, 0x0, .any⟩,
   ⟨0x120, 3, 1, .ro, 0x0, .any⟩,
   ⟨0x120, 4, 3, .ro, 0x0, .any⟩,
   ⟨0x120, 7, 10, .ro, 0x0, .any⟩,
   ⟨0x120, 32, 16, .ro, 0x0, .any⟩] ++
  [⟨0x128, 0, 12, .ro, 0x0, .any⟩,
   ⟨0x128, 12, 12, .ro, 0x0, .any⟩]

/-- The registers of CRYP pages. -/
def fieldsCRYP : List Field :=
  [⟨0x100, 0, 32, .ro, 0x0, .any⟩,
   ⟨0x100, 32, 32, .ro, 0x0, .any⟩,
   ⟨0x108, 0, 12, .ro, 0x0, .any⟩,
   ⟨0x108, 12, 4, .ro, 0x0, .any⟩,
   ⟨0x110, 0, 32, .ro, 0x0, .any⟩]

/-- The registers of HPORT pages. -/
def fieldsHPORT : List Field :=
  [⟨0x100, 0, 1, .rwl, 0x0, .any⟩,
   ⟨0x100, 1, 1, .rw, 0x0, .any⟩,
   ⟨0x100, 2, 10, .rw, 0x8, .ranges [(2, 1000)]⟩,
   ⟨0x100, 12, 1, .w1s, 0x0, .any⟩,
   ⟨0x180, 0, 2, .ro, 0x0, .any⟩,
   ⟨0x180, 2, 5, .ro, 0x0, .any⟩,
   ⟨0x180, 7, 2, .ro, 0x0, .any⟩,
   ⟨0x180, 9, 1, .ro, 0x0, .any⟩,
   ⟨0x180, 10, 1, .ro, 0x0, .any⟩,
   ⟨0x180, 11, 1, .ro, 0x0, .any⟩,
   ⟨0x180, 32, 32, .ro, 0x0, .any⟩,
   ⟨0x188, 0, 12, .rw, 0x0, .ranges [(1024, 4095)]⟩,
   ⟨0x188, 12, 1, .rw, 0x0, .any⟩,
   ⟨0x190, 12, 52, .rw, 0x0, .any⟩,
   ⟨0x198, 0, 34, .rw, 0x0, .ranges [(0, 8589934592)]⟩,
   ⟨0x1A0, 12, 46, .rw, 0x0, .any⟩,
   ⟨0x1A8, 0, 25, .rw, 0x0, .ranges [(0, 16777216)]⟩,
   ⟨0x1B0, 0, 1, .w1s, 0x0, .any⟩,
   ⟨0x1B8, 0, 13, .rw, 0x0, .any⟩,
   ⟨0x1B8, 13, 1, .rw, 0x0, .any⟩] ++
  [⟨0x1C0, 0, 32, .ro, 0x0, .any⟩,
   ⟨0x1C0, 32, 4, .ro, 0x0, .any⟩]

/-- The registers of NLK pages. -/
def fieldsNLK : List Field :=
  [⟨0x100, 0, 1, .rw, 0x0, .any⟩,
   ⟨0x100, 1, 1, .w1s, 0x0, .any⟩,
   ⟨0x100, 2, 1, .rw, 0x1, .any⟩,
   ⟨0x100, 3, 4, .rw, 0x0, .any⟩,
   ⟨0x100, 7, 1, .rwl, 0x0, .any⟩,
   ⟨0x108, 0, 8, .rw, 0x64, .ranges [(10, 255)]⟩,
   ⟨0x108, 8, 5, .rw, 0x8, .ranges [(2, 31)]⟩,
   ⟨0x108, 13, 4, .rw, 0x4, .ranges [(1, 15)]⟩,
   ⟨0x108, 17, 4, .rw, 0x3, .ranges [(1, 15)]⟩,
   ⟨0x108, 21, 11, .rw, 0x100, .ranges [(16, 2047)]⟩,
   ⟨0x110, 0, 4, .ro, 0x0, .any⟩,
   ⟨0x110, 4, 3, .ro, 0x0, .any⟩,
   ⟨0x110, 7, 4, .ro, 0x0, .any⟩,
   ⟨0x110, 11, 4, .ro, 0x0, .any⟩,
   ⟨0x110, 32, 32, .ro, 0x0, .any⟩,
   ⟨0x118, 0, 10, .ro, 0x0, .any⟩,
   ⟨0x118, 10, 6, .ro, 0x0, .any⟩,
   ⟨0x118, 16, 1, .ro, 0x0, .any⟩,
   ⟨0x118, 32, 32, .ro, 0x0, .any⟩,
   ⟨0x120, 0, 20, .ro, 0x0, .any⟩] ++
  [⟨0x120, 32, 32, .ro, 0x0, .any⟩,
   ⟨0x128, 0, 32, .ro, 0x0, .any⟩,
   ⟨0x128, 32, 32, .ro, 0x0, .any⟩,
   ⟨0x130, 0, 16, .ro, 0x0, .any⟩,
   ⟨0x130, 16, 16, .ro, 0x0, .any⟩,
   ⟨0x130, 32, 16, .ro, 0x0, .any⟩,
   ⟨0x130, 48, 16, .ro, 0x0, .any⟩,
   ⟨0x138, 0, 32, .ro, 0x0, .any⟩,
   ⟨0x138, 32, 32, .ro, 0x0, .any⟩,
   ⟨0x140, 0, 32, .ro, 0x0, .any⟩,
   ⟨0x148, 0, 11, .ro, 0x0, .any⟩,
   ⟨0x148, 11, 1, .ro, 0x0, .any⟩,
   ⟨0x148, 12, 1, .ro, 0x0, .any⟩]

/-- The registers of SE_BMC pages. -/
def fieldsSE_BMC : List Field :=
  [⟨0x100, 0, 1, .w1s, 0x0, .any⟩,
   ⟨0x108, 0, 15, .ro, 0x0, .any⟩]

/-- The registers of TALLY pages. -/
def fieldsTALLY : List Field :=
  [⟨0x100, 0, 8, .rw, 0x0, .any⟩,
   ⟨0x100, 8, 8, .rw, 0x0, .any⟩,
   ⟨0x100, 16, 1, .rw, 0x0, .any⟩,
   ⟨0x100, 17, 1, .w1c, 0x0, .any⟩,
   ⟨0x100, 18, 1, .rw, 0x0, .any⟩,
   ⟨0x100, 20, 10, .rw, 0x0, .any⟩,
   ⟨0x100, 30, 6, .rw, 0x3F, .any⟩,
   ⟨0x100, 36, 5, .rw, 0x0, .any⟩,
   ⟨0x100, 41, 1, .rw, 0x0, .any⟩,
   ⟨0x100, 42, 12, .rw, 0x0, .any⟩,
   ⟨0x100, 54, 1, .rw, 0x0, .any⟩,
   ⟨0x100, 55, 4, .rw, 0x0, .ranges [(0, 8)]⟩,
   ⟨0x300, 0, 64, .rw, 0x0, .any⟩,
   ⟨0x500, 0, 64, .ro, 0x0, .any⟩,
   ⟨0x700, 0, 1, .w1s, 0x0, .any⟩,
   ⟨0x700, 1, 1, .rw, 0x0, .any⟩,
   ⟨0x708, 6, 52, .rw, 0x0, .any⟩,
   ⟨0x710, 6, 52, .rw, 0x0, .any⟩,
   ⟨0x788, 0, 1, .rw, 0x0, .any⟩,
   ⟨0x788, 1, 10, .rw, 0x0, .any⟩] ++
  [⟨0x788, 11, 4, .rw, 0xF, .any⟩,
   ⟨0x788, 15, 16, .rw, 0x400, .ranges [(1, 65535)]⟩,
   ⟨0x788, 31, 4, .rw, 0x8, .any⟩,
   ⟨0x788, 35, 10, .rw, 0x100, .ranges [(1, 512)]⟩,
   ⟨0x790, 0, 32, .wo, 0x0, .ranges [(1, 4294967295)]⟩,
   ⟨0x798, 0, 10, .ro, 0x0, .any⟩,
   ⟨0x798, 16, 16, .ro, 0x0, .any⟩,
   ⟨0x798, 32, 4, .ro, 0x0, .any⟩,
   ⟨0x7A0, 0, 64, .ro, 0x0, .any⟩,
   ⟨0x7E0, 0, 1, .w1s, 0x0, .any⟩]

/-- The registers of TALLY_BW pages. -/
def fieldsTALLY_BW : List Field :=
  [⟨0x100, 0, 30, .rw, 0xF4240, .ranges [(1000, 1000000000)]⟩,
   ⟨0x100, 30, 1, .rw, 0x0, .any⟩,
   ⟨0x100, 31, 1, .rw, 0x0, .any⟩,
   ⟨0x108, 0, 6, .rw, 0x0, .ranges [(0, 39)]⟩,
   ⟨0x108, 6, 1, .rw, 0x0, .any⟩,
   ⟨0x110, 0, 48, .ro, 0x0, .any⟩,
   ⟨0x118, 0, 32, .ro, 0x0, .any⟩,
   ⟨0x118, 32, 32, .ro, 0x0, .any⟩,
   ⟨0x120, 0, 1, .wo, 0x0, .any⟩,
   ⟨0x128, 0, 6, .rw, 0x0, .ranges [(0, 39)]⟩,
   ⟨0x128, 6, 1, .rw, 0x0, .any⟩,
   ⟨0x128, 32, 32, .rw, 0x0, .any⟩,
   ⟨0x130, 0, 64, .ro, 0x0, .any⟩]

/-- The registers of PWR pages. -/
def fieldsPWR : List Field :=
  [⟨0x100, 0, 5, .rws, 0x10, .point⟩,
   ⟨0x108, 0, 5, .ro, 0x0, .any⟩,
   ⟨0x108, 5, 5, .ro, 0x10, .any⟩,
   ⟨0x108, 10, 4, .ro, 0x0, .any⟩,
   ⟨0x108, 14, 4, .ro, 0x0, .any⟩,
   ⟨0x108, 18, 6, .ro, 0x0, .any⟩,
   ⟨0x110, 0, 12, .ro, 0x0, .any⟩,
   ⟨0x110, 12, 12, .ro, 0x0, .any⟩,
   ⟨0x118, 0, 7, .rw, 0x5F, .ranges [(70, 100)]⟩,
   ⟨0x118, 7, 7, .rw, 0x5F, .ranges [(70, 100)]⟩,
   ⟨0x120, 0, 16, .ro, 0x0, .any⟩,
   ⟨0x128, 0, 64, .ro, 0x0, .any⟩,
   ⟨0x130, 0, 7, .rw, 0x64, .ranges [(20, 100)]⟩,
   ⟨0x138, 0, 16, .rw, 0x3E8, .ranges [(100, 65535)]⟩,
   ⟨0x138, 16, 16, .ro, 0x0, .any⟩,
   ⟨0x138, 32, 32, .ro, 0x0, .any⟩,
   ⟨0x140, 0, 8, .rw, 0x10, .ranges [(1, 255)]⟩,
   ⟨0x140, 32, 32, .ro, 0x0, .any⟩]

/-- The registers of PWRPKG pages. -/
def fieldsPWRPKG : List Field :=
  [⟨0x100, 0, 16, .ro, 0x0, .any⟩,
   ⟨0x100, 16, 12, .ro, 0x0, .any⟩,
   ⟨0x100, 28, 3, .ro, 0x0, .any⟩,
   ⟨0x108, 0, 16, .ro, 0x0, .any⟩,
   ⟨0x108, 16, 16, .ro, 0x0, .any⟩,
   ⟨0x110, 0, 12, .rw, 0x898, .ranges [(1000, 2200)]⟩,
   ⟨0x110, 16, 12, .rw, 0x9C4, .ranges [(1200, 2500)]⟩,
   ⟨0x118, 0, 14, .ro, 0x0, .any⟩,
   ⟨0x118, 32, 16, .ro, 0x0, .any⟩,
   ⟨0x118, 48, 16, .ro, 0x0, .any⟩,
   ⟨0x120, 0, 12, .ro, 0x0, .any⟩,
   ⟨0x120, 12, 12, .ro, 0x0, .any⟩,
   ⟨0x120, 24, 12, .ro, 0x0, .any⟩,
   ⟨0x120, 36, 12, .ro, 0x0, .any⟩]

/-- The registers of CLK pages. -/
def fieldsCLK : List Field :=
  [⟨0x100, 0, 1, .ro, 0x0, .any⟩,
   ⟨0x100, 1, 1, .ro, 0x0, .any⟩,
   ⟨0x100, 2, 1, .ro, 0x0, .any⟩,
   ⟨0x100, 3, 12, .ro, 0x0, .any⟩,
   ⟨0x100, 15, 4, .ro, 0x0, .any⟩,
   ⟨0x100, 19, 1, .ro, 0x0, .any⟩,
   ⟨0x108, 0, 1, .rw, 0x0, .any⟩,
   ⟨0x110, 0, 32, .ro, 0x0, .any⟩]

/-- The registers of PIN pages. -/
def fieldsPIN : List Field :=
  [⟨0x100, 0, 48, .rw, 0x11, .any⟩,
   ⟨0x108, 0, 48, .rw, 0x11, .any⟩,
   ⟨0x110, 0, 24, .ro, 0x0, .any⟩,
   ⟨0x110, 24, 24, .ro, 0x0, .any⟩,
   ⟨0x118, 0, 12, .rw, 0x0, .any⟩,
   ⟨0x118, 12, 12, .rw, 0x0, .any⟩,
   ⟨0x118, 24, 12, .rw, 0x0, .any⟩,
   ⟨0x118, 36, 12, .rw, 0x0, .any⟩,
   ⟨0x120, 0, 12, .ro, 0x0, .any⟩,
   ⟨0x120, 12, 12, .ro, 0x0, .any⟩,
   ⟨0x128, 0, 2, .rw, 0x0, .ranges [(0, 2)]⟩,
   ⟨0x128, 2, 7, .rw, 0x7D, .ranges [(1, 125)]⟩,
   ⟨0x130, 0, 8, .ro, 0x0, .any⟩,
   ⟨0x130, 8, 2, .ro, 0x0, .any⟩,
   ⟨0x130, 10, 1, .ro, 0x0, .any⟩,
   ⟨0x138, 0, 1, .ro, 0x0, .any⟩,
   ⟨0x138, 1, 1, .ro, 0x1, .any⟩,
   ⟨0x138, 2, 1, .ro, 0x0, .any⟩,
   ⟨0x138, 3, 1, .ro, 0x0, .any⟩,
   ⟨0x140, 0, 1, .ro, 0x0, .any⟩] ++
  [⟨0x140, 1, 1, .ro, 0x0, .any⟩,
   ⟨0x140, 2, 1, .ro, 0x0, .any⟩]

/-- The registers of CORE pages. -/
def fieldsCORE : List Field :=
  [⟨0x100, 0, 12, .rw, 0x40, .ranges [(1, 4095)]⟩,
   ⟨0x108, 0, 16, .rw, 0x400, .ranges [(1, 65535)]⟩,
   ⟨0x110, 0, 6, .rw, 0x0, .any⟩,
   ⟨0x118, 0, 4, .ro, 0x0, .any⟩,
   ⟨0x118, 4, 13, .ro, 0x0, .any⟩,
   ⟨0x118, 17, 1, .ro, 0x0, .any⟩,
   ⟨0x118, 18, 8, .ro, 0x0, .any⟩,
   ⟨0x118, 26, 16, .ro, 0x0, .any⟩,
   ⟨0x118, 42, 16, .ro, 0x0, .any⟩,
   ⟨0x120, 0, 57, .ro, 0x0, .any⟩,
   ⟨0x128, 0, 7, .ro, 0x0, .any⟩,
   ⟨0x128, 7, 1, .ro, 0x0, .any⟩,
   ⟨0x130, 0, 1, .w1s, 0x0, .any⟩]

/-- The registers of TE pages. -/
def fieldsTE : List Field :=
  [⟨0x100, 0, 7, .w1c, 0x0, .any⟩,
   ⟨0x108, 0, 8, .ro, 0x0, .any⟩,
   ⟨0x108, 8, 6, .ro, 0x0, .any⟩,
   ⟨0x108, 32, 32, .ro, 0x0, .any⟩,
   ⟨0x110, 0, 64, .ro, 0x0, .any⟩]

/-- The registers of VE pages. -/
def fieldsVE : List Field :=
  [⟨0x100, 0, 7, .w1c, 0x0, .any⟩,
   ⟨0x108, 0, 8, .ro, 0x0, .any⟩,
   ⟨0x108, 8, 6, .ro, 0x0, .any⟩,
   ⟨0x108, 32, 32, .ro, 0x0, .any⟩,
   ⟨0x110, 0, 3, .rw, 0x0, .any⟩,
   ⟨0x110, 8, 8, .rw, 0x0, .any⟩,
   ⟨0x118, 0, 32, .ro, 0x0, .any⟩]

/-- The registers of SE pages. -/
def fieldsSE : List Field :=
  [⟨0x100, 0, 8, .ro, 0x0, .any⟩,
   ⟨0x100, 8, 6, .ro, 0x0, .any⟩,
   ⟨0x100, 14, 6, .ro, 0x0, .any⟩,
   ⟨0x100, 32, 32, .ro, 0x0, .any⟩,
   ⟨0x108, 0, 9, .rw, 0x100, .ranges [(16, 256)]⟩,
   ⟨0x110, 0, 7, .ro, 0x0, .any⟩,
   ⟨0x110, 8, 7, .ro, 0x0, .any⟩,
   ⟨0x118, 0, 10, .rw, 0x0, .any⟩,
   ⟨0x120, 0, 64, .ro, 0x0, .any⟩,
   ⟨0x128, 0, 64, .ro, 0x0, .any⟩,
   ⟨0x130, 0, 12, .ro, 0x0, .any⟩,
   ⟨0x130, 12, 1, .ro, 0x0, .any⟩,
   ⟨0x130, 13, 1, .ro, 0x0, .any⟩,
   ⟨0x138, 0, 32, .ro, 0x0, .any⟩,
   ⟨0x140, 0, 48, .ro, 0x0, .any⟩]

/-- The registers of HPORT_Q pages. -/
def fieldsHPORT_Q : List Field :=
  [⟨0x100, 0, 12, .rw, 0x0, .any⟩,
   ⟨0x100, 12, 4, .rw, 0x0, .ranges [(0, 11)]⟩,
   ⟨0x100, 16, 13, .rw, 0x0, .any⟩,
   ⟨0x100, 29, 1, .rw, 0x0, .any⟩,
   ⟨0x100, 30, 1, .rw, 0x0, .any⟩,
   ⟨0x108, 0, 2, .ro, 0x0, .any⟩,
   ⟨0x108, 2, 5, .ro, 0x0, .any⟩,
   ⟨0x108, 7, 4, .ro, 0x0, .any⟩,
   ⟨0x108, 11, 1, .ro, 0x0, .any⟩,
   ⟨0x108, 12, 9, .ro, 0x0, .any⟩]

/-- The fields a block kind adds to the common ones (R562). -/
def Kind.fields : Kind → List Field
  | .kHUB_ID => fieldsHUB_ID
  | .kHEN => fieldsHEN
  | .kTICK => fieldsTICK
  | .kHUB_RPT => fieldsHUB_RPT
  | .kHUB_POOL => fieldsHUB_POOL
  | .kHAUL => fieldsHAUL
  | .kXLT => fieldsXLT
  | .kHUB_RGN => fieldsHUB_RGN
  | .kRAS => fieldsRAS
  | .kTICK_PART => fieldsTICK_PART
  | .kSYNC => fieldsSYNC
  | .kSEAM => fieldsSEAM
  | .kNFAB => fieldsNFAB
  | .kNFAB_CMP => fieldsNFAB_CMP
  | .kELN => fieldsELN
  | .kCRYP => fieldsCRYP
  | .kHPORT => fieldsHPORT
  | .kNLK => fieldsNLK
  | .kSE_BMC => fieldsSE_BMC
  | .kTALLY => fieldsTALLY
  | .kTALLY_BW => fieldsTALLY_BW
  | .kPWR => fieldsPWR
  | .kPWRPKG => fieldsPWRPKG
  | .kCLK => fieldsCLK
  | .kPIN => fieldsPIN
  | .kCORE => fieldsCORE
  | .kTE => fieldsTE
  | .kVE => fieldsVE
  | .kSE => fieldsSE
  | .kHPORT_Q => fieldsHPORT_Q

/-- Arrays of registers are written once in the tables: the offset of the array's first element (Tables 5.12, 10.11, 17.6). -/
def Kind.canonOff (k : Kind) (off : Nat) : Nat :=
  match k with
  | .kNFAB_CMP => if 0x100 ≤ off ∧ off < 0x178 then 0x100 else off
  | .kHPORT => if 0x200 ≤ off ∧ off < 0x248 then off - 0x80 else off
  | .kTALLY =>
    if 0x100 ≤ off ∧ off < 0x300 then 0x100 else if 0x300 ≤ off ∧ off < 0x500 then 0x300 else
    if 0x500 ≤ off ∧ off < 0x700 then 0x500 else
    if 0x708 ≤ off ∧ off < 0x788 then 0x708 + (off - 0x708) % 16 else
    if 0x7A0 ≤ off ∧ off < 0x7E0 then 0x7A0 else off
  | _ => off

/-- The fields of a register: those of its kind at its offset, or the common ones below +0x100. -/
def regFields (k : Kind) (off : Nat) : List Field :=
  if off < 0x100 then commonFields.filter (fun f => f.off == off)
  else k.fields.filter (fun f => f.off == k.canonOff off)

/-- The reset value of the register at a key, page · 512 + offset ÷ 8 (the Reset columns; what a table states for no value,
or states as fused, strapped or a view of other state, is 0 here and comes from that state on a read). -/
def regReset (key : Nat) : W64 :=
  match pageKind (key / 512) with
  | none => 0
  | some (k, _) =>
    BitVec.ofNat 64 ((regFields k (key % 512 * 8)).foldl (fun a f => a + f.reset * 2 ^ f.lo) 0)

/-- A field of the array element at a byte distance from the first. -/
def FRef.shift (r : FRef) (d : Nat) : FRef := { r with off := r.off + d }

namespace F
/-- TICK_CTRL.role -/
def TICK_CTRL_role : FRef := ⟨4, 0x100, 0, 2⟩
/-- TICK_CTRL.ring_en -/
def TICK_CTRL_ring_en : FRef := ⟨4, 0x100, 2, 1⟩
/-- TICK_CTRL.inband_en -/
def TICK_CTRL_inband_en : FRef := ⟨4, 0x100, 3, 1⟩
/-- TICK_PERIOD.period_ns -/
def TICK_PERIOD_period_ns : FRef := ⟨4, 0x108, 0, 28⟩
/-- TICK_PHASE.watch -/
def TICK_PHASE_watch : FRef := ⟨4, 0x110, 0, 8⟩
/-- TICK_PHASE.headroom -/
def TICK_PHASE_headroom : FRef := ⟨4, 0x110, 8, 8⟩
/-- TICK_NUMBER.number -/
def TICK_NUMBER_number : FRef := ⟨4, 0x118, 0, 64⟩
/-- TICK_COMMIT_TICK.tick -/
def TICK_COMMIT_TICK_tick : FRef := ⟨4, 0x120, 0, 64⟩
/-- TICK_STATUS.lock -/
def TICK_STATUS_lock : FRef := ⟨4, 0x128, 0, 2⟩
/-- TICK_STATUS.source -/
def TICK_STATUS_source : FRef := ⟨4, 0x128, 2, 2⟩
/-- TICK_STATUS.phase -/
def TICK_STATUS_phase : FRef := ⟨4, 0x128, 4, 3⟩
/-- TICK_STATUS.period_mismatch -/
def TICK_STATUS_period_mismatch : FRef := ⟨4, 0x128, 7, 1⟩
/-- TICK_STATUS.holdover_ms -/
def TICK_STATUS_holdover_ms : FRef := ⟨4, 0x128, 16, 16⟩
/-- TICK_OFFSET.offset -/
def TICK_OFFSET_offset : FRef := ⟨4, 0x130, 0, 32⟩
/-- TICK_RING_DELAY.delay -/
def TICK_RING_DELAY_delay : FRef := ⟨4, 0x138, 0, 16⟩
/-- TICK_ADM_ADDR.addr -/
def TICK_ADM_ADDR_addr : FRef := ⟨4, 0x140, 6, 52⟩
/-- TICK_ADM_GO, bit 0: request admission -/
def TICK_ADM_GO_admit : FRef := ⟨4, 0x148, 0, 1⟩
/-- TICK_ADM_GO.withdraw -/
def TICK_ADM_GO_withdraw : FRef := ⟨4, 0x148, 1, 1⟩
/-- TICK_ADM_GO.handle -/
def TICK_ADM_GO_handle : FRef := ⟨4, 0x148, 16, 13⟩
/-- TICK_ADM_RESULT.code -/
def TICK_ADM_RESULT_code : FRef := ⟨4, 0x150, 0, 8⟩
/-- TICK_ADM_RESULT.unit -/
def TICK_ADM_RESULT_unit : FRef := ⟨4, 0x150, 8, 6⟩
/-- TICK_ADM_RESULT.resource -/
def TICK_ADM_RESULT_resource : FRef := ⟨4, 0x150, 14, 4⟩
/-- TICK_ADM_RESULT.handle -/
def TICK_ADM_RESULT_handle : FRef := ⟨4, 0x150, 18, 13⟩
/-- TICK_ADM_RESULT.tick -/
def TICK_ADM_RESULT_tick : FRef := ⟨4, 0x150, 32, 32⟩
/-- TICK_ADM_DEPTH.depth -/
def TICK_ADM_DEPTH_depth : FRef := ⟨4, 0x158, 0, 11⟩
/-- TICK_PART_ADMIT.clk_floor -/
def TICK_PART_ADMIT_clk_floor : FRef := ⟨16, 0x100, 0, 5⟩
/-- TICK_PART_CAP_TE.cap -/
def TICK_PART_CAP_TE_cap : FRef := ⟨16, 0x108, 0, 64⟩
/-- TICK_PART_RSV_TE.sum -/
def TICK_PART_RSV_TE_sum : FRef := ⟨16, 0x110, 0, 64⟩
/-- TICK_PART_RSV_HBM.sum -/
def TICK_PART_RSV_HBM_sum : FRef := ⟨16, 0x118, 0, 64⟩
/-- TICK_PART_RSV_FAR.sum -/
def TICK_PART_RSV_FAR_sum : FRef := ⟨16, 0x120, 0, 64⟩
/-- TICK_PART_RSV_SLOTS.sum -/
def TICK_PART_RSV_SLOTS_sum : FRef := ⟨16, 0x128, 0, 12⟩
/-- TICK_PART_STATE.state -/
def TICK_PART_STATE_state : FRef := ⟨16, 0x130, 0, 2⟩
/-- TICK_PART_STATE.memory_only -/
def TICK_PART_STATE_memory_only : FRef := ⟨16, 0x130, 2, 1⟩
/-- CORE_WDOG.default_bound -/
def CORE_WDOG_default_bound : FRef := ⟨1024, 0x100, 0, 12⟩
/-- CORE_QMON.limit -/
def CORE_QMON_limit : FRef := ⟨1024, 0x108, 0, 16⟩
/-- CORE_THR_SEL.context -/
def CORE_THR_SEL_context : FRef := ⟨1024, 0x110, 0, 6⟩
/-- CORE_THR_INFO.state -/
def CORE_THR_INFO_state : FRef := ⟨1024, 0x118, 0, 4⟩
/-- CORE_THR_INFO.handle -/
def CORE_THR_INFO_handle : FRef := ⟨1024, 0x118, 4, 13⟩
/-- CORE_THR_INFO.path -/
def CORE_THR_INFO_path : FRef := ⟨1024, 0x118, 17, 1⟩
/-- CORE_THR_INFO.fault -/
def CORE_THR_INFO_fault : FRef := ⟨1024, 0x118, 18, 8⟩
/-- CORE_THR_INFO.ordinal -/
def CORE_THR_INFO_ordinal : FRef := ⟨1024, 0x118, 26, 16⟩
/-- CORE_THR_INFO.depths -/
def CORE_THR_INFO_depths : FRef := ⟨1024, 0x118, 42, 16⟩
/-- CORE_THR_PC.pc -/
def CORE_THR_PC_pc : FRef := ⟨1024, 0x120, 0, 57⟩
/-- CORE_STATUS.in_use -/
def CORE_STATUS_in_use : FRef := ⟨1024, 0x128, 0, 7⟩
/-- CORE_STATUS.fenced -/
def CORE_STATUS_fenced : FRef := ⟨1024, 0x128, 7, 1⟩
/-- CORE_FLUSH.flush -/
def CORE_FLUSH_flush : FRef := ⟨1024, 0x130, 0, 1⟩
/-- SYNC_WAITERS.in_use -/
def SYNC_WAITERS_in_use : FRef := ⟨32, 0x100, 0, 15⟩
/-- SYNC_WAITERS.high -/
def SYNC_WAITERS_high : FRef := ⟨32, 0x100, 16, 15⟩
/-- SYNC_WAITERS.clear -/
def SYNC_WAITERS_clear : FRef := ⟨32, 0x100, 31, 1⟩
/-- SYNC_SCAN.busy -/
def SYNC_SCAN_busy : FRef := ⟨32, 0x108, 0, 1⟩
/-- SYNC_SEL.index -/
def SYNC_SEL_index : FRef := ⟨32, 0x110, 0, 13⟩
/-- SYNC_STATE.state -/
def SYNC_STATE_state : FRef := ⟨32, 0x118, 0, 64⟩
/-- HUB_RPT_BASE.addr -/
def HUB_RPT_BASE_addr : FRef := ⟨5, 0x100, 12, 46⟩
/-- HUB_RPT_COUNT.entries -/
def HUB_RPT_COUNT_entries : FRef := ⟨5, 0x108, 0, 9⟩
/-- HUB_RPT_REFUSED.count -/
def HUB_RPT_REFUSED_count : FRef := ⟨5, 0x110, 0, 32⟩
/-- TE_FLAGS.flags -/
def TE_FLAGS_flags : FRef := ⟨2048, 0x100, 0, 7⟩
/-- TE_ERR.code -/
def TE_ERR_code : FRef := ⟨2048, 0x108, 0, 8⟩
/-- TE_ERR.context -/
def TE_ERR_context : FRef := ⟨2048, 0x108, 8, 6⟩
/-- TE_ERR.tick -/
def TE_ERR_tick : FRef := ⟨2048, 0x108, 32, 32⟩
/-- TE_CYCLES.cycles -/
def TE_CYCLES_cycles : FRef := ⟨2048, 0x110, 0, 64⟩
/-- VE_FLAGS.flags -/
def VE_FLAGS_flags : FRef := ⟨3072, 0x100, 0, 7⟩
/-- VE_ERR.code -/
def VE_ERR_code : FRef := ⟨3072, 0x108, 0, 8⟩
/-- VE_ERR.context -/
def VE_ERR_context : FRef := ⟨3072, 0x108, 8, 6⟩
/-- VE_ERR.tick -/
def VE_ERR_tick : FRef := ⟨3072, 0x108, 32, 32⟩
/-- VE_TBL_SEL.table -/
def VE_TBL_SEL_table : FRef := ⟨3072, 0x110, 0, 3⟩
/-- VE_TBL_SEL.index -/
def VE_TBL_SEL_index : FRef := ⟨3072, 0x110, 8, 8⟩
/-- VE_TBL_DATA.value -/
def VE_TBL_DATA_value : FRef := ⟨3072, 0x118, 0, 32⟩
/-- NFAB_CMP_CLASSc.planes -/
def NFAB_CMP_CLASSc_planes : FRef := ⟨52, 0x100, 0, 3⟩
/-- NFAB_CMP_CLASSc.stride -/
def NFAB_CMP_CLASSc_stride : FRef := ⟨52, 0x100, 3, 3⟩
/-- NFAB_CMP_CLASSc.cap -/
def NFAB_CMP_CLASSc_cap : FRef := ⟨52, 0x100, 6, 7⟩
/-- NFAB_CMP_CLASSc.bin -/
def NFAB_CMP_CLASSc_bin : FRef := ⟨52, 0x100, 13, 3⟩
/-- NFAB_CMP_WM.high -/
def NFAB_CMP_WM_high : FRef := ⟨52, 0x180, 0, 8⟩
/-- NFAB_CMP_WM.low -/
def NFAB_CMP_WM_low : FRef := ⟨52, 0x180, 8, 8⟩
/-- NFAB_CMP_FILL.total -/
def NFAB_CMP_FILL_total : FRef := ⟨52, 0x188, 0, 24⟩
/-- NFAB_CMP_FILL.raw -/
def NFAB_CMP_FILL_raw : FRef := ⟨52, 0x188, 24, 24⟩
/-- NFAB_CMP_HIGH.high -/
def NFAB_CMP_HIGH_high : FRef := ⟨52, 0x190, 0, 24⟩
/-- NFAB_CMP_HIGH.clear -/
def NFAB_CMP_HIGH_clear : FRef := ⟨52, 0x190, 24, 1⟩
/-- NFAB_CMP_PASS.passed -/
def NFAB_CMP_PASS_passed : FRef := ⟨52, 0x198, 0, 32⟩
/-- NFAB_CMP_PASS.busy -/
def NFAB_CMP_PASS_busy : FRef := ⟨52, 0x198, 32, 32⟩
/-- NFAB_CMP_TSTORE.in_use -/
def NFAB_CMP_TSTORE_in_use : FRef := ⟨52, 0x1A0, 0, 13⟩
/-- NFAB_CMP_DERR.count -/
def NFAB_CMP_DERR_count : FRef := ⟨52, 0x1A8, 0, 32⟩
/-- NFAB_CMP_DERR.source -/
def NFAB_CMP_DERR_source : FRef := ⟨52, 0x1A8, 32, 10⟩
/-- NFAB_CMP_LHB_SEL.key_id -/
def NFAB_CMP_LHB_SEL_key_id : FRef := ⟨52, 0x1B0, 0, 12⟩
/-- NFAB_CMP_LHB.bin -/
def NFAB_CMP_LHB_bin : FRef := ⟨52, 0x1B8, 0, 3⟩
/-- SE_ERR.code -/
def SE_ERR_code : FRef := ⟨4096, 0x100, 0, 8⟩
/-- SE_ERR.context -/
def SE_ERR_context : FRef := ⟨4096, 0x100, 8, 6⟩
/-- SE_ERR.qctx -/
def SE_ERR_qctx : FRef := ⟨4096, 0x100, 14, 6⟩
/-- SE_ERR.tick -/
def SE_ERR_tick : FRef := ⟨4096, 0x100, 32, 32⟩
/-- SE_FETCH.lines -/
def SE_FETCH_lines : FRef := ⟨4096, 0x108, 0, 9⟩
/-- SE_CTX.in_use -/
def SE_CTX_in_use : FRef := ⟨4096, 0x110, 0, 7⟩
/-- SE_CTX.wait_mem -/
def SE_CTX_wait_mem : FRef := ⟨4096, 0x110, 8, 7⟩
/-- SE_UC_SEL.index -/
def SE_UC_SEL_index : FRef := ⟨4096, 0x118, 0, 10⟩
/-- SE_UC_LO.bits -/
def SE_UC_LO_bits : FRef := ⟨4096, 0x120, 0, 64⟩
/-- SE_UC_HI.bits -/
def SE_UC_HI_bits : FRef := ⟨4096, 0x128, 0, 64⟩
/-- SE_UC_TAG.context -/
def SE_UC_TAG_context : FRef := ⟨4096, 0x130, 0, 12⟩
/-- SE_UC_TAG.shared -/
def SE_UC_TAG_shared : FRef := ⟨4096, 0x130, 12, 1⟩
/-- SE_UC_TAG.valid -/
def SE_UC_TAG_valid : FRef := ⟨4096, 0x130, 13, 1⟩
/-- SE_UC_VER.version -/
def SE_UC_VER_version : FRef := ⟨4096, 0x138, 0, 32⟩
/-- SE_SKIPPED.count -/
def SE_SKIPPED_count : FRef := ⟨4096, 0x140, 0, 48⟩
/-- SE_BMC_CTRL.flush -/
def SE_BMC_CTRL_flush : FRef := ⟨256, 0x100, 0, 1⟩
/-- SE_BMC_LINES.in_use -/
def SE_BMC_LINES_in_use : FRef := ⟨256, 0x108, 0, 15⟩
/-- HUB_POOL_SPLIT.guard_rows -/
def HUB_POOL_SPLIT_guard_rows : FRef := ⟨6, 0x100, 0, 19⟩
/-- HUB_POOL_ROWS.rows -/
def HUB_POOL_ROWS_rows : FRef := ⟨6, 0x108, 0, 19⟩
/-- HUB_POOL_ROWS.uneven -/
def HUB_POOL_ROWS_uneven : FRef := ⟨6, 0x108, 19, 1⟩
/-- HUB_POOL_HBM.free -/
def HUB_POOL_HBM_free : FRef := ⟨6, 0x110, 0, 32⟩
/-- HUB_POOL_HBM.face_free -/
def HUB_POOL_HBM_face_free : FRef := ⟨6, 0x110, 32, 32⟩
/-- HUB_POOL_FAR.plain_free -/
def HUB_POOL_FAR_plain_free : FRef := ⟨6, 0x118, 0, 32⟩
/-- HUB_POOL_FAR.guard_free -/
def HUB_POOL_FAR_guard_free : FRef := ⟨6, 0x118, 32, 32⟩
/-- HUB_POOL_FACE_RSV.frames -/
def HUB_POOL_FACE_RSV_frames : FRef := ⟨6, 0x120, 0, 19⟩
/-- HUB_POOL_LIST.addr -/
def HUB_POOL_LIST_addr : FRef := ⟨6, 0x128, 6, 52⟩
/-- HUB_POOL_REQ.region -/
def HUB_POOL_REQ_region : FRef := ⟨6, 0x130, 0, 12⟩
/-- HUB_POOL_REQ.pmask -/
def HUB_POOL_REQ_pmask : FRef := ⟨6, 0x130, 12, 12⟩
/-- HUB_POOL_REQ.frames -/
def HUB_POOL_REQ_frames : FRef := ⟨6, 0x130, 24, 28⟩
/-- HUB_POOL_REQ.op -/
def HUB_POOL_REQ_op : FRef := ⟨6, 0x130, 52, 2⟩
/-- HUB_POOL_RESULT.code -/
def HUB_POOL_RESULT_code : FRef := ⟨6, 0x138, 0, 4⟩
/-- HUB_POOL_RESULT.busy -/
def HUB_POOL_RESULT_busy : FRef := ⟨6, 0x138, 4, 1⟩
/-- HUB_POOL_RESULT.lost -/
def HUB_POOL_RESULT_lost : FRef := ⟨6, 0x138, 5, 1⟩
/-- HUB_POOL_RESULT.placed_hbm -/
def HUB_POOL_RESULT_placed_hbm : FRef := ⟨6, 0x138, 8, 28⟩
/-- HUB_POOL_RESULT.placed_far -/
def HUB_POOL_RESULT_placed_far : FRef := ⟨6, 0x138, 36, 28⟩
/-- HUB_POOL_FALLBACK.count -/
def HUB_POOL_FALLBACK_count : FRef := ⟨6, 0x140, 0, 32⟩
/-- HUB_POOL_FALLBACK.region -/
def HUB_POOL_FALLBACK_region : FRef := ⟨6, 0x140, 32, 12⟩
/-- HAUL_STATUS.in_use -/
def HAUL_STATUS_in_use : FRef := ⟨7, 0x100, 0, 9⟩
/-- HAUL_STATUS.resident -/
def HAUL_STATUS_resident : FRef := ⟨7, 0x100, 9, 9⟩
/-- HAUL_LATE.count -/
def HAUL_LATE_count : FRef := ⟨7, 0x108, 0, 32⟩
/-- HAUL_SEL.entry -/
def HAUL_SEL_entry : FRef := ⟨7, 0x110, 0, 8⟩
/-- HAUL_ENTRY.context -/
def HAUL_ENTRY_context : FRef := ⟨7, 0x118, 0, 12⟩
/-- HAUL_ENTRY.valid -/
def HAUL_ENTRY_valid : FRef := ⟨7, 0x118, 12, 1⟩
/-- HAUL_ENTRY.resident -/
def HAUL_ENTRY_resident : FRef := ⟨7, 0x118, 13, 1⟩
/-- HAUL_ENTRY.held -/
def HAUL_ENTRY_held : FRef := ⟨7, 0x118, 14, 1⟩
/-- HAUL_ENTRY.haul_late -/
def HAUL_ENTRY_haul_late : FRef := ⟨7, 0x118, 15, 1⟩
/-- HAUL_ENTRY.next -/
def HAUL_ENTRY_next : FRef := ⟨7, 0x118, 16, 13⟩
/-- HAUL_ENTRY.id -/
def HAUL_ENTRY_id : FRef := ⟨7, 0x118, 32, 32⟩
/-- HAUL_THRU.reads -/
def HAUL_THRU_reads : FRef := ⟨7, 0x120, 0, 32⟩
/-- HAUL_THRU.refill -/
def HAUL_THRU_refill : FRef := ⟨7, 0x120, 32, 24⟩
/-- XLT_CTX_BASE.addr -/
def XLT_CTX_BASE_addr : FRef := ⟨8, 0x100, 21, 37⟩
/-- XLT_CTX_OP.context -/
def XLT_CTX_OP_context : FRef := ⟨8, 0x108, 0, 12⟩
/-- XLT_CTX_OP.op -/
def XLT_CTX_OP_op : FRef := ⟨8, 0x108, 12, 3⟩
/-- XLT_CTX_OP.bump -/
def XLT_CTX_OP_bump : FRef := ⟨8, 0x108, 15, 1⟩
/-- XLT_INV_VA.va -/
def XLT_INV_VA_va : FRef := ⟨8, 0x110, 12, 45⟩
/-- XLT_INV_PAGES.pages -/
def XLT_INV_PAGES_pages : FRef := ⟨8, 0x118, 0, 46⟩
/-- XLT_CTX_RESULT.code -/
def XLT_CTX_RESULT_code : FRef := ⟨8, 0x120, 0, 4⟩
/-- XLT_CTX_RESULT.busy -/
def XLT_CTX_RESULT_busy : FRef := ⟨8, 0x120, 4, 1⟩
/-- XLT_CTX_RESULT.lost -/
def XLT_CTX_RESULT_lost : FRef := ⟨8, 0x120, 5, 1⟩
/-- XLT_CTX_RESULT.context -/
def XLT_CTX_RESULT_context : FRef := ⟨8, 0x120, 16, 12⟩
/-- XLT_EPOCH_SEL.context -/
def XLT_EPOCH_SEL_context : FRef := ⟨8, 0x128, 0, 12⟩
/-- XLT_EPOCH.current -/
def XLT_EPOCH_current : FRef := ⟨8, 0x130, 0, 32⟩
/-- XLT_EPOCH.oldest -/
def XLT_EPOCH_oldest : FRef := ⟨8, 0x130, 32, 32⟩
/-- XLT_DRAIN.context -/
def XLT_DRAIN_context : FRef := ⟨8, 0x138, 0, 12⟩
/-- XLT_DRAIN_STATUS.armed -/
def XLT_DRAIN_STATUS_armed : FRef := ⟨8, 0x140, 0, 1⟩
/-- XLT_DRAIN_STATUS.done -/
def XLT_DRAIN_STATUS_done : FRef := ⟨8, 0x140, 1, 1⟩
/-- XLT_DRAIN_STATUS.context -/
def XLT_DRAIN_STATUS_context : FRef := ⟨8, 0x140, 16, 12⟩
/-- XLT_DRAIN_STATUS.target -/
def XLT_DRAIN_STATUS_target : FRef := ⟨8, 0x140, 32, 32⟩
/-- XLT_FAULT.code -/
def XLT_FAULT_code : FRef := ⟨8, 0x148, 0, 4⟩
/-- XLT_FAULT.type -/
def XLT_FAULT_type : FRef := ⟨8, 0x148, 4, 2⟩
/-- XLT_FAULT.context -/
def XLT_FAULT_context : FRef := ⟨8, 0x148, 16, 12⟩
/-- XLT_FAULT.count -/
def XLT_FAULT_count : FRef := ⟨8, 0x148, 32, 16⟩
/-- XLT_FAULT_VA.va -/
def XLT_FAULT_VA_va : FRef := ⟨8, 0x150, 0, 57⟩
/-- XLT_WALKS.walks -/
def XLT_WALKS_walks : FRef := ⟨8, 0x158, 0, 64⟩
/-- HPORT_CFG.split -/
def HPORT_CFG_split : FRef := ⟨64, 0x100, 0, 1⟩
/-- HPORT_CFG.ide_req -/
def HPORT_CFG_ide_req : FRef := ⟨64, 0x100, 1, 1⟩
/-- HPORT_CFG.loss_us -/
def HPORT_CFG_loss_us : FRef := ⟨64, 0x100, 2, 10⟩
/-- HPORT_CFG.retrain -/
def HPORT_CFG_retrain : FRef := ⟨64, 0x100, 12, 1⟩
/-- HPORT_LINK_STATUS.state -/
def HPORT_LINK_STATUS_state : FRef := ⟨64, 0x180, 0, 2⟩
/-- HPORT_LINK_STATUS.width -/
def HPORT_LINK_STATUS_width : FRef := ⟨64, 0x180, 2, 5⟩
/-- HPORT_LINK_STATUS.rate -/
def HPORT_LINK_STATUS_rate : FRef := ⟨64, 0x180, 7, 2⟩
/-- HPORT_LINK_STATUS.no_flit -/
def HPORT_LINK_STATUS_no_flit : FRef := ⟨64, 0x180, 9, 1⟩
/-- HPORT_LINK_STATUS.mem -/
def HPORT_LINK_STATUS_mem : FRef := ⟨64, 0x180, 10, 1⟩
/-- HPORT_LINK_STATUS.ide -/
def HPORT_LINK_STATUS_ide : FRef := ⟨64, 0x180, 11, 1⟩
/-- HPORT_LINK_STATUS.ups -/
def HPORT_LINK_STATUS_ups : FRef := ⟨64, 0x180, 32, 32⟩
/-- HPORT_LINK_AGENT.agent -/
def HPORT_LINK_AGENT_agent : FRef := ⟨64, 0x188, 0, 12⟩
/-- HPORT_LINK_AGENT.valid -/
def HPORT_LINK_AGENT_valid : FRef := ⟨64, 0x188, 12, 1⟩
/-- HPORT_LINK_HBASE.base -/
def HPORT_LINK_HBASE_base : FRef := ⟨64, 0x190, 12, 52⟩
/-- HPORT_LINK_HSIZE.pages -/
def HPORT_LINK_HSIZE_pages : FRef := ⟨64, 0x198, 0, 34⟩
/-- HPORT_LINK_MAP.addr -/
def HPORT_LINK_MAP_addr : FRef := ⟨64, 0x1A0, 12, 46⟩
/-- HPORT_LINK_DPA.entries -/
def HPORT_LINK_DPA_entries : FRef := ⟨64, 0x1A8, 0, 25⟩
/-- HPORT_LINK_MAPINV.go -/
def HPORT_LINK_MAPINV_go : FRef := ⟨64, 0x1B0, 0, 1⟩
/-- HPORT_LINK_CARRIER.handle -/
def HPORT_LINK_CARRIER_handle : FRef := ⟨64, 0x1B8, 0, 13⟩
/-- HPORT_LINK_CARRIER.en -/
def HPORT_LINK_CARRIER_en : FRef := ⟨64, 0x1B8, 13, 1⟩
/-- HPORT_LINK_ERR.count -/
def HPORT_LINK_ERR_count : FRef := ⟨64, 0x1C0, 0, 32⟩
/-- HPORT_LINK_ERR.cause -/
def HPORT_LINK_ERR_cause : FRef := ⟨64, 0x1C0, 32, 4⟩
/-- HPORT_Q_BIND.context -/
def HPORT_Q_BIND_context : FRef := ⟨8192, 0x100, 0, 12⟩
/-- HPORT_Q_BIND.partition -/
def HPORT_Q_BIND_partition : FRef := ⟨8192, 0x100, 12, 4⟩
/-- HPORT_Q_BIND.carrier -/
def HPORT_Q_BIND_carrier : FRef := ⟨8192, 0x100, 16, 13⟩
/-- HPORT_Q_BIND.carrier_en -/
def HPORT_Q_BIND_carrier_en : FRef := ⟨8192, 0x100, 29, 1⟩
/-- HPORT_Q_BIND.enable -/
def HPORT_Q_BIND_enable : FRef := ⟨8192, 0x100, 30, 1⟩
/-- HPORT_Q_STATE.tdisp -/
def HPORT_Q_STATE_tdisp : FRef := ⟨8192, 0x108, 0, 2⟩
/-- HPORT_Q_STATE.in_flight -/
def HPORT_Q_STATE_in_flight : FRef := ⟨8192, 0x108, 2, 5⟩
/-- HPORT_Q_STATE.running_on -/
def HPORT_Q_STATE_running_on : FRef := ⟨8192, 0x108, 7, 4⟩
/-- HPORT_Q_STATE.pending_bind -/
def HPORT_Q_STATE_pending_bind : FRef := ⟨8192, 0x108, 11, 1⟩
/-- HPORT_Q_STATE.core -/
def HPORT_Q_STATE_core : FRef := ⟨8192, 0x108, 12, 9⟩
/-- HUB_RGN_ENTRY.entry -/
def HUB_RGN_ENTRY_entry : FRef := ⟨9, 0x100, 0, 64⟩
/-- HUB_RGN_OP.index -/
def HUB_RGN_OP_index : FRef := ⟨9, 0x108, 0, 12⟩
/-- HUB_RGN_OP.op -/
def HUB_RGN_OP_op : FRef := ⟨9, 0x108, 12, 3⟩
/-- HUB_RGN_RESULT.code -/
def HUB_RGN_RESULT_code : FRef := ⟨9, 0x110, 0, 4⟩
/-- HUB_RGN_RESULT.busy -/
def HUB_RGN_RESULT_busy : FRef := ⟨9, 0x110, 4, 1⟩
/-- HUB_RGN_RESULT.lost -/
def HUB_RGN_RESULT_lost : FRef := ⟨9, 0x110, 5, 1⟩
/-- HUB_SHG_BASE.addr -/
def HUB_SHG_BASE_addr : FRef := ⟨9, 0x118, 12, 46⟩
/-- HUB_RGN_LEASES.in_use -/
def HUB_RGN_LEASES_in_use : FRef := ⟨9, 0x120, 0, 17⟩
/-- SEAM_CTRL.sweep_rate -/
def SEAM_CTRL_sweep_rate : FRef := ⟨48, 0x100, 0, 6⟩
/-- SEAM_OCC.open -/
def SEAM_OCC_open : FRef := ⟨48, 0x108, 0, 16⟩
/-- SEAM_OCC.waiting -/
def SEAM_OCC_waiting : FRef := ⟨48, 0x108, 16, 17⟩
/-- SEAM_OCC.full -/
def SEAM_OCC_full : FRef := ⟨48, 0x108, 33, 1⟩
/-- SEAM_DIR.copy_stale -/
def SEAM_DIR_copy_stale : FRef := ⟨48, 0x110, 0, 12⟩
/-- SEAM_DIR.evictions -/
def SEAM_DIR_evictions : FRef := ⟨48, 0x110, 32, 32⟩
/-- SEAM_BI.sent -/
def SEAM_BI_sent : FRef := ⟨48, 0x118, 0, 32⟩
/-- SEAM_BI.timeouts -/
def SEAM_BI_timeouts : FRef := ⟨48, 0x118, 32, 16⟩
/-- SEAM_BI.agent -/
def SEAM_BI_agent : FRef := ⟨48, 0x118, 48, 12⟩
/-- SEAM_POISON.lines -/
def SEAM_POISON_lines : FRef := ⟨48, 0x120, 0, 32⟩
/-- SEAM_POISON.agent -/
def SEAM_POISON_agent : FRef := ⟨48, 0x120, 32, 12⟩
/-- SEAM_UNCORR.entries -/
def SEAM_UNCORR_entries : FRef := ⟨48, 0x128, 0, 32⟩
/-- SEAM_UNCORR.buckets -/
def SEAM_UNCORR_buckets : FRef := ⟨48, 0x128, 32, 16⟩
/-- SEAM_FENCE_SEL.agent -/
def SEAM_FENCE_SEL_agent : FRef := ⟨48, 0x130, 0, 12⟩
/-- SEAM_FENCE.mark -/
def SEAM_FENCE_mark : FRef := ⟨48, 0x138, 0, 2⟩
/-- SEAM_FENCE.swept -/
def SEAM_FENCE_swept : FRef := ⟨48, 0x138, 2, 1⟩
/-- SEAM_FENCE.clear -/
def SEAM_FENCE_clear : FRef := ⟨48, 0x138, 3, 1⟩
/-- SEAM_FENCE.start -/
def SEAM_FENCE_start : FRef := ⟨48, 0x138, 32, 25⟩
/-- SEAM_SWEEP.position -/
def SEAM_SWEEP_position : FRef := ⟨48, 0x140, 0, 25⟩
/-- SEAM_SWEEP.active -/
def SEAM_SWEEP_active : FRef := ⟨48, 0x140, 25, 1⟩
/-- SEAM_ABUF.lines -/
def SEAM_ABUF_lines : FRef := ⟨48, 0x148, 0, 11⟩
/-- NLK_CTRL.enable -/
def NLK_CTRL_enable : FRef := ⟨128, 0x100, 0, 1⟩
/-- NLK_CTRL.retrain -/
def NLK_CTRL_retrain : FRef := ⟨128, 0x100, 1, 1⟩
/-- NLK_CTRL.auto_widen -/
def NLK_CTRL_auto_widen : FRef := ⟨128, 0x100, 2, 1⟩
/-- NLK_CTRL.lane_off -/
def NLK_CTRL_lane_off : FRef := ⟨128, 0x100, 3, 4⟩
/-- NLK_CTRL.loopback -/
def NLK_CTRL_loopback : FRef := ⟨128, 0x100, 7, 1⟩
/-- NLK_CFG.detect_ms -/
def NLK_CFG_detect_ms : FRef := ⟨128, 0x108, 0, 8⟩
/-- NLK_CFG.nak_limit -/
def NLK_CFG_nak_limit : FRef := ⟨128, 0x108, 8, 5⟩
/-- NLK_CFG.replay_us -/
def NLK_CFG_replay_us : FRef := ⟨128, 0x108, 13, 4⟩
/-- NLK_CFG.replay_limit -/
def NLK_CFG_replay_limit : FRef := ⟨128, 0x108, 17, 4⟩
/-- NLK_CFG.lane_err -/
def NLK_CFG_lane_err : FRef := ⟨128, 0x108, 21, 11⟩
/-- NLK_STATUS.state -/
def NLK_STATUS_state : FRef := ⟨128, 0x110, 0, 4⟩
/-- NLK_STATUS.width -/
def NLK_STATUS_width : FRef := ⟨128, 0x110, 4, 3⟩
/-- NLK_STATUS.healthy -/
def NLK_STATUS_healthy : FRef := ⟨128, 0x110, 7, 4⟩
/-- NLK_STATUS.cause -/
def NLK_STATUS_cause : FRef := ⟨128, 0x110, 11, 4⟩
/-- NLK_STATUS.ups -/
def NLK_STATUS_ups : FRef := ⟨128, 0x110, 32, 32⟩
/-- NLK_PARTNER.hub -/
def NLK_PARTNER_hub : FRef := ⟨128, 0x118, 0, 10⟩
/-- NLK_PARTNER.port -/
def NLK_PARTNER_port : FRef := ⟨128, 0x118, 10, 6⟩
/-- NLK_PARTNER.joined -/
def NLK_PARTNER_joined : FRef := ⟨128, 0x118, 16, 1⟩
/-- NLK_PARTNER.epoch -/
def NLK_PARTNER_epoch : FRef := ⟨128, 0x118, 32, 32⟩
/-- NLK_DELAY.delay -/
def NLK_DELAY_delay : FRef := ⟨128, 0x120, 0, 20⟩
/-- NLK_DELAY.probes -/
def NLK_DELAY_probes : FRef := ⟨128, 0x120, 32, 32⟩
/-- NLK_FEC.corrected -/
def NLK_FEC_corrected : FRef := ⟨128, 0x128, 0, 32⟩
/-- NLK_FEC.uncorrectable -/
def NLK_FEC_uncorrectable : FRef := ⟨128, 0x128, 32, 32⟩
/-- NLK_RETRY.nak_sent -/
def NLK_RETRY_nak_sent : FRef := ⟨128, 0x130, 0, 16⟩
/-- NLK_RETRY.nak_recv -/
def NLK_RETRY_nak_recv : FRef := ⟨128, 0x130, 16, 16⟩
/-- NLK_RETRY.replays -/
def NLK_RETRY_replays : FRef := ⟨128, 0x130, 32, 16⟩
/-- NLK_RETRY.seal_fail -/
def NLK_RETRY_seal_fail : FRef := ⟨128, 0x130, 48, 16⟩
/-- NLK_KEY.tx_gen -/
def NLK_KEY_tx_gen : FRef := ⟨128, 0x138, 0, 32⟩
/-- NLK_KEY.rx_gen -/
def NLK_KEY_rx_gen : FRef := ⟨128, 0x138, 32, 32⟩
/-- NLK_LANE.failures -/
def NLK_LANE_failures : FRef := ⟨128, 0x140, 0, 32⟩
/-- NLK_UNACK.unacked -/
def NLK_UNACK_unacked : FRef := ⟨128, 0x148, 0, 11⟩
/-- NLK_UNACK.replaying -/
def NLK_UNACK_replaying : FRef := ⟨128, 0x148, 11, 1⟩
/-- NLK_UNACK.nak_pending -/
def NLK_UNACK_nak_pending : FRef := ⟨128, 0x148, 12, 1⟩
/-- NFAB_CTRL.comb_rd -/
def NFAB_CTRL_comb_rd : FRef := ⟨50, 0x100, 0, 1⟩
/-- NFAB_CTRL.comb_at -/
def NFAB_CTRL_comb_at : FRef := ⟨50, 0x100, 1, 1⟩
/-- NFAB_CFG.rec_us -/
def NFAB_CFG_rec_us : FRef := ⟨50, 0x108, 0, 5⟩
/-- NFAB_RT_BASE.addr -/
def NFAB_RT_BASE_addr : FRef := ⟨50, 0x110, 13, 45⟩
/-- NFAB_AT_BASE.addr -/
def NFAB_AT_BASE_addr : FRef := ⟨50, 0x118, 13, 45⟩
/-- NFAB_JOB_BASE.addr -/
def NFAB_JOB_BASE_addr : FRef := ⟨50, 0x120, 18, 40⟩
/-- NFAB_JOB_COUNT.slots -/
def NFAB_JOB_COUNT_slots : FRef := ⟨50, 0x128, 0, 11⟩
/-- NFAB_MARK.parent -/
def NFAB_MARK_parent : FRef := ⟨50, 0x130, 0, 6⟩
/-- NFAB_MARK.children -/
def NFAB_MARK_children : FRef := ⟨50, 0x130, 6, 48⟩
/-- NFAB_DTIME.ns -/
def NFAB_DTIME_ns : FRef := ⟨50, 0x138, 0, 64⟩
/-- NFAB_COMB.reads -/
def NFAB_COMB_reads : FRef := ⟨50, 0x140, 0, 32⟩
/-- NFAB_COMB.atomics -/
def NFAB_COMB_atomics : FRef := ⟨50, 0x140, 32, 32⟩
/-- NFAB_XO.resends -/
def NFAB_XO_resends : FRef := ⟨50, 0x148, 0, 16⟩
/-- NFAB_XO.indeterminate -/
def NFAB_XO_indeterminate : FRef := ⟨50, 0x148, 16, 16⟩
/-- NFAB_XO.no_room -/
def NFAB_XO_no_room : FRef := ⟨50, 0x148, 32, 16⟩
/-- NFAB_XO.split -/
def NFAB_XO_split : FRef := ⟨50, 0x148, 48, 16⟩
/-- NFAB_RECON.settled -/
def NFAB_RECON_settled : FRef := ⟨50, 0x150, 0, 16⟩
/-- NFAB_RECON.failed -/
def NFAB_RECON_failed : FRef := ⟨50, 0x150, 16, 16⟩
/-- NFAB_RECON.nak_path -/
def NFAB_RECON_nak_path : FRef := ⟨50, 0x150, 32, 16⟩
/-- NFAB_DROP.hop_limit -/
def NFAB_DROP_hop_limit : FRef := ⟨50, 0x158, 0, 16⟩
/-- NFAB_DROP.stale -/
def NFAB_DROP_stale : FRef := ⟨50, 0x158, 16, 16⟩
/-- NFAB_DROP.unreachable -/
def NFAB_DROP_unreachable : FRef := ⟨50, 0x158, 32, 16⟩
/-- NFAB_DROP.bad -/
def NFAB_DROP_bad : FRef := ⟨50, 0x158, 48, 16⟩
/-- NFAB_WEDGE.job -/
def NFAB_WEDGE_job : FRef := ⟨50, 0x160, 0, 32⟩
/-- NFAB_WEDGE.origin -/
def NFAB_WEDGE_origin : FRef := ⟨50, 0x160, 32, 10⟩
/-- NFAB_WEDGE.cause -/
def NFAB_WEDGE_cause : FRef := ⟨50, 0x160, 42, 8⟩
/-- NFAB_WEDGE.count -/
def NFAB_WEDGE_count : FRef := ⟨50, 0x160, 50, 14⟩
/-- NFAB_RC_SEL.partition -/
def NFAB_RC_SEL_partition : FRef := ⟨50, 0x168, 0, 4⟩
/-- NFAB_RC.in_use -/
def NFAB_RC_in_use : FRef := ⟨50, 0x170, 0, 14⟩
/-- NFAB_RC.high -/
def NFAB_RC_high : FRef := ⟨50, 0x170, 14, 14⟩
/-- NFAB_RC.clear -/
def NFAB_RC_clear : FRef := ⟨50, 0x170, 28, 1⟩
/-- ELN_STATE.lifecycle -/
def ELN_STATE_lifecycle : FRef := ⟨54, 0x100, 0, 2⟩
/-- ELN_STATE.owner_gen -/
def ELN_STATE_owner_gen : FRef := ⟨54, 0x100, 2, 7⟩
/-- ELN_STATE.debug_open -/
def ELN_STATE_debug_open : FRef := ⟨54, 0x100, 9, 12⟩
/-- ELN_STATE.vendor_level -/
def ELN_STATE_vendor_level : FRef := ⟨54, 0x100, 21, 1⟩
/-- ELN_STATE.mirror_ok -/
def ELN_STATE_mirror_ok : FRef := ⟨54, 0x100, 22, 1⟩
/-- ELN_STATE.owner_cosign -/
def ELN_STATE_owner_cosign : FRef := ⟨54, 0x100, 23, 1⟩
/-- ELN_SVN.eloan -/
def ELN_SVN_eloan : FRef := ⟨54, 0x108, 0, 16⟩
/-- ELN_SVN.henyen -/
def ELN_SVN_henyen : FRef := ⟨54, 0x108, 16, 16⟩
/-- ELN_SVN.ucode -/
def ELN_SVN_ucode : FRef := ⟨54, 0x108, 32, 16⟩
/-- ELN_SVN.min_peer -/
def ELN_SVN_min_peer : FRef := ⟨54, 0x108, 48, 16⟩
/-- ELN_COUNTS.tenants -/
def ELN_COUNTS_tenants : FRef := ⟨54, 0x110, 0, 10⟩
/-- ELN_COUNTS.windows -/
def ELN_COUNTS_windows : FRef := ⟨54, 0x110, 10, 13⟩
/-- ELN_COUNTS.keyed -/
def ELN_COUNTS_keyed : FRef := ⟨54, 0x110, 23, 12⟩
/-- ELN_COUNTS.sig_fail -/
def ELN_COUNTS_sig_fail : FRef := ⟨54, 0x110, 48, 16⟩
/-- ELN_KEY_SEL.key_id -/
def ELN_KEY_SEL_key_id : FRef := ⟨54, 0x118, 0, 12⟩
/-- ELN_KEY.state -/
def ELN_KEY_state : FRef := ⟨54, 0x120, 0, 3⟩
/-- ELN_KEY.integrity -/
def ELN_KEY_integrity : FRef := ⟨54, 0x120, 3, 1⟩
/-- ELN_KEY.bin -/
def ELN_KEY_bin : FRef := ⟨54, 0x120, 4, 3⟩
/-- ELN_KEY.tid -/
def ELN_KEY_tid : FRef := ⟨54, 0x120, 7, 10⟩
/-- ELN_KEY.grants -/
def ELN_KEY_grants : FRef := ⟨54, 0x120, 32, 16⟩
/-- ELN_DBG.pending -/
def ELN_DBG_pending : FRef := ⟨54, 0x128, 0, 12⟩
/-- ELN_DBG.lockout -/
def ELN_DBG_lockout : FRef := ⟨54, 0x128, 12, 12⟩
/-- CRYP_INTEG.poisoned -/
def CRYP_INTEG_poisoned : FRef := ⟨56, 0x100, 0, 32⟩
/-- CRYP_INTEG.corrected -/
def CRYP_INTEG_corrected : FRef := ⟨56, 0x100, 32, 32⟩
/-- CRYP_LAST.key_id -/
def CRYP_LAST_key_id : FRef := ⟨56, 0x108, 0, 12⟩
/-- CRYP_LAST.partition -/
def CRYP_LAST_partition : FRef := ⟨56, 0x108, 12, 4⟩
/-- CRYP_DROP.lines -/
def CRYP_DROP_lines : FRef := ⟨56, 0x110, 0, 32⟩
/-- RAS_CFG.ce_row -/
def RAS_CFG_ce_row : FRef := ⟨10, 0x100, 0, 8⟩
/-- RAS_CFG.resync_rate -/
def RAS_CFG_resync_rate : FRef := ⟨10, 0x100, 8, 6⟩
/-- RAS_LOG_BASE.addr -/
def RAS_LOG_BASE_addr : FRef := ⟨10, 0x108, 12, 46⟩
/-- RAS_LOG.size -/
def RAS_LOG_size : FRef := ⟨10, 0x110, 0, 5⟩
/-- RAS_LOG.lost -/
def RAS_LOG_lost : FRef := ⟨10, 0x110, 32, 32⟩
/-- RAS_LOG_HEAD.seq -/
def RAS_LOG_HEAD_seq : FRef := ⟨10, 0x118, 0, 64⟩
/-- RAS_LOG_TAIL.seq -/
def RAS_LOG_TAIL_seq : FRef := ⟨10, 0x120, 0, 64⟩
/-- RAS_COUNT.corrected -/
def RAS_COUNT_corrected : FRef := ⟨10, 0x128, 0, 16⟩
/-- RAS_COUNT.deferred -/
def RAS_COUNT_deferred : FRef := ⟨10, 0x128, 16, 16⟩
/-- RAS_COUNT.uncontained -/
def RAS_COUNT_uncontained : FRef := ⟨10, 0x128, 32, 16⟩
/-- RAS_COUNT.overruns -/
def RAS_COUNT_overruns : FRef := ⟨10, 0x128, 48, 16⟩
/-- RAS_PRST.partition -/
def RAS_PRST_partition : FRef := ⟨10, 0x130, 0, 4⟩
/-- RAS_PRST.go -/
def RAS_PRST_go : FRef := ⟨10, 0x130, 4, 1⟩
/-- RAS_PART_SEL.partition -/
def RAS_PART_SEL_partition : FRef := ⟨10, 0x138, 0, 4⟩
/-- RAS_PART_INFO.epoch -/
def RAS_PART_INFO_epoch : FRef := ⟨10, 0x140, 0, 32⟩
/-- RAS_PART_INFO.failed -/
def RAS_PART_INFO_failed : FRef := ⟨10, 0x140, 32, 1⟩
/-- RAS_PART_INFO.standin -/
def RAS_PART_INFO_standin : FRef := ⟨10, 0x140, 33, 1⟩
/-- RAS_PART_INFO.resync -/
def RAS_PART_INFO_resync : FRef := ⟨10, 0x140, 34, 1⟩
/-- RAS_PART_INFO.held -/
def RAS_PART_INFO_held : FRef := ⟨10, 0x140, 35, 14⟩
/-- RAS_HUB_EPOCH.epoch -/
def RAS_HUB_EPOCH_epoch : FRef := ⟨10, 0x148, 0, 32⟩
/-- RAS_FENCE.core -/
def RAS_FENCE_core : FRef := ⟨10, 0x150, 0, 9⟩
/-- RAS_FENCE.op -/
def RAS_FENCE_op : FRef := ⟨10, 0x150, 9, 2⟩
/-- RAS_SPARE_SEL.unit -/
def RAS_SPARE_SEL_unit : FRef := ⟨10, 0x158, 0, 6⟩
/-- RAS_SPARE.left -/
def RAS_SPARE_left : FRef := ⟨10, 0x160, 0, 16⟩
/-- RAS_SPARE.used -/
def RAS_SPARE_used : FRef := ⟨10, 0x160, 16, 16⟩
/-- RAS_SPARE.retired -/
def RAS_SPARE_retired : FRef := ⟨10, 0x160, 32, 1⟩
/-- RAS_RETIRE.valid -/
def RAS_RETIRE_valid : FRef := ⟨10, 0x168, 0, 1⟩
/-- RAS_RETIRE.frame -/
def RAS_RETIRE_frame : FRef := ⟨10, 0x168, 21, 37⟩
/-- RAS_RETIRE.next -/
def RAS_RETIRE_next : FRef := ⟨10, 0x168, 63, 1⟩
/-- RAS_WEDGE.job -/
def RAS_WEDGE_job : FRef := ⟨10, 0x170, 0, 32⟩
/-- RAS_WEDGE.go -/
def RAS_WEDGE_go : FRef := ⟨10, 0x170, 32, 1⟩
/-- RAS_ILOG_BASE.addr -/
def RAS_ILOG_BASE_addr : FRef := ⟨10, 0x178, 12, 46⟩
/-- RAS_ILOG_COUNT.entries -/
def RAS_ILOG_COUNT_entries : FRef := ⟨10, 0x180, 0, 11⟩
/-- RAS_LOST_SEL.hub -/
def RAS_LOST_SEL_hub : FRef := ⟨10, 0x188, 0, 10⟩
/-- RAS_LOST.lost -/
def RAS_LOST_lost : FRef := ⟨10, 0x190, 0, 1⟩
/-- RAS_LOST.epoch -/
def RAS_LOST_epoch : FRef := ⟨10, 0x190, 32, 32⟩
/-- PAGE_ID.kind -/
def PAGE_ID_kind : FRef := ⟨0, 0x0, 0, 16⟩
/-- PAGE_ID.instance -/
def PAGE_ID_instance : FRef := ⟨0, 0x0, 16, 16⟩
/-- PAGE_ID.layout -/
def PAGE_ID_layout : FRef := ⟨0, 0x0, 32, 8⟩
/-- PAGE_CAPS.staged -/
def PAGE_CAPS_staged : FRef := ⟨0, 0x8, 0, 1⟩
/-- PAGE_CAPS.lockable -/
def PAGE_CAPS_lockable : FRef := ⟨0, 0x8, 1, 1⟩
/-- PAGE_CAPS.partition -/
def PAGE_CAPS_partition : FRef := ⟨0, 0x8, 2, 1⟩
/-- PAGE_CAPS.ints -/
def PAGE_CAPS_ints : FRef := ⟨0, 0x8, 3, 1⟩
/-- PAGE_CTRL.lock -/
def PAGE_CTRL_lock : FRef := ⟨0, 0x10, 0, 1⟩
/-- PAGE_CTRL.int_en -/
def PAGE_CTRL_int_en : FRef := ⟨0, 0x10, 1, 1⟩
/-- PAGE_CTRL.clamp_clear -/
def PAGE_CTRL_clamp_clear : FRef := ⟨0, 0x10, 2, 1⟩
/-- PAGE_CTRL.unstage -/
def PAGE_CTRL_unstage : FRef := ⟨0, 0x10, 3, 1⟩
/-- PAGE_STATUS.state -/
def PAGE_STATUS_state : FRef := ⟨0, 0x18, 0, 2⟩
/-- PAGE_STATUS.armed -/
def PAGE_STATUS_armed : FRef := ⟨0, 0x18, 2, 1⟩
/-- PAGE_STATUS.staged -/
def PAGE_STATUS_staged : FRef := ⟨0, 0x18, 3, 1⟩
/-- PAGE_STATUS.locked -/
def PAGE_STATUS_locked : FRef := ⟨0, 0x18, 4, 1⟩
/-- INT_RAW.sources -/
def INT_RAW_sources : FRef := ⟨0, 0x20, 0, 64⟩
/-- INT_MASK.mask -/
def INT_MASK_mask : FRef := ⟨0, 0x28, 0, 64⟩
/-- INT_CAUSE.cause -/
def INT_CAUSE_cause : FRef := ⟨0, 0x30, 0, 64⟩
/-- ERR_LOG_PTR.seq -/
def ERR_LOG_PTR_seq : FRef := ⟨0, 0x38, 0, 63⟩
/-- ERR_LOG_PTR.valid -/
def ERR_LOG_PTR_valid : FRef := ⟨0, 0x38, 63, 1⟩
/-- CLAMP_WHERE.offset -/
def CLAMP_WHERE_offset : FRef := ⟨0, 0x40, 0, 12⟩
/-- CLAMP_WHERE.lsb -/
def CLAMP_WHERE_lsb : FRef := ⟨0, 0x40, 12, 6⟩
/-- CLAMP_WHERE.msb -/
def CLAMP_WHERE_msb : FRef := ⟨0, 0x40, 18, 6⟩
/-- CLAMP_WHERE.valid -/
def CLAMP_WHERE_valid : FRef := ⟨0, 0x40, 24, 1⟩
/-- CLAMP_WHERE.wide -/
def CLAMP_WHERE_wide : FRef := ⟨0, 0x40, 25, 1⟩
/-- CLAMP_WHERE.tick -/
def CLAMP_WHERE_tick : FRef := ⟨0, 0x40, 32, 32⟩
/-- CLAMP_VALUE.written -/
def CLAMP_VALUE_written : FRef := ⟨0, 0x48, 0, 32⟩
/-- CLAMP_VALUE.applied -/
def CLAMP_VALUE_applied : FRef := ⟨0, 0x48, 32, 32⟩
/-- CLAMP_COUNT.count -/
def CLAMP_COUNT_count : FRef := ⟨0, 0x50, 0, 32⟩
/-- COMMIT.arm -/
def COMMIT_arm : FRef := ⟨0, 0x60, 0, 1⟩
/-- HUB_ID_INFO.variant -/
def HUB_ID_INFO_variant : FRef := ⟨0, 0x100, 0, 1⟩
/-- HUB_ID_INFO.grade_l -/
def HUB_ID_INFO_grade_l : FRef := ⟨0, 0x100, 1, 1⟩
/-- HUB_ID_INFO.memory_only -/
def HUB_ID_INFO_memory_only : FRef := ⟨0, 0x100, 2, 12⟩
/-- HUB_ID_INFO.hub_id -/
def HUB_ID_INFO_hub_id : FRef := ⟨0, 0x100, 16, 10⟩
/-- HUB_ID_INFO.joined -/
def HUB_ID_INFO_joined : FRef := ⟨0, 0x100, 26, 1⟩
/-- HUB_ID_SERIAL.serial -/
def HUB_ID_SERIAL_serial : FRef := ⟨0, 0x108, 0, 64⟩
/-- HUB_ID_REV.stepping -/
def HUB_ID_REV_stepping : FRef := ⟨0, 0x110, 0, 8⟩
/-- HUB_ID_REV.layout -/
def HUB_ID_REV_layout : FRef := ⟨0, 0x110, 8, 8⟩
/-- HEN_INFO.active -/
def HEN_INFO_active : FRef := ⟨1, 0x100, 0, 1⟩
/-- HEN_INFO.slot -/
def HEN_INFO_slot : FRef := ⟨1, 0x100, 1, 1⟩
/-- HEN_INFO.mirror_ok -/
def HEN_INFO_mirror_ok : FRef := ⟨1, 0x100, 2, 1⟩
/-- HEN_INFO.svn -/
def HEN_INFO_svn : FRef := ⟨1, 0x100, 16, 16⟩
/-- HEN_INFO.version -/
def HEN_INFO_version : FRef := ⟨1, 0x100, 32, 32⟩
/-- HEN_CTRL.alert_en -/
def HEN_CTRL_alert_en : FRef := ⟨1, 0x108, 0, 1⟩
/-- HEN_CTRL.remind_ms -/
def HEN_CTRL_remind_ms : FRef := ⟨1, 0x108, 1, 8⟩
/-- HEN_INT_SUM.groups -/
def HEN_INT_SUM_groups : FRef := ⟨1, 0x110, 0, 64⟩
/-- HEN_INT_SEL.group -/
def HEN_INT_SEL_group : FRef := ⟨1, 0x118, 0, 6⟩
/-- HEN_INT_SEL.word -/
def HEN_INT_SEL_word : FRef := ⟨1, 0x118, 6, 4⟩
/-- HEN_INT_WORD.pending -/
def HEN_INT_WORD_pending : FRef := ⟨1, 0x120, 0, 64⟩
/-- HEN_MCTP.accepted -/
def HEN_MCTP_accepted : FRef := ⟨1, 0x128, 0, 16⟩
/-- HEN_MCTP.dropped -/
def HEN_MCTP_dropped : FRef := ⟨1, 0x128, 16, 16⟩
/-- HEN_MCTP.refused -/
def HEN_MCTP_refused : FRef := ⟨1, 0x128, 32, 16⟩
/-- HEN_MCTP.ignored -/
def HEN_MCTP_ignored : FRef := ⟨1, 0x128, 48, 16⟩
/-- HEN_UPD_SRC.addr -/
def HEN_UPD_SRC_addr : FRef := ⟨1, 0x130, 12, 46⟩
/-- HEN_UPD_CTRL.class -/
def HEN_UPD_CTRL_class : FRef := ⟨1, 0x138, 0, 2⟩
/-- HEN_UPD_CTRL.op -/
def HEN_UPD_CTRL_op : FRef := ⟨1, 0x138, 2, 3⟩
/-- HEN_UPD_FIRST.tick -/
def HEN_UPD_FIRST_tick : FRef := ⟨1, 0x140, 0, 64⟩
/-- HEN_UPD_ORDER.order -/
def HEN_UPD_ORDER_order : FRef := ⟨1, 0x148, 0, 48⟩
/-- HEN_UPD_ORDER.spacing -/
def HEN_UPD_ORDER_spacing : FRef := ⟨1, 0x148, 48, 16⟩
/-- HEN_UPD_STATUS.state -/
def HEN_UPD_STATUS_state : FRef := ⟨1, 0x150, 0, 3⟩
/-- HEN_UPD_STATUS.busy -/
def HEN_UPD_STATUS_busy : FRef := ⟨1, 0x150, 3, 1⟩
/-- HEN_UPD_STATUS.lost -/
def HEN_UPD_STATUS_lost : FRef := ⟨1, 0x150, 4, 1⟩
/-- HEN_UPD_STATUS.next -/
def HEN_UPD_STATUS_next : FRef := ⟨1, 0x150, 8, 4⟩
/-- HEN_UPD_STATUS.code -/
def HEN_UPD_STATUS_code : FRef := ⟨1, 0x150, 12, 4⟩
/-- HEN_UPD_STATUS.loaded -/
def HEN_UPD_STATUS_loaded : FRef := ⟨1, 0x150, 32, 32⟩
/-- TALLY_CFGn.event -/
def TALLY_CFGn_event : FRef := ⟨512, 0x100, 0, 8⟩
/-- TALLY_CFGn.qual -/
def TALLY_CFGn_qual : FRef := ⟨512, 0x100, 8, 8⟩
/-- TALLY_CFGn.en -/
def TALLY_CFGn_en : FRef := ⟨512, 0x100, 16, 1⟩
/-- TALLY_CFGn.ovf -/
def TALLY_CFGn_ovf : FRef := ⟨512, 0x100, 17, 1⟩
/-- TALLY_CFGn.raw -/
def TALLY_CFGn_raw : FRef := ⟨512, 0x100, 18, 1⟩
/-- TALLY_CFGn.tid -/
def TALLY_CFGn_tid : FRef := ⟨512, 0x100, 20, 10⟩
/-- TALLY_CFGn.masters -/
def TALLY_CFGn_masters : FRef := ⟨512, 0x100, 30, 6⟩
/-- TALLY_CFGn.core -/
def TALLY_CFGn_core : FRef := ⟨512, 0x100, 36, 5⟩
/-- TALLY_CFGn.core_en -/
def TALLY_CFGn_core_en : FRef := ⟨512, 0x100, 41, 1⟩
/-- TALLY_CFGn.agent -/
def TALLY_CFGn_agent : FRef := ⟨512, 0x100, 42, 12⟩
/-- TALLY_CFGn.agent_en -/
def TALLY_CFGn_agent_en : FRef := ⟨512, 0x100, 54, 1⟩
/-- TALLY_CFGn.afilt -/
def TALLY_CFGn_afilt : FRef := ⟨512, 0x100, 55, 4⟩
/-- TALLY_CNTn.value -/
def TALLY_CNTn_value : FRef := ⟨512, 0x300, 0, 64⟩
/-- TALLY_SNAPn.value -/
def TALLY_SNAPn_value : FRef := ⟨512, 0x500, 0, 64⟩
/-- TALLY_CTRL.snap -/
def TALLY_CTRL_snap : FRef := ⟨512, 0x700, 0, 1⟩
/-- TALLY_CTRL.snap_close -/
def TALLY_CTRL_snap_close : FRef := ⟨512, 0x700, 1, 1⟩
/-- TALLY_AFk_BASE.addr -/
def TALLY_AFk_BASE_addr : FRef := ⟨512, 0x708, 6, 52⟩
/-- TALLY_AFk_LIMIT.addr -/
def TALLY_AFk_LIMIT_addr : FRef := ⟨512, 0x710, 6, 52⟩
/-- TALLY_SAMP_CTRL.en -/
def TALLY_SAMP_CTRL_en : FRef := ⟨512, 0x788, 0, 1⟩
/-- TALLY_SAMP_CTRL.tid -/
def TALLY_SAMP_CTRL_tid : FRef := ⟨512, 0x788, 1, 10⟩
/-- TALLY_SAMP_CTRL.units -/
def TALLY_SAMP_CTRL_units : FRef := ⟨512, 0x788, 11, 4⟩
/-- TALLY_SAMP_CTRL.period -/
def TALLY_SAMP_CTRL_period : FRef := ⟨512, 0x788, 15, 16⟩
/-- TALLY_SAMP_CTRL.jitter -/
def TALLY_SAMP_CTRL_jitter : FRef := ⟨512, 0x788, 31, 4⟩
/-- TALLY_SAMP_CTRL.thresh -/
def TALLY_SAMP_CTRL_thresh : FRef := ⟨512, 0x788, 35, 10⟩
/-- TALLY_SAMP_SEED.seed -/
def TALLY_SAMP_SEED_seed : FRef := ⟨512, 0x790, 0, 32⟩
/-- TALLY_SAMP_STATUS.held -/
def TALLY_SAMP_STATUS_held : FRef := ⟨512, 0x798, 0, 10⟩
/-- TALLY_SAMP_STATUS.lost -/
def TALLY_SAMP_STATUS_lost : FRef := ⟨512, 0x798, 16, 16⟩
/-- TALLY_SAMP_STATUS.in_flight -/
def TALLY_SAMP_STATUS_in_flight : FRef := ⟨512, 0x798, 32, 4⟩
/-- TALLY_SAMP_RDj.data -/
def TALLY_SAMP_RDj_data : FRef := ⟨512, 0x7A0, 0, 64⟩
/-- TALLY_SAMP_POP.pop -/
def TALLY_SAMP_POP_pop : FRef := ⟨512, 0x7E0, 0, 1⟩
/-- TALLY_BW_CTRL.window_ns -/
def TALLY_BW_CTRL_window_ns : FRef := ⟨528, 0x100, 0, 30⟩
/-- TALLY_BW_CTRL.align -/
def TALLY_BW_CTRL_align : FRef := ⟨528, 0x100, 30, 1⟩
/-- TALLY_BW_CTRL.en -/
def TALLY_BW_CTRL_en : FRef := ⟨528, 0x100, 31, 1⟩
/-- TALLY_BW_SEL.unit -/
def TALLY_BW_SEL_unit : FRef := ⟨528, 0x108, 0, 6⟩
/-- TALLY_BW_SEL.dir -/
def TALLY_BW_SEL_dir : FRef := ⟨528, 0x108, 6, 1⟩
/-- TALLY_BW_LAST.bytes -/
def TALLY_BW_LAST_bytes : FRef := ⟨528, 0x110, 0, 48⟩
/-- TALLY_BW_RATE.rate -/
def TALLY_BW_RATE_rate : FRef := ⟨528, 0x118, 0, 32⟩
/-- TALLY_BW_RATE.peak -/
def TALLY_BW_RATE_peak : FRef := ⟨528, 0x118, 32, 32⟩
/-- TALLY_BW_PEAKCLR.clear -/
def TALLY_BW_PEAKCLR_clear : FRef := ⟨528, 0x120, 0, 1⟩
/-- TALLY_BW_ALARM.unit -/
def TALLY_BW_ALARM_unit : FRef := ⟨528, 0x128, 0, 6⟩
/-- TALLY_BW_ALARM.dir -/
def TALLY_BW_ALARM_dir : FRef := ⟨528, 0x128, 6, 1⟩
/-- TALLY_BW_ALARM.limit -/
def TALLY_BW_ALARM_limit : FRef := ⟨528, 0x128, 32, 32⟩
/-- TALLY_BW_WINDOWS.windows -/
def TALLY_BW_WINDOWS_windows : FRef := ⟨528, 0x130, 0, 64⟩
/-- PWR_PART_TARGET.point -/
def PWR_PART_TARGET_point : FRef := ⟨576, 0x100, 0, 5⟩
/-- PWR_PART_STATUS.point -/
def PWR_PART_STATUS_point : FRef := ⟨576, 0x108, 0, 5⟩
/-- PWR_PART_STATUS.duty -/
def PWR_PART_STATUS_duty : FRef := ⟨576, 0x108, 5, 5⟩
/-- PWR_PART_STATUS.margin -/
def PWR_PART_STATUS_margin : FRef := ⟨576, 0x108, 10, 4⟩
/-- PWR_PART_STATUS.lift -/
def PWR_PART_STATUS_lift : FRef := ⟨576, 0x108, 14, 4⟩
/-- PWR_PART_STATUS.reason -/
def PWR_PART_STATUS_reason : FRef := ⟨576, 0x108, 18, 6⟩
/-- PWR_PART_TEMP.core -/
def PWR_PART_TEMP_core : FRef := ⟨576, 0x110, 0, 12⟩
/-- PWR_PART_TEMP.hbm -/
def PWR_PART_TEMP_hbm : FRef := ⟨576, 0x110, 12, 12⟩
/-- PWR_PART_TCFG.t_throttle -/
def PWR_PART_TCFG_t_throttle : FRef := ⟨576, 0x118, 0, 7⟩
/-- PWR_PART_TCFG.hbm_throttle -/
def PWR_PART_TCFG_hbm_throttle : FRef := ⟨576, 0x118, 7, 7⟩
/-- PWR_PART_POWER.power -/
def PWR_PART_POWER_power : FRef := ⟨576, 0x120, 0, 16⟩
/-- PWR_PART_ENERGY.mj -/
def PWR_PART_ENERGY_mj : FRef := ⟨576, 0x128, 0, 64⟩
/-- PWR_PART_LIMIT.watts -/
def PWR_PART_LIMIT_watts : FRef := ⟨576, 0x130, 0, 7⟩
/-- PWR_PART_CAL.interval_us -/
def PWR_PART_CAL_interval_us : FRef := ⟨576, 0x138, 0, 16⟩
/-- PWR_PART_CAL.slots -/
def PWR_PART_CAL_slots : FRef := ⟨576, 0x138, 16, 16⟩
/-- PWR_PART_CAL.last_tick -/
def PWR_PART_CAL_last_tick : FRef := ⟨576, 0x138, 32, 32⟩
/-- PWR_PART_DROOP.thresh -/
def PWR_PART_DROOP_thresh : FRef := ⟨576, 0x140, 0, 8⟩
/-- PWR_PART_DROOP.events -/
def PWR_PART_DROOP_events : FRef := ⟨576, 0x140, 32, 32⟩
/-- PWR_PKG_VIN.mv -/
def PWR_PKG_VIN_mv : FRef := ⟨588, 0x100, 0, 16⟩
/-- PWR_PKG_VIN.amps -/
def PWR_PKG_VIN_amps : FRef := ⟨588, 0x100, 16, 12⟩
/-- PWR_PKG_VIN.state -/
def PWR_PKG_VIN_state : FRef := ⟨588, 0x100, 28, 3⟩
/-- PWR_PKG_POWER.inst -/
def PWR_PKG_POWER_inst : FRef := ⟨588, 0x108, 0, 16⟩
/-- PWR_PKG_POWER.mean -/
def PWR_PKG_POWER_mean : FRef := ⟨588, 0x108, 16, 16⟩
/-- PWR_PKG_LIMIT.sustained -/
def PWR_PKG_LIMIT_sustained : FRef := ⟨588, 0x110, 0, 12⟩
/-- PWR_PKG_LIMIT.inst -/
def PWR_PKG_LIMIT_inst : FRef := ⟨588, 0x110, 16, 12⟩
/-- PWR_PKG_DIP.dip_us -/
def PWR_PKG_DIP_dip_us : FRef := ⟨588, 0x118, 0, 14⟩
/-- PWR_PKG_DIP.dips -/
def PWR_PKG_DIP_dips : FRef := ⟨588, 0x118, 32, 16⟩
/-- PWR_PKG_DIP.quiesces -/
def PWR_PKG_DIP_quiesces : FRef := ⟨588, 0x118, 48, 16⟩
/-- PWR_PKG_TEMP.sd0 -/
def PWR_PKG_TEMP_sd0 : FRef := ⟨588, 0x120, 0, 12⟩
/-- PWR_PKG_TEMP.sd1 -/
def PWR_PKG_TEMP_sd1 : FRef := ⟨588, 0x120, 12, 12⟩
/-- PWR_PKG_TEMP.id0 -/
def PWR_PKG_TEMP_id0 : FRef := ⟨588, 0x120, 24, 12⟩
/-- PWR_PKG_TEMP.id1 -/
def PWR_PKG_TEMP_id1 : FRef := ⟨588, 0x120, 36, 12⟩
/-- CLK_STATUS.ref_a -/
def CLK_STATUS_ref_a : FRef := ⟨600, 0x100, 0, 1⟩
/-- CLK_STATUS.ref_b -/
def CLK_STATUS_ref_b : FRef := ⟨600, 0x100, 1, 1⟩
/-- CLK_STATUS.on_b -/
def CLK_STATUS_on_b : FRef := ⟨600, 0x100, 2, 1⟩
/-- CLK_STATUS.part_lock -/
def CLK_STATUS_part_lock : FRef := ⟨600, 0x100, 3, 12⟩
/-- CLK_STATUS.fab_lock -/
def CLK_STATUS_fab_lock : FRef := ⟨600, 0x100, 15, 4⟩
/-- CLK_STATUS.mgmt_lock -/
def CLK_STATUS_mgmt_lock : FRef := ⟨600, 0x100, 19, 1⟩
/-- CLK_REF_SEL.prefer_b -/
def CLK_REF_SEL_prefer_b : FRef := ⟨600, 0x108, 0, 1⟩
/-- CLK_SWITCHES.count -/
def CLK_SWITCHES_count : FRef := ⟨600, 0x110, 0, 32⟩
/-- PIN_FUNC0.func -/
def PIN_FUNC0_func : FRef := ⟨608, 0x100, 0, 48⟩
/-- PIN_FUNC1.func -/
def PIN_FUNC1_func : FRef := ⟨608, 0x108, 0, 48⟩
/-- PIN_SWSTATE.die0 -/
def PIN_SWSTATE_die0 : FRef := ⟨608, 0x110, 0, 24⟩
/-- PIN_SWSTATE.die1 -/
def PIN_SWSTATE_die1 : FRef := ⟨608, 0x110, 24, 24⟩
/-- PIN_GPIO_OUT.val0 -/
def PIN_GPIO_OUT_val0 : FRef := ⟨608, 0x118, 0, 12⟩
/-- PIN_GPIO_OUT.val1 -/
def PIN_GPIO_OUT_val1 : FRef := ⟨608, 0x118, 12, 12⟩
/-- PIN_GPIO_OUT.oe0 -/
def PIN_GPIO_OUT_oe0 : FRef := ⟨608, 0x118, 24, 12⟩
/-- PIN_GPIO_OUT.oe1 -/
def PIN_GPIO_OUT_oe1 : FRef := ⟨608, 0x118, 36, 12⟩
/-- PIN_GPIO_IN.in0 -/
def PIN_GPIO_IN_in0 : FRef := ⟨608, 0x120, 0, 12⟩
/-- PIN_GPIO_IN.in1 -/
def PIN_GPIO_IN_in1 : FRef := ⟨608, 0x120, 12, 12⟩
/-- PIN_CLOCKS.uart -/
def PIN_CLOCKS_uart : FRef := ⟨608, 0x128, 0, 2⟩
/-- PIN_CLOCKS.i3c_rate -/
def PIN_CLOCKS_i3c_rate : FRef := ⟨608, 0x128, 2, 7⟩
/-- PIN_STRAP.split -/
def PIN_STRAP_split : FRef := ⟨608, 0x130, 0, 8⟩
/-- PIN_STRAP.addr -/
def PIN_STRAP_addr : FRef := ⟨608, 0x130, 8, 2⟩
/-- PIN_STRAP.owner_clear -/
def PIN_STRAP_owner_clear : FRef := ⟨608, 0x130, 10, 1⟩
/-- PIN_RING.in_present -/
def PIN_RING_in_present : FRef := ⟨608, 0x138, 0, 1⟩
/-- PIN_RING.bypass_closed -/
def PIN_RING_bypass_closed : FRef := ⟨608, 0x138, 1, 1⟩
/-- PIN_RING.return_seen -/
def PIN_RING_return_seen : FRef := ⟨608, 0x138, 2, 1⟩
/-- PIN_RING.return_bad -/
def PIN_RING_return_bad : FRef := ⟨608, 0x138, 3, 1⟩
/-- PIN_STATUS.ready -/
def PIN_STATUS_ready : FRef := ⟨608, 0x140, 0, 1⟩
/-- PIN_STATUS.therm_trip -/
def PIN_STATUS_therm_trip : FRef := ⟨608, 0x140, 1, 1⟩
/-- PIN_STATUS.alert -/
def PIN_STATUS_alert : FRef := ⟨608, 0x140, 2, 1⟩
end F

end Sys2Proof.Machine
end

