-- ==== Sys2Proof/Machine/State.lean ====
section
/-! DEFINITION. The state of the KJ-7250 as plain data, the values it holds right after reset, and the reasons a step can
stop. Every table (`Tab`) reads an unlisted key as the default named here. -/

namespace Sys2Proof.Machine

/-- A command stops the hub with a fault. No rule of the spec lets a command stop it, so there is no constructor: faults of
the hub (Table 15.4) are records and states of it, and the command that meets one answers a next state. -/
inductive Fault where
  deriving DecidableEq, Repr

/-- A command has no meaning. -/
inductive Refusal where
  /-- Raised by the command's own arm of `exec` while its meaning has not been written; safe. -/
  | notModelled (mnemonic : String)
  deriving DecidableEq, Repr

/-! ### Values of units that nothing has used -/

/-- A thread context that is FREE (Table 3.2). -/
def Thread.empty : Thread :=
  { state := .free, handle := 0, ordinal := 0, pc := 0, counters := [], pr := 0, path := false, stack := [], held := [],
    modes := [0, 0, 0, 0], queues := [[], [], [], []], fault := 0, sync := none, drain := 0, switching := none,
    fetched := none, pushing := none }

/-- An engine that holds nothing. -/
def Engine.idle : Engine := { held := [], service := [], nextSeq := 1, grants := 0 }

/-- A core as a partition reset leaves it (R265, R244). -/
def Core.empty : Core :=
  { lastIssued := 63, fenced := false, opLines := [], fills := [],
    engines := [Engine.idle, Engine.idle, Engine.idle, Engine.idle],
    search := { qctxs := [], inserts := [], lastIssued := 63, chosen := none }, ucode := [], imageId := 0 }

/-- A synchronisation object that nothing has initialised: a semaphore of value 0 (R129). -/
def SyncObj.empty : SyncObj :=
  { kind := .semaphore, abandoned := false, overflow := false, count := 0, parties := 0, arrived := 0, generation := 0,
    holder := none, former := none, isSet := false, waiters := [] }

/-- An address context that is not loaded, at epoch 0. -/
def Context.empty : Context := { valid := false, walk := false, root := 0, segs := [], epoch := 0 }

/-- A Haul table entry that is not in use is not listed. -/
abbrev HaulTable := Tab HaulEntry

/-- A host link that is down. -/
def HostLink.down : HostLink := { outOfL0 := none, mapCache := [], invalidating := none }

/-- A host queue that nothing has configured: ring sizes of 2^4 (Table 10.4). -/
def HostQueue.empty : HostQueue :=
  { sqBase := 0, cqBase := 0, sqLog := 4, cqLog := 4, enable := false, head := 0, tail := 0, cqHead := 0, cqTail := 0,
    phase := true, cmds := [], tdisp := .unlocked, latched := none, stopping := false, runningOn := 0, core := 0,
    bound := false }

/-- A Nelpin port that is DISABLED (R427), no lane known healthy. -/
def Port.disabled : Port :=
  { state := .disabled, since := 0, healthy := 0, width := 0, cause := 0, partnerHub := 0, partnerPort := 0,
    partnerJoined := false, partnerEpoch := 0, txSeq := 0, replay := [], txAck := 0, credit := [], replayTimeouts := 0,
    counted := [], turn := 0, ackAt := 0, inFlight := [], expected := 0, group := [], verified := 0, freed := [], told := [],
    nakAt := 0, rest := [], nakPending := false, naksInRow := 0, sealRetry := false, partialUnits := [], txGen := 0,
    txCount := 0, rxGen := 0, rxCount := 0, keyed := false, delays := [], probes := 0, timeouts := 0, release := none,
    lastGood := 0, handed := [], reconciling := none }

/-- A key ID that is FREE (Table 14.6). -/
def KeyId.unused : KeyId := { state := .free, tid := 0, integrity := false, bin := 0 }

/-- An address context that is bound to nobody (R481). -/
def Binding.unbound : Binding := { candidate := none, bound := none, hash := none }

/-- A partition in reset, as the hub finds every partition when its rails become valid (Table 19.1). -/
def Partition.cold : Partition :=
  { state := .inReset, failed := false, lost := false, epoch := 0, standin := false, resync := [], unfence := [],
    fenceAtUp := [] }

/-- The sampler of a partition (R604). -/
def Sampler.idle : Sampler := { lfsr := 1, countdown := 0, records := [], nextSeq := 0, inFlight := [] }

/-- A bandwidth port that has measured nothing. -/
def BwPort.empty : BwPort := { bytes := 0, last := 0, rate := 0, peak := 0 }

/-- A partition's power machinery before its first report: point 0, full duty. -/
def PowerPart.cold : PowerPart :=
  { ceilings := [], duty := 16, dutySince := 0, marginSince := none, point := 0, rising := none, dutyBy := 0, report := 0,
    energyRest := 0, coreTemp := 0, stackTemp := 0, margin := 0, lift := 0, droops := [], lastDroop := 0,
    neighbourHeld := false, tripped := false, belowFloor := false, slotDue := none, slotTemp := 0, slotTime := 0 }

/-- A land under a function, nothing requested of it. -/
def Land.rest (f : Nat) : Land :=
  { active := f, wanted := f, state := 0, since := 0, tz := 0, hold := 0, lastWrite := 0, clocks := 0 }

/-- The reset function of a land (Table 20.9): I3C on lands 00 and 01 of each die, else GPIO input. -/
def Land.reset (land : Nat) : Land := Land.rest (if land % 12 < 2 then 1 else 0)

/-- A seam die with nothing open. -/
def SeamDie.empty : SeamDie :=
  { dir := [], failed := [], txns := [], waiting := [], fences := [], recalls := [], position := 0, sweeping := false,
    abuf := [], leases := [] }

/-- A compression stage with an empty staging queue. -/
def CmpDie.empty : CmpDie := { queue := [], passing := false, withheld := [] }

/-! ### The state -/

/-- The whole state of one hub. -/
structure State where
  /-- Commands that wait, first in, first out. -/
  pending : List Instr
  /-- The fabric timer since reset, in its counts of 0.5 ns (R54). -/
  now : Nat
  /-- The model's own: free values consumed so far (see `Config.freeNat`). -/
  free : Nat
  fuse : Fuse
  board : Board
  /-- Register pages: applied values by page · 512 + offset ÷ 8, staged values, pending lower halves (R22). -/
  regs : Tab W64
  staged : Tab W64
  pendLo : Tab W64
  /-- The store by hub-local offset, S-space by core · 2^21 + offset, C-space by cluster · 0x180_0000 + offset. -/
  store : Tab Byte
  sspace : Tab Byte
  cspace : Tab Byte
  tick : TickUnit
  /-- Threads by core · 64 + context. -/
  threads : Tab Thread
  cores : Tab Core
  /-- Sieve bitmap cache of each cluster (R228). -/
  bitmaps : Tab (List CacheLine)
  sync : SyncUnit
  triggers : List TriggerEntry
  xlt : Xlt
  descriptors : List Descriptor
  nextDesc : Nat
  pools : Pools
  haul : Tab HaulEntry
  haulRuns : List HaulRun
  hosts : Tab HostLink
  /-- Host ports that run as two links: the value of HPORT_CFG.split at the last training from detect (R339). -/
  splits : Tab Nat
  queues : Tab HostQueue
  regions : Regions
  /-- Line-mode requests that have passed their checks and are on their way to their lines' queues. -/
  coherent : List SeamReq
  seam : List SeamDie
  ports : Tab Port
  fabric : Fabric
  eloan : Eloan
  ras : Ras
  henyen : Henyen
  tally : Tally
  power : Tab PowerPart
  pkg : PowerPkg
  startup : Startup
  pins : Pins
  clocks : Clocks
  /-- Pages the aggregator shows pending (R574), and groups whose event has still to be sent (R575). -/
  pendingPages : List Nat
  eventsDue : List Nat
  /-- What the hub has sent to the outside, oldest first. -/
  out : List Out
  deriving DecidableEq, Repr

/-! ### Reset -/

/-- The tick unit at power-up: bypass closed, no stream, no frame, no tick begun. -/
def TickUnit.reset : TickUnit :=
  { phase := 0, stage := 4, due := none, noSource := none, holdSince := none, badCrc := 0, bypassClosed := true,
    ringSent := [], streams := [], nextOrder := 0, abortCount := 0, queue := [], rings := [], wedged := [], wedgeSeen := [] }

/-- The fabric at power-up. -/
def Fabric.reset : Fabric :=
  { egress := [], flows := [], routes := [], agents := [], jobs := [], requests := [], nextTag := 0, nextXfer := 0,
    results := [], rcHigh := [], epochs := [], lostHubs := [], sends := [], recvs := [],
    cmp := [CmpDie.empty, CmpDie.empty], dtime := 0, inbox := [], forwards := [], proxies := [], invFirst := [], incoming := [], heard := [], unreconciled := [] }

/-- The Eloan root pair of a hub that no owner has claimed. -/
def Eloan.reset : Eloan :=
  { tenants := [], keys := [], bindings := [], windows := [], windowReqs := [], receipts := [], grants := [], shares := [], linkTid := [],
    linkKey := [], clusterTid := [], scrubbing := [], scrubbed := [], nonces := [], debugFails := [], debugOpen := [],
    debugOpening := [], owned := false, ownerGen := 0, ownerHash := 0, managerHash := none, cosign := false, minEloan := 0,
    minHenyen := 0, minUcode := 0, minPeer := 0, raises := [64, 64, 64], mirrorOk := false, sigFail := 0, fullCopies := [] }

/-- The RAS unit before cold start. -/
def Ras.reset : Ras :=
  { parts := [], hubEpoch := 0, logs := [], corrected := [], correctedTotal := 0, spareLeft := [], spareUsed := [],
    retired := [], retireList := [], retiredChannels := [], poison := [], poisonS := [], poisonC := [], errors := [], checks := [] }

/-- The Henyen controllers before the Eloan roots have verified an image. -/
def Henyen.reset : Henyen :=
  { active := 0, running := [false, false], log := [], buffers := [], cells := [0, 0], sampled := [0, 0], lastMove := [0, 0],
    lastRenew := 0, mirrorOk := false, mirrorAt := 0, sessions := [], slot := [0, 0], updState := 0, updCode := 0, updNext := 0,
    updOrder := [], updFirst := 0, updSpacing := 1, updBack := false, loaded := none, previous := none,
    micro := { cls := 2, version := 1, svn := 0 }, stock := { cls := 3, version := 1, svn := 0 },
    eloan := { cls := 1, version := 1, svn := 0 }, microVer := [], stockVer := [] }

/-- The package with VIN and VSTBY just valid. -/
def PowerPkg.reset : PowerPkg :=
  { state := .normal, vin := 12000, since := 0, dips := [], dipStart := none, below9 := none, surgeStart := none,
    below75 := false, above114 := none, byTemp := false, reports := [], dieTemp := [0, 0, 0, 0] }

/-- Start-up at time 0 of Table 19.1. -/
def Startup.reset : Startup :=
  { phase := .starting, domain := 0, warmArea := none, warmA := none, warmB := none,
    firstSource := false, noticeSent := false, waitingPower := [] }

/-- The machine right after reset: time 0 of Table 19.1, VSTBY and VIN valid, nothing started. The part is a KJ-7250-A with
48 DIMMs of 256 GiB, no strap tied high (the spec leaves the part and its board open). -/
def State.reset : State :=
  { pending := [], now := 0, free := 0,
    fuse := { variantB := false, gradeL := false, memOnly := [], serial := 0, stepping := 0 },
    board := { channelFrames := List.replicate 24 262144, split := 0, i3cAddr := 0, ownerClear := false,
               images := [(true, 1, 0), (true, 1, 0)] },
    regs := [], staged := [], pendLo := [], store := [], sspace := [], cspace := [],
    tick := TickUnit.reset, threads := [], cores := [], bitmaps := [],
    sync := { objs := [], assigned := [], flight := [], nextTag := 0, high := [] }, triggers := [],
    xlt := { contexts := [], coreTlb := [], partTlb := [], walks := [], busy := none, heldBumps := [] },
    descriptors := [], nextDesc := 0, pools := { placed := [], faceTaken := [], waiting := none }, haul := [], haulRuns := [],
    hosts := [], splits := [], coherent := [], queues := [], regions := { entries := [], groups := [], leaseReqs := [] },
    seam := [SeamDie.empty, SeamDie.empty], ports := [], fabric := Fabric.reset, eloan := Eloan.reset, ras := Ras.reset,
    henyen := Henyen.reset, tally := { samplers := [], bw := [], windowStart := [0, 0] }, power := [],
    pkg := PowerPkg.reset, startup := Startup.reset,
    pins := { lands := [], vio := true, vstby := true, coldResetLow := false },
    clocks := { refA := true, refB := true, onB := false }, pendingPages := [], eventsDue := [], out := [] }

end Sys2Proof.Machine
end

