-- ==== Sys2Proof/Machine/Ops.lean ====
section
/-! DEFINITION. The named operations over the register pages (ch. 0 and 16): fields, interrupts, the aggregator, range
checks, staging and commit; and the sources of free values. -/

namespace Sys2Proof.Machine

/-! ### Applying a change to every member of a list -/

/-- The entry of a list, or a default. -/
def nth {α : Type} (d : α) (l : List α) (i : Nat) : α := (l[i]?).getD d

/-- Replace an entry of a list. -/
def setNth {α : Type} : List α → Nat → α → List α
  | [], _, _ => []
  | _ :: t, 0, x => x :: t
  | h :: t, i + 1, x => h :: setNth t i x

/-- Take the first entry that satisfies a test, with what remains. -/
def takeFirst {α : Type} (p : α → Bool) : List α → Option (α × List α)
  | [] => none
  | h :: t => if p h then some (h, t) else (takeFirst p t).map (fun r => (r.1, h :: r.2))

/-! ### Free values -/

/-- A free value below a bound, and the state that has used it up (AN UNSTATED VALUE; assumption log). -/
def freeBelow (s : State) (n : Nat) : Nat × State := (Config.freeNat s.free % n, { s with free := s.free + 1 })

/-! ### Fields of registers (ch. 16) -/

/-- The key of a register. -/
def regKey (page off : Nat) : Nat := page * 512 + off / 8

/-- The applied value of a register. -/
def rawReg (s : State) (page off : Nat) : W64 := Tab.get regReset s.regs (regKey page off)

/-- Set the applied value of a register, as the hub itself does: no check, no report (R572). -/
def setReg (s : State) (page off : Nat) (v : W64) : State :=
  { s with regs := Tab.set regReset s.regs (regKey page off) v }

/-- The applied value of a field of an instance of a page kind. -/
def getF (s : State) (r : FRef) (inst : Nat) : Nat := bits (rawReg s (r.page + inst) r.off).toNat r.lo r.len

/-- Set a field from hardware (R572). -/
def setF (s : State) (r : FRef) (inst v : Nat) : State :=
  setReg s (r.page + inst) r.off
    (BitVec.ofNat 64 (setBits (rawReg s (r.page + inst) r.off).toNat r.lo r.len v))

/-- Advance a saturating counter field. -/
def addSatF (s : State) (r : FRef) (inst n : Nat) : State :=
  setF s r inst (min (2 ^ r.len - 1) (getF s r inst + n))

/-- Advance a wrapping counter field. -/
def addWrapF (s : State) (r : FRef) (inst n : Nat) : State := setF s r inst (getF s r inst + n)

/-! ### Partitions and pages -/

/-- The partition a core belongs to (R31). -/
def partOfCore (core : Nat) : Nat := core / 32

/-- The state of a partition's reset unit. -/
def partition (s : State) (p : Nat) : Partition := Tab.getC Partition.cold s.ras.parts p

/-- Change a partition's reset unit. -/
def updPart (s : State) (p : Nat) (f : Partition → Partition) : State :=
  { s with ras := { s.ras with parts := Tab.upd Partition.cold s.ras.parts p f } }

/-- A partition is up (TICK_PART_STATE.state 0). -/
def partUp (s : State) (p : Nat) : Bool := decide ((partition s p).state = .up)

/-- A partition is memory-only (R6, R7). -/
def memOnly (s : State) (p : Nat) : Bool := s.fuse.memOnly.contains p

/-- The highest operating point of the variant (R611). -/
def topPoint (s : State) : Nat := if s.fuse.variantB then 14 else 16

/-- The partition a page's block lies inside, for the kinds of R565. -/
def pagePartition (k : Kind) (inst : Nat) : Option Nat :=
  match k with
  | .kCORE | .kTE | .kVE | .kSE => some (inst / 32)
  | .kSE_BMC => some (inst / 2)
  | .kSYNC => some inst
  | _ => none

/-- A page exists: the table assigns it, and its block's cores or clusters are on the part (R561). -/
def pageExists (s : State) (page : Nat) : Bool :=
  match pageKind page with
  | none => false
  | some (k, inst) =>
    match pagePartition k inst with
    | some p => k == .kSYNC || !memOnly s p
    | none => true

/-- The partition of a page is not up, so that its registers read 0 and ignore writes (R565). -/
def pageDown (s : State) (page : Nat) : Bool :=
  match pageKind page with
  | none => false
  | some (k, inst) => match pagePartition k inst with | some p => !partUp s p | none => false

/-- PAGE_STATUS.state (Table 16.2). -/
def pageState (s : State) (page : Nat) : Nat :=
  if !pageExists s page then 0 else
  match pageKind page with
  | none => 0
  | some (k, inst) =>
    match pagePartition k inst with
    | some p => if partUp s p then 1 else if (partition s p).failed then 3 else 2
    | none => 1

/-- The page of the active HEN instance. -/
def henPage (s : State) : Nat := 1 + s.henyen.active

/-! ### Interrupts (R562 to R564, R574, R575) -/

/-- Latch an interrupt source of a page. A block inside a partition that is not up latches nothing (R565). -/
def raise (s : State) (page bitNo : Nat) : State :=
  if pageDown s page || !pageExists s page then s
  else setReg s page 0x20 (rawReg s page 0x20 ||| BitVec.ofNat 64 (2 ^ bitNo))

/-- A page is pending (R564): int_en is 1 and INT_RAW AND INT_MASK is not 0. -/
def pagePending (s : State) (page : Nat) : Bool :=
  decide (rawReg s page 0x20 &&& rawReg s page 0x28 ≠ 0) && bit (rawReg s page 0x10).toNat 1 && !pageDown s page

/-- The pages that are pending, in rising order: those whose INT_RAW is listed are tried. -/
def pendingNow (s : State) : List Nat :=
  s.regs.filterMap (fun e => if e.1 % 512 = 4 ∧ pagePending s (e.1 / 512) then some (e.1 / 512) else none)

/-- The groups that hold a pending page: HEN_INT_SUM (R574). -/
def intSum (pages : List Nat) : List Nat := (List.range 64).filter (fun g => pages.any (fun n => n / 1024 == g))

/-- The aggregator follows the pages, and a group that becomes pending has an event to send (R574, R575). -/
def settle (s : State) : State :=
  { s with
    pendingPages := pendingNow s
    eventsDue := s.eventsDue ++ (intSum (pendingNow s)).filter (fun g => !(intSum s.pendingPages).contains g) }

/-- Send something to the outside. -/
def emit (s : State) (o : Out) : State := { s with out := s.out ++ [o] }

/-! ### Range checking (R569 to R572) -/

/-- The legal ranges of a field here and now. -/
def legalRanges (s : State) (f : Field) : List (Nat × Nat) :=
  match f.legal with
  | .any => [(0, 2 ^ f.len - 1)]
  | .ranges rs => rs
  | .point => [(0, topPoint s)]
  | .rows => [(0, getF s F.HUB_POOL_ROWS_rows 0)]

/-- The distance of a value from a range, and the value of the range nearest to it. -/
def nearIn (v : Nat) (r : Nat × Nat) : Nat × Nat :=
  if v < r.1 then (r.1 - v, r.1) else if r.2 < v then (v - r.2, r.2) else (0, v)

/-- The legal value nearest to a value, the lower of two equally near (R570). Ranges are listed in rising order. -/
def nearest (v : Nat) (rs : List (Nat × Nat)) : Nat :=
  match rs with
  | [] => v
  | r :: t => (t.foldl (fun a q => if (nearIn v q).1 < a.1 then nearIn v q else a) (nearIn v r)).2

/-- Record the clamps of one access: the fields with what was written and applied (R572). -/
def reportClamps (s : State) (page off : Nat) (cl : List (Field × Nat × Nat)) : State :=
  match cl with
  | [] => s
  | c :: t =>
    let top := t.foldl (fun a x => if a.1.lo + a.1.len < x.1.lo + x.1.len then x else a) c
    let f := top.1
    let tickNo := (rawReg s 4 0x118).toNat
    let whereV := off + f.lo * 2 ^ 12 + (f.lo + f.len - 1) * 2 ^ 18 + 2 ^ 24 + (if 32 < f.len then 2 ^ 25 else 0)
      + tickNo % 2 ^ 32 * 2 ^ 32
    let valueV := top.2.1 % 2 ^ 32 + top.2.2 % 2 ^ 32 * 2 ^ 32
    let cnt := (rawReg s page 0x50).toNat
    setReg (setReg (setReg s page 0x40 (BitVec.ofNat 64 whereV)) page 0x48 (BitVec.ofNat 64 valueV))
      page 0x50 (BitVec.ofNat 64 (min (2 ^ 32 - 1) (cnt + cl.length)))

/-! ### Writes by access type (Table 0.5, R20 to R22) -/

/-- Which half of a register an access writes. -/
inductive Half where
  | both | lower | upper
  deriving DecidableEq, Repr

/-- Lowest bit and length of what a half covers. -/
def Half.span : Half → Nat × Nat
  | .both => (0, 64)
  | .lower => (0, 32)
  | .upper => (32, 32)

/-- The register value an access asks for: the written half from the access, the other from the value there. -/
def merged (h : Half) (old v : Nat) : Nat :=
  match h with
  | .both => v % 2 ^ 64
  | .lower => setBits old 0 32 v
  | .upper => setBits old 32 32 v

/-- The bits an access writes, the others taken as 0 (R21). -/
def written (h : Half) (v : Nat) : Nat :=
  match h with
  | .both => v % 2 ^ 64
  | .lower => v % 2 ^ 32
  | .upper => v % 2 ^ 32 * 2 ^ 32

/-- A write touches a field when the field has a bit in the written half. -/
def touches (h : Half) (f : Field) : Bool :=
  match h with
  | .both => true
  | .lower => decide (f.lo < 32)
  | .upper => decide (32 < f.lo + f.len)

/-- The page is locked (R563). -/
def pageLocked (s : State) (page : Nat) : Bool := bit (rawReg s page 0x10).toNat 0

/-- The effect of a write on one field of the applied value: the new register value and what was clamped. -/
def writeField (s : State) (page : Nat) (h : Half) (v : Nat) (acc : Nat × List (Field × Nat × Nat)) (f : Field) :
    Nat × List (Field × Nat × Nat) :=
  let old := bits acc.1 f.lo f.len
  if !touches h f then acc else
  match f.access with
  | .ro | .rws => acc
  | .rw | .rwl =>
    if f.access = .rwl ∧ pageLocked s page then acc else
      let w := bits (merged h acc.1 v) f.lo f.len
      let n := nearest w (legalRanges s f)
      (setBits acc.1 f.lo f.len n, if n = w then acc.2 else acc.2 ++ [(f, w, n)])
  | .w1c => (setBits acc.1 f.lo f.len (old &&& (bits (written h v) f.lo f.len ^^^ (2 ^ f.len - 1))), acc.2)
  | .w1s => (setBits acc.1 f.lo f.len (old ||| bits (written h v) f.lo f.len), acc.2)
  | .wo =>
    let w := bits (written h v) f.lo f.len
    let n := nearest w (legalRanges s f)
    (acc.1, if n = w then acc.2 else acc.2 ++ [(f, w, n)])

/-- The staged value of a register: what was staged last, else the applied value (R17, R22). -/
def stagedReg (s : State) (page off : Nat) : W64 := (Tab.find? s.staged (regKey page off)).getD (rawReg s page off)

/-- A staged value with each field range-checked (R571), reserved bits 0 (R18). -/
def checkStaged (s : State) (fs : List Field) (v : Nat) : Nat × List (Field × Nat × Nat) :=
  fs.foldl (fun acc f =>
    let w := bits v f.lo f.len
    let n := nearest w (legalRanges s f)
    (acc.1 + n * 2 ^ f.lo, if n = w then acc.2 else acc.2 ++ [(f, w, n)])) (0, [])

/-- A write to a register whose fields are RWS: a lower half waits, the others complete the staging (R22). -/
def stageWrite (s : State) (page off : Nat) (h : Half) (v : Nat) (fs : List Field) : State × Bool :=
  let k := regKey page off
  match h with
  | .lower => ({ s with pendLo := Tab.insert s.pendLo k (BitVec.ofNat 64 (v % 2 ^ 32)) }, false)
  | _ =>
    let low := match Tab.find? s.pendLo k with | some l => l.toNat | none => (stagedReg s page off).toNat % 2 ^ 32
    let whole := match h with | .both => v % 2 ^ 64 | _ => v % 2 ^ 32 * 2 ^ 32 + low
    let c := checkStaged s fs whole
    (reportClamps { s with staged := Tab.insert s.staged k (BitVec.ofNat 64 c.1), pendLo := Tab.erase s.pendLo k }
      page off c.2, !c.2.isEmpty)

/-- A write to a register by its fields' access types; answers whether a field was clamped. Side effects of WO and W1S
fields and of RW fields that start something belong to the blocks. -/
def writeByAccess (s : State) (page off : Nat) (h : Half) (v : Nat) : State × Bool :=
  match pageKind page with
  | none => (s, false)
  | some (k, _) =>
    let fs := regFields k off
    if fs.any (fun f => decide (f.access = .rws)) then stageWrite s page off h v fs
    else
      let r := fs.foldl (writeField s page h v) ((rawReg s page off).toNat, [])
      (reportClamps (setReg s page off (BitVec.ofNat 64 r.1)) page off r.2, !r.2.isEmpty)

/-- The value a WO field takes from a write: 0 when its half is not written (R21), clamped (R571). -/
def woField (s : State) (h : Half) (v : Nat) (r : FRef) : Nat :=
  let w := bits (written h v) r.lo r.len
  match pageKind r.page with
  | none => w
  | some (k, _) =>
    match (regFields k r.off).find? (fun f => f.lo == r.lo) with
    | some f => nearest w (legalRanges s f)
    | none => w

/-! ### Commit (R25, R26, R566 to R568) -/

/-- The page's COMMIT is armed. -/
def armed (s : State) (page : Nat) : Bool := bit (rawReg s page 0x60).toNat 0

/-- Remove the entries of a page from a register table. -/
def dropPage {α : Type} (t : Tab α) (page : Nat) : Tab α := t.filter (fun e => decide (e.1 / 512 ≠ page))

/-- Apply every staged value of a page and clear COMMIT. -/
def commitPage (s : State) (page : Nat) : State :=
  let st := s.staged.filter (fun e => decide (e.1 / 512 = page))
  let s1 := st.foldl (fun (a : State) e => { a with regs := Tab.set regReset a.regs e.1 e.2 }) s
  setReg { s1 with staged := dropPage s1.staged page } page 0x60 0

/-- The armed pages, in rising order. -/
def armedPages (s : State) : List Nat :=
  s.regs.filterMap (fun e => if e.1 % 512 = 12 ∧ bit e.2.toNat 0 then some (e.1 / 512) else none)

/-- Step 2 of OPEN: each armed page whose partition is up commits, in rising page number (R566). -/
def commitAll (s : State) : State :=
  (armedPages s).foldl (fun a page => if pageDown a page then a else commitPage a page) s

/-- PAGE_CTRL.unstage (R568). -/
def unstagePage (s : State) (page : Nat) : State :=
  setReg { s with staged := dropPage s.staged page, pendLo := dropPage s.pendLo page } page 0x60 0

/-- Every register of a page takes its reset value (R565); a lost arm sets INT_RAW bit 5 of the active HEN page. -/
def resetPage (s : State) (page : Nat) : State :=
  let lost := armed s page
  let s1 := { s with regs := dropPage s.regs page, staged := dropPage s.staged page, pendLo := dropPage s.pendLo page }
  if lost then raise s1 (henPage s) 5 else s1

end Sys2Proof.Machine
end

