-- ==== Sys2Proof/Machine/Mem.lean ====
section
/-! DEFINITION. The hub's own memory: the hub-local map (R334 to R338), regions and their rights (R350, R482 to R485),
poison (R519, R400), the guarded far tier's erasures (R533, R539, R540), leases and sealed slots, and S-space and
C-space. -/

namespace Sys2Proof.Machine

/-! ### The hub-local map -/

def twoMiB : Nat := 2 ^ 21
/-- End of the twelve HBM stacks (Table 9.11). -/
def hbmEnd : Nat := 12 * 2 ^ 36
/-- First offset of the far-tier window. -/
def farBase : Nat := 0x010000000000
/-- First offset of sync-object space. -/
def syncBase : Nat := 0x7FE000000000
/-- First offset of the management space. -/
def mgmtBase : Nat := 0x7FF000000000

/-- Frames of the Seam directory reserve at the top of a stack (R387). -/
def reserveFrames (p : Nat) : Nat := if p % 3 = 0 then 342 else 341

/-- An HBM offset lies in the Seam directory reserve (R387). -/
def inReserve (off : Nat) : Bool :=
  decide (off < hbmEnd) && decide (32768 - reserveFrames (off / 2 ^ 36) ≤ off % 2 ^ 36 / twoMiB)

/-- Guarded stripe rows in force. -/
def guardRows (s : State) : Nat := getF s F.HUB_POOL_SPLIT_guard_rows 0

/-- A decoded far-tier offset (R336): the channel, the frame of the channel, the offset in the frame, and for a guarded row
its data block and the stripe's q. -/
structure FarSlot where
  channel : Nat
  frame : Nat
  offset : Nat
  guarded : Bool
  block : Nat
  q : Nat
  deriving DecidableEq, Repr

/-- The procedure of R336 on a far-tier offset x. -/
def farDecode (s : State) (x : Nat) : Option FarSlot :=
  let fr := x / twoMiB
  let f := fr / 24
  let k := fr % 24
  if f < guardRows s then
    if 22 ≤ k then none
    else
      let y := x - f * (48 * 2 ^ 20)
      let b := y / 4096
      let st := b / 22
      let i := b % 22
      let q := st % 12
      let ch := if i < 2 * q then i else i + 2
      some { channel := ch, frame := f, offset := st * 4096 + y % 4096, guarded := true, block := i, q := q }
  else if nth 0 s.board.channelFrames k ≤ f then none
  else some { channel := k, frame := f, offset := x % twoMiB, guarded := false, block := 0, q := 0 }

/-- The home partition of a store offset (R335 to R337); none for an unassigned offset, the reserve, sync-object space and
management space. -/
def homePart (s : State) (off : Nat) : Option Nat :=
  if off < hbmEnd then (if inReserve off then none else some (off / 2 ^ 36))
  else if farBase ≤ off ∧ off < farBase + 12 * 2 ^ 40 then (farDecode s (off - farBase)).map (fun r => r.channel / 2)
  else none

/-- The far slot of a store offset, when it lies in the far-tier window. -/
def farSlot (s : State) (off : Nat) : Option FarSlot :=
  if farBase ≤ off ∧ off < farBase + 12 * 2 ^ 40 then farDecode s (off - farBase) else none

/-- The seam die of a home partition (R28). -/
def dieOf (p : Nat) : Nat := if p < 6 then 0 else 1

/-! ### Physical addresses (R332) -/

/-- This hub's ID. -/
def hubId (s : State) : Nat := getF s F.HUB_ID_INFO_hub_id 0

/-- A physical address names host space. -/
def isHost (pa : Nat) : Bool := bit pa 57
/-- The hub of a store address. -/
def paHub (pa : Nat) : Nat := bits pa 47 10
/-- The hub-local offset of a store address. -/
def paOff (pa : Nat) : Nat := bits pa 0 47
/-- The agent of a host address. -/
def paAgent (pa : Nat) : Nat := bits pa 45 12
/-- A store address on this hub. -/
def isLocal (s : State) (pa : Nat) : Bool := !isHost pa && paHub pa == hubId s
/-- The physical address of an offset of this hub. -/
def localPa (s : State) (off : Nat) : Nat := hubId s * 2 ^ 47 + off

/-! ### Regions and rights -/

/-- Fields of a region entry (Table 10.3). -/
def rgnValid (e : W64) : Bool := bit e.toNat 0
def rgnAmode (e : W64) : Nat := bits e.toNat 1 2
def rgnGuard (e : W64) : Bool := bit e.toNat 3
def rgnHint (e : W64) : Nat := bits e.toNat 4 4
def rgnClass (e : W64) : Nat := bits e.toNat 8 4
def rgnKey (e : W64) : Nat := bits e.toNat 12 12
def rgnGroup (e : W64) : Nat := bits e.toNat 24 12
def rgnAtom (e : W64) : Nat := bits e.toNat 36 8

/-- A region entry. -/
def regionEntry (s : State) (r : Nat) : W64 := Tab.getC 0 s.regions.entries r

/-- The region that holds the frame of an offset. -/
def regionOf (s : State) (off : Nat) : Option Nat :=
  match Tab.getC 0 s.pools.placed (off / twoMiB) with
  | 0 => none
  | n + 1 => some n

/-- A key ID. -/
def keyOf (s : State) (k : Nat) : KeyId := Tab.getC KeyId.unused s.eloan.keys k

/-- An agent is a member of a share group, as of its last SHG_SYNC (R354). -/
def inGroup (s : State) (g a : Nat) : Bool := bit (Tab.getC 0 s.regions.groups g) a

/-- The key of an offset's region has been destroyed, and what is written back to it is discarded (R495). -/
def keyLost (s : State) (off : Nat) : Bool :=
  match regionOf s off with
  | some r => decide ((keyOf s (rgnKey (regionEntry s r))).state = .destroying ∨ (keyOf s (rgnKey (regionEntry s r))).state = .scrub)
  | none => false

/-- Who makes an access to the store (R475): a tenant's engine, host link or queue, `haul` for the HAUL command's own
writes; the hub under key ID 0; another hub. -/
inductive MemWho where
  | tenant (tid : Nat) (haul : Bool)
  | hub
  | remote (hub : Nat)
  deriving DecidableEq, Repr

/-- Access kinds, with the codes of XLT_FAULT.type. -/
inductive Kindm where
  | rd | wr | fx | atm
  deriving DecidableEq, Repr

/-- The code of an access kind in XLT_FAULT.type. -/
def Kindm.code : Kindm → Nat
  | .rd => 0 | .wr => 1 | .fx => 2 | .atm => 3

/-- An access kind changes memory. -/
def Kindm.writes : Kindm → Bool
  | .wr | .atm => true
  | _ => false

/-- A window gives a right (R484). -/
def Window.grants (w : Window) (k : Kindm) : Bool :=
  match k with
  | .rd | .fx => w.rd
  | .wr => w.wr
  | .atm => w.atm

/-- A store window of a tenant covers an offset of a hub with a right (R482, R485). -/
def windowCovers (s : State) (tid hub off : Nat) (k : Kindm) : Bool :=
  s.eloan.windows.any (fun w => w.tid == tid && w.kind == 0 && w.hub == hub && w.grants k &&
    decide (w.first ≤ off) && decide (off < w.first + w.count * twoMiB))

/-- The tenant check of the home (R482, R485). -/
def rightsOk (s : State) (who : MemWho) (k : Kindm) (off : Nat) : Bool :=
  match who with
  | .hub => true
  | .tenant t _ =>
    match regionOf s off with
    | none => false
    | some r =>
      let key := keyOf s (rgnKey (regionEntry s r))
      decide (key.state = .keyed) && (key.tid == t || windowCovers s t (hubId s) off k)
  | .remote h =>
    match regionOf s off with
    | none => false
    | some r => decide ((keyOf s (rgnKey (regionEntry s r))).state = .keyed) && inGroup s (rgnGroup (regionEntry s r)) h

/-- Only the HAUL command writes a Face window (R284). -/
def faceRefuses (s : State) (who : MemWho) (k : Kindm) (off : Nat) : Bool :=
  k.writes && (match regionOf s off with
    | some r => decide (rgnHint (regionEntry s r) % 8 = 3) && (match who with | .tenant _ h => !h | .hub => false | .remote _ => true)
    | none => false)

/-- The lease, if any, that covers an offset (R355). -/
def leaseAt (s : State) (off : Nat) : Option Lease :=
  (s.seam.flatMap SeamDie.leases).find? (fun l => decide (l.page ≤ off) && decide (off < l.page + l.size))

/-- A lease that has been installed on some of its seam dies and not on all: its lease point still comes (R401). -/
def leasePending (s : State) (l : Lease) : Bool := s.regions.leaseReqs.any (fun r => decide (r.lease = l) && !r.dies.isEmpty)

/-- The lease that is in force at an offset (R357, R401). -/
def leaseInForce (s : State) (off : Nat) : Option Lease :=
  (s.seam.flatMap SeamDie.leases).find? (fun l => decide (l.page ≤ off) && decide (off < l.page + l.size) && !leasePending s l)

/-- A lease refuses the access (R359). -/
def leaseRefuses (s : State) (k : Kindm) (off : Nat) : Bool :=
  match leaseInForce s off with
  | some l => !l.ro || k.writes
  | none => false

/-! ### Guarded lines: erasures (R533, R539, R540) -/

/-- A channel's blocks of a stripe row are erased: its partition is away, the row waits for its resync, the channel is
retired. -/
def channelErased (s : State) (row ch : Nat) : Bool :=
  !partUp s (ch / 2) || (partition s (ch / 2)).resync.contains row || s.ras.retiredChannels.contains ch

/-- Erased blocks among the 24 of a row's stripes. -/
def erasedCount (s : State) (row : Nat) : Nat := ((List.range 24).filter (fun ch => channelErased s row ch)).length

/-- A guarded line's own data block is erased. -/
def ownErased (s : State) (f : FarSlot) : Bool := channelErased s f.frame f.channel

/-- How a line of this hub's store can be reached now (Table 15.8). -/
inductive Road where
  /-- The home line cache serves it, or the line is rebuilt. -/
  | open_
  /-- Three or more erasures: a read returns poison, a write is refused. -/
  | lost
  /-- The home partition is away and the line is plain: the stand-in holds the request. -/
  | held
  /-- The home partition has failed and the line is plain: reads return poison, writes are discarded. -/
  | gone
  /-- The home partition is away and the line lies in a Face slot: reads go to the slot's source (R286). -/
  | through
  deriving DecidableEq, Repr

/-- A line lies in a frame of a FACE region. -/
def isFace (s : State) (off : Nat) : Bool :=
  match regionOf s off with
  | some r => decide (rgnHint (regionEntry s r) % 8 = 3)
  | none => false

/-- The road to a line of this hub's store, given its home partition (R533, R535, R539). -/
def roadTo (s : State) (home off : Nat) : Road :=
  match farSlot s off with
  | some f =>
    if f.guarded then (if ownErased s f && decide (3 ≤ erasedCount s f.frame) then .lost else .open_)
    else if (partition s home).lost then .gone else if partUp s home then .open_ else .held
  | none =>
    if partUp s home && !(partition s home).lost then .open_
    else if isFace s off then .through
    else if (partition s home).lost then .gone else .held

/-! ### Reading and writing bytes -/

/-- A byte of the store (R629: a byte that nothing has written is 0). -/
def storeByte (s : State) (off : Nat) : Byte := Tab.getC 0 s.store off

/-- Bytes of the store. -/
def storeBytes (s : State) (off n : Nat) : List Byte := (List.range n).map (fun i => storeByte s (off + i))

/-- The one form of a byte memory: addresses strictly rising, no entry equal to 0, which an unlisted byte reads as. -/
abbrev Memory.wf (t : Tab Byte) : Bool := Tab.wf (fun _ => (0 : Byte)) t

/-- Write bytes into a byte table. -/
def putBytes : Tab Byte → Nat → List Byte → Tab Byte
  | t, _, [] => t
  | t, a, b :: bs => putBytes (Tab.setC 0 t a b) (a + 1) bs

/-- The lines an extent touches. -/
def linesOf (off n : Nat) : List Nat :=
  if n = 0 then [] else (List.range ((off + n - 1) / 64 - off / 64 + 1)).map (off / 64 + ·)

/-- A line of the store is poisoned. -/
def linePoisoned (s : State) (line : Nat) : Bool := (Tab.find? s.ras.poison line).isSome

/-- Poison lines of the store (R519). -/
def poisonLines (s : State) (ls : List Nat) : State :=
  { s with ras := { s.ras with poison := ls.foldl (fun t l => Tab.insert t l ()) s.ras.poison } }

/-- A write of a whole line clears its poison, a smaller one leaves it (R400). -/
def clearPoison (s : State) (off n : Nat) : State :=
  { s with
    ras := { s.ras with
      poison := (linesOf off n).foldl
        (fun t l => if off ≤ l * 64 ∧ l * 64 + 64 ≤ off + n then Tab.erase t l else t) s.ras.poison } }

/-- The rows that a write to an extent leaves to resync, per absent partition (R540): each absent partition with channels in
the stripe. -/
def markResync (s : State) (off : Nat) : State :=
  match farSlot s off with
  | some f =>
    if !f.guarded then s
    else (List.range 12).foldl (fun (a : State) p =>
      if partUp a p && !(partition a p).resync.contains f.frame then a
      else updPart a p (fun q => if q.resync.contains f.frame then q else { q with resync := q.resync ++ [f.frame] })) s
  | none => s

/-- Write bytes of the store at their home: contents, poison and the resync marks of a guarded row. -/
def storeWrite (s : State) (off : Nat) (data : List Byte) : State :=
  let s1 := clearPoison { s with store := putBytes s.store off data } off data.length
  (linesOf off data.length).foldl (fun a l => markResync a (l * 64)) s1

/-- A little-endian value of the store. -/
def storeValue (s : State) (off n : Nat) : Nat := leValue (storeBytes s off n)

/-- A sealed slot of an input log holds an offset (R549). -/
def slotSealed (s : State) (off : Nat) : Bool :=
  s.ras.logs.any (fun e => e.slots.any (fun x => x.2.isSealed && x.2.pages.contains (off / 4096)))

/-- A local access is refused with the access error (R338): unassigned or reserved offsets, rights, Face windows, leases,
sealed log slots, a guarded line that cannot be rebuilt. -/
def refuses (s : State) (who : MemWho) (k : Kindm) (off : Nat) : Bool :=
  match homePart s off with
  | none => true
  | some h =>
    !rightsOk s who k off || faceRefuses s who k off || leaseRefuses s k off ||
      (k.writes && (decide (roadTo s h off = .lost) || slotSealed s off))

/-- A whole extent of this hub's store that the hub reads on the manager's behalf, as TID 0: none when it meets the access
error or poison, or cannot be reached now. -/
def hubRead (s : State) (pa n : Nat) : Option (List Byte) :=
  let off := paOff pa
  if isLocal s pa && (linesOf off n).all (fun l =>
      !refuses s (.tenant 0 false) .rd (l * 64) && !linePoisoned s l &&
        (match homePart s (l * 64) with | some h => decide (roadTo s h (l * 64) = .open_) | none => false))
  then some (storeBytes s off n) else none

/-! ### S-space and C-space -/

def sSize : Nat := 2 ^ 21
def cSize : Nat := 0x1800000

/-- The cluster of a core (R31). -/
def clusterOf (core : Nat) : Nat := core / 16

/-- Bytes of a core's scratchpad. -/
def sBytes (s : State) (core off n : Nat) : List Byte := (List.range n).map (fun i => Tab.getC 0 s.sspace (core * sSize + off + i))

/-- Bytes of a cluster's buffer. -/
def cBytes (s : State) (core off n : Nat) : List Byte :=
  (List.range n).map (fun i => Tab.getC 0 s.cspace (clusterOf core * cSize + off + i))

/-- The 8-byte words an extent touches. -/
def wordsOf (off n : Nat) : List Nat :=
  if n = 0 then [] else (List.range ((off + n - 1) / 8 - off / 8 + 1)).map (off / 8 + ·)

/-- Poisoned words lose their poison when one write writes all 8 of their bytes (Table 15.2). -/
def unpoisonWords (t : Tab Unit) (off n : Nat) : Tab Unit :=
  (wordsOf off n).foldl (fun t w => if off ≤ w * 8 ∧ w * 8 + 8 ≤ off + n then Tab.erase t w else t) t

/-- Write a core's scratchpad. -/
def sWrite (s : State) (core off : Nat) (data : List Byte) : State :=
  let a := core * sSize + off
  { s with sspace := putBytes s.sspace a data
           ras := { s.ras with poisonS := unpoisonWords s.ras.poisonS a data.length } }

/-- Write a cluster's buffer. -/
def cWrite (s : State) (core off : Nat) (data : List Byte) : State :=
  let a := clusterOf core * cSize + off
  { s with cspace := putBytes s.cspace a data
           ras := { s.ras with poisonC := unpoisonWords s.ras.poisonC a data.length } }

/-- A core's scratchpad or cluster buffer extent holds a poisoned word. -/
def sPoisoned (s : State) (core off n : Nat) : Bool :=
  (wordsOf (core * sSize + off) n).any (fun w => (Tab.find? s.ras.poisonS w).isSome)
def cPoisoned (s : State) (core off n : Nat) : Bool :=
  (wordsOf (clusterOf core * cSize + off) n).any (fun w => (Tab.find? s.ras.poisonC w).isSome)

/-- The engine writes that are issued and not performed (R239): core, unit, thread context, command number. -/
def openWrites (s : State) : List (Nat × Nat × Nat × Nat) :=
  s.seam.flatMap (fun d => (d.txns.map SeamTxn.req ++ d.waiting).filterMap (fun r =>
    match r.kind, r.who with
    | .wrCur, .engine core unit ctx seq _ => some (core, unit, ctx, seq)
    | .atomic, .engine core unit ctx seq _ => some (core, unit, ctx, seq)
    | _, _ => none)) ++
  s.fabric.requests.filterMap (fun r => match r.purpose with
    | .write core unit ctx seq => some (core, unit, ctx, seq)
    | _ => none)

/-- Zero a span of a byte table: an unwritten byte is 0 (R265, R489, R276). -/
def zeroSpan (t : Tab Byte) (lo n : Nat) : Tab Byte := t.filter (fun e => decide (e.1 < lo) || decide (lo + n ≤ e.1))

end Sys2Proof.Machine
end

