-- ==== Sys2Proof/Machine/FaultLog.lean ====
section
/-! DEFINITION. Fault records (R517, R520, R521, R500): the record's bytes, the fault log in memory, the counts, the block's
ERR_LOG_PTR and the tenant's full copy. -/

namespace Sys2Proof.Machine

/-- Causes (Table 15.4). -/
def causeXlate : Nat := 0x000C

/-- What a fault record says beyond its sequence number and times (Table 15.3); the defaults are the table's values for
what does not apply. -/
structure FaultInfo where
  cls : Nat
  cause : Nat
  page : Nat
  actions : Nat := 0
  detail : Nat := 0
  context : Nat := 0xFFFF
  handle : Nat := 0xFFFF
  agent : Nat := 0xFFFF
  core : Nat := 0x1FF
  ctx : Nat := 0
  path : Bool := false
  index : Int := 0
  job : Nat := 0
  pa : Nat := 0
  va : Nat := 0
  deriving DecidableEq, Repr

/-- The number of the current tick. -/
def tickNumber (s : State) : Nat := (rawReg s 4 0x118).toNat

/-- The bytes of a record; the management copy has no virtual address (R500). -/
def recordBytes (s : State) (seq : Nat) (f : FaultInfo) (full : Bool) : List Byte :=
  leBytes 8 seq ++ leBytes 8 (tickNumber s) ++ leBytes 8 s.fabric.dtime ++ leBytes 1 f.cls ++ leBytes 1 f.actions ++
  leBytes 2 f.cause ++ leBytes 2 f.page ++ leBytes 2 f.detail ++ leBytes 2 f.context ++ leBytes 2 f.handle ++
  leBytes 2 f.agent ++ leBytes 2 (f.core % 2 ^ 9 + f.ctx % 2 ^ 6 * 2 ^ 9 + b2n f.path * 2 ^ 15) ++
  leBytes 4 (unsigned 32 f.index) ++ leBytes 4 f.job ++ leBytes 8 f.pa ++ leBytes 8 (if full then f.va else 0)

/-- Write a record into the fault log, or count it as discarded (R521). -/
def logRecord (s : State) (seq : Nat) (f : FaultInfo) : State :=
  let size := getF s F.RAS_LOG_size 0
  if size = 0 then addSatF s F.RAS_LOG_lost 0 1
  else
    let tail := (rawReg s 10 0x120).toNat
    let s1 := if 2 ^ size < (seq + 1 - tail) then raise (addSatF s F.RAS_COUNT_overruns 0 1) 10 6 else s
    let pa := getF s F.RAS_LOG_BASE_addr 0 * 4096 + seq % 2 ^ size * 64
    if isLocal s1 pa && !refuses s1 (.tenant 0 false) .wr (paOff pa) then storeWrite s1 (paOff pa) (recordBytes s seq f false)
    else s1

/-- Count a record by its class and latch what the RAS page shows of it (Table 15.12). -/
def countRecord (s : State) (cls : Nat) : State :=
  match cls with
  | 1 =>
    let s1 := addSatF s F.RAS_COUNT_corrected 0 1
    let s2 := { s1 with ras := { s1.ras with correctedTotal := s1.ras.correctedTotal + 1 } }
    if s2.ras.correctedTotal % 65536 = 0 then raise s2 10 2 else s2
  | 2 => raise (addSatF s F.RAS_COUNT_deferred 0 1) 10 1
  | 3 => addSatF s F.RAS_COUNT_uncontained 0 1
  | _ => s

/-- The tenant bound to a context. -/
def boundTid (s : State) (c : Nat) : Option Nat := (Tab.getC Binding.unbound s.eloan.bindings c).bound

/-- Keep the tenant's full copy, the newest 256 of each TID (R520). -/
def keepCopy (s : State) (seq : Nat) (f : FaultInfo) : State :=
  match (if f.context = 0xFFFF then none else boundTid s f.context) with
  | none => s
  | some t =>
    { s with eloan := { s.eloan with
        fullCopies := Tab.upd [] s.eloan.fullCopies t (fun l => (recordBytes s seq f true :: l).take 256) } }

/-- A location of a CORRECTED error, for the millisecond of R520. -/
def locationKey (f : FaultInfo) : Nat := f.page * 2 ^ 58 + f.pa

/-- Write one fault record, whatever came before it. -/
def writeRecord (s : State) (f : FaultInfo) : State :=
  let seq := (rawReg s 10 0x118).toNat
  let s1 := keepCopy (countRecord (logRecord s seq f) f.cls) seq f
  let s2 := setReg s1 10 0x118 (BitVec.ofNat 64 (seq + 1))
  let s3 := setReg s2 f.page 0x38 (BitVec.ofNat 64 (seq % 2 ^ 63 + 2 ^ 63))
  if f.cls = 1 then { s3 with ras := { s3.ras with corrected := Tab.insert s3.ras.corrected (locationKey f) s3.now } } else s3

/-- An error is detected (R520): a record, but for a CORRECTED one at a location that has had its record this millisecond. -/
def fault (s : State) (f : FaultInfo) : State :=
  let recent : Bool := match Tab.find? s.ras.corrected (locationKey f) with
    | some t => decide (s.now < t + 2000000)
    | none => false
  if f.cls == 1 && recent then countRecord s 1 else writeRecord s f

end Sys2Proof.Machine
end

