-- ==== Sys2Proof/Machine/Xlate.lean ====
section
/-! DEFINITION. Address contexts and translation (ch. 9): descriptors, segments, walks, TLBs, invalidations and epochs. -/

namespace Sys2Proof.Machine

/-- An address context. -/
def context (s : State) (c : Nat) : Context := Tab.getC Context.empty s.xlt.contexts c

/-- Change an address context. -/
def updContext (s : State) (c : Nat) (f : Context → Context) : State :=
  { s with xlt := { s.xlt with contexts := Tab.upd Context.empty s.xlt.contexts c f } }

/-- A context that a thread may run in: loaded, and bound to a tenant (R475). -/
def contextUsable (s : State) (c : Nat) : Bool := (context s c).valid && (boundTid s c).isSome

/-- The tenant a context acts as; an unbound context is not usable. -/
def tidOf (s : State) (c : Nat) : Nat := (boundTid s c).getD 0

/-! ### Descriptors (Tables 9.2 and 9.3) -/

/-- A field of a byte string. -/
def field (bs : List Byte) (off n : Nat) : Nat := leValue ((bs.drop off).take n)

/-- The segment at index i of a descriptor, as written. -/
def segAt (d : List Byte) (i : Nat) : Segment :=
  let e := d.drop (0x20 + 32 * i)
  let a := field e 0x18 8
  { base := field e 0 8, limit := field e 8 8, phys := field e 0x10 8, rd := bit a 0, wr := bit a 1, fx := bit a 2,
    nc := bit a 3 }

/-- A segment obeys Table 9.3. -/
def segOk (d : List Byte) (i : Nat) : Bool :=
  let g := segAt d i
  let last := g.phys + g.limit - 1
  let sp := if isHost g.phys then 45 else 47
  g.base % 4096 == 0 && decide (g.base < 2 ^ 57) && g.limit % 4096 == 0 && decide (4096 ≤ g.limit) &&
    decide (g.base + g.limit ≤ 2 ^ 57) && g.phys % 4096 == 0 && decide (last < 2 ^ 58) &&
    (g.phys / 2 ^ sp == last / 2 ^ sp) && field d (0x20 + 32 * i + 0x18) 8 / 16 == 0

/-- A descriptor obeys Tables 9.2 and 9.3. -/
def descOk (s : State) (d : List Byte) : Bool :=
  let n := field d 2 1
  let walk := field d 3 1
  let root := field d 8 8
  field d 0 2 == 1 && decide (n ≤ 8) && decide (walk ≤ 1) && field d 4 4 == 0 && field d 0x10 16 == 0 &&
    field d 0x120 224 == 0 &&
    (if walk = 0 then root == 0 else (root % 4096 == 0 && isLocal s root && decide (root < 2 ^ 58))) &&
    (List.range 8).all (fun i => if i < n then segOk d i else field d (0x20 + 32 * i) 32 == 0)

/-- The context a descriptor describes. -/
def contextOf (d : List Byte) (epoch : Nat) : Context :=
  { valid := true, walk := field d 3 1 == 1, root := field d 8 8, segs := (List.range (field d 2 1)).map (segAt d),
    epoch := epoch }

/-! ### Translation -/

/-- What a translation gives: a physical address with its nc attribute and the TLB entry it used (none for a segment), a
fault of Table 9.9, or a wait for a table line that cannot be read now. -/
inductive Xl where
  | ok (pa : Nat) (nc : Bool) (entry : Option TlbEntry)
  | fault (code : Nat)
  | wait (line : Nat)
  deriving DecidableEq, Repr

/-- A permission covers an access kind (R312). -/
def permits (rd wr fx : Bool) (k : Kindm) : Bool :=
  match k with
  | .rd => rd
  | .wr => wr
  | .fx => fx
  | .atm => rd && wr

/-- The lowest-numbered segment that holds an address (R311). -/
def findSeg (segs : List Segment) (va : Nat) : Option Segment :=
  segs.find? (fun g => decide (g.base ≤ va) && decide (va < g.base + g.limit))

/-- The page size of a leaf level (Table 9.5). -/
def pageSize (level : Nat) : Nat := 2 ^ (12 + 9 * (level - 1))

/-- The entry a leaf installs: its whole run (R316). -/
def runEntry (c level va pte : Nat) : TlbEntry :=
  let size := pageSize level * 2 ^ bits pte 8 4
  let page := bits pte 12 46 * 4096
  { context := c, vbase := va / size * size, pbase := page / size * size, size := size, rd := bit pte 2, wr := bit pte 3,
    fx := bit pte 4, nc := bit pte 5 }

/-- The seam directory and the state of a line that a walk or an engine read meets: filled in by the Seam (R377). -/
inductive WalkOut where
  | entry (e : TlbEntry)
  | fault (code : Nat)
  | wait (line : Nat)
  deriving DecidableEq, Repr

/-- Whether a store line can be read at its home at this moment: none when it can, else why not. `held` is the Seam's
word on lines whose copy must first come back. -/
def readGate (s : State) (held : Nat → Bool) (off : Nat) : Option Bool :=
  match homePart s off with
  | none => some false
  | some h =>
    match roadTo s h off with
    | .open_ => if held (off / 64) then some true else none
    | .held | .through => some true
    | .lost | .gone => none

/-- The entry at a level of a walk that has read a table entry (R313, R314). -/
def checkPte (s : State) (c level va pte : Nat) : Sum WalkOut Nat :=
  if !bit pte 0 then .inl (.fault 2)
  else if bit pte 1 then
    if level = 5 ∨ level = 4 ∨ bits pte 58 6 ≠ 0 ∨ bits pte 6 2 ≠ 0 ∨ bits pte 12 46 * 4096 % pageSize level ≠ 0 then .inl (.fault 4)
    else
      let e := runEntry c level va pte
      if va / pageSize level % 2 ^ bits pte 8 4 ≠ bits pte 12 46 * 4096 / pageSize level % 2 ^ bits pte 8 4 then .inl (.fault 5)
      else .inl (.entry e)
  else if level = 1 ∨ bits pte 2 10 ≠ 0 ∨ bits pte 58 6 ≠ 0 ∨ !isLocal s (bits pte 12 46 * 4096) then .inl (.fault 4)
  else .inr (bits pte 12 46 * 4096)

/-- A walk of the levels from one downward (R313 to R316). -/
def walk (s : State) (held : Nat → Bool) (c tid va : Nat) : Nat → Nat → WalkOut
  | 0, _ => .fault 4
  | level + 1, table =>
    let off := paOff table + 8 * bits va (12 + 9 * level) 9
    if !isLocal s table ∨ refuses s (.tenant tid false) .rd off then .fault 7
    else match readGate s held off with
      | some true => .wait (off / 64)
      | some false => .fault 7
      | none =>
        if linePoisoned s (off / 64) then .fault 6
        else match checkPte s c (level + 1) va (storeValue s off 8) with
          | .inl r => r
          | .inr t => walk s held c tid va level t

/-- A TLB entry covers an address of a context. -/
def TlbEntry.covers (e : TlbEntry) (c va : Nat) : Bool :=
  e.context == c && decide (e.vbase ≤ va) && decide (va < e.vbase + e.size)

/-- Where a translation came from: segment, core TLB, partition TLB, walk. -/
inductive XlFrom where
  | seg | core | part | walk
  deriving DecidableEq, Repr

/-- The result of using a leaf or TLB entry. -/
def useEntry (e : TlbEntry) (va : Nat) (k : Kindm) : Xl :=
  if permits e.rd e.wr e.fx k then .ok (e.pbase + (va - e.vbase)) e.nc (some e) else .fault 3

/-- Translate a virtual address of a context for an access by a core (R310 to R317): the segments, the core TLB, the
partition TLB, a walk. -/
def xlate (s : State) (held : Nat → Bool) (core c va : Nat) (k : Kindm) : Xl × XlFrom :=
  let cx := context s c
  if !contextUsable s c then (.fault 1, .seg)
  else match findSeg cx.segs va with
    | some g => if permits g.rd g.wr g.fx k then (.ok (g.phys + (va - g.base)) g.nc none, .seg) else (.fault 3, .seg)
    | none =>
      if !cx.walk then (.fault 2, .seg)
      else match (Tab.getC [] s.xlt.coreTlb core).find? (fun e => e.covers c va) with
        | some e => (useEntry e va k, .core)
        | none => match (Tab.getC [] s.xlt.partTlb (partOfCore core)).find? (fun e => e.covers c va) with
          | some e => (useEntry e va k, .part)
          | none => match walk s held c (tidOf s c) va 5 cx.root with
            | .entry e => (useEntry e va k, .walk)
            | .fault n => (.fault n, .walk)
            | .wait l => (.wait l, .walk)

/-- Entries a core TLB and a partition TLB hold (R317). -/
def coreTlbSize : Nat := 256
def partTlbSize : Nat := 8192

/-- Put an entry into a core's TLB; the oldest leaves when it is full (R663 leaves the policy open). -/
def fillCore (s : State) (core : Nat) (e : TlbEntry) : State :=
  { s with xlt := { s.xlt with coreTlb := Tab.upd [] s.xlt.coreTlb core (fun l =>
      if l.contains e then l else (l ++ [e]).drop (l.length + 1 - coreTlbSize)) } }

/-- Put an entry into a partition's TLB. -/
def fillPart (s : State) (p : Nat) (e : TlbEntry) : State :=
  { s with xlt := { s.xlt with partTlb := Tab.upd [] s.xlt.partTlb p (fun l =>
      if l.contains e then l else (l ++ [e]).drop (l.length + 1 - partTlbSize)) } }

/-- What a translation leaves in the TLBs: a hit in the partition TLB fills the core's, a walk is on its way (R317, R319). -/
def noteXlate (s : State) (core : Nat) (r : Xl × XlFrom) : State :=
  match r with
  | (.ok _ _ (some e), .part) => fillCore s core e
  | (.ok _ _ (some e), .walk) =>
    if s.xlt.walks.any (fun w => w.core == core && decide (w.entry = e) && !w.stale) then s
    else { s with xlt := { s.xlt with walks := s.xlt.walks ++ [{ core := core, entry := e, stale := false }] } }
  | _ => s

/-- Record a translation fault (R331): XLT_FAULT, XLT_FAULT_VA, INT_RAW bit 3. -/
def noteFault (s : State) (c va code : Nat) (k : Kindm) : State :=
  let s1 := setF (setF (setF s F.XLT_FAULT_code 0 code) F.XLT_FAULT_type 0 k.code) F.XLT_FAULT_context 0 c
  raise (setF (addSatF s1 F.XLT_FAULT_count 0 1) F.XLT_FAULT_VA_va 0 va) 8 3

/-! ### Invalidation (R317 to R319) -/

/-- What an invalidation names: a range of a context, a context, everything. -/
inductive InvScope where
  | range (c va len : Nat)
  | ctx (c : Nat)
  | all
  deriving DecidableEq, Repr

/-- A TLB entry falls to an invalidation. -/
def InvScope.hits (v : InvScope) (e : TlbEntry) : Bool :=
  match v with
  | .range c va len => e.context == c && decide (e.vbase < va + len) && decide (va < e.vbase + e.size)
  | .ctx c => e.context == c
  | .all => true

/-- An invalidation names a context. -/
def InvScope.names (v : InvScope) (c : Nat) : Bool :=
  match v with
  | .range d _ _ => c == d
  | .ctx d => c == d
  | .all => true

/-- Remove the named entries from every TLB; a walk in flight for a named context is never installed. -/
def invalidate (s : State) (v : InvScope) : State :=
  { s with xlt := { s.xlt with
      coreTlb := s.xlt.coreTlb.map (fun e => (e.1, e.2.filter (fun t => !v.hits t)))
      partTlb := s.xlt.partTlb.map (fun e => (e.1, e.2.filter (fun t => !v.hits t)))
      walks := s.xlt.walks.map (fun w => if v.names w.entry.context then { w with stale := true } else w) } }

/-! ### Epochs (R326 to R328) -/

/-- An epoch e is older than E (R327, R524). -/
def olderEpoch (e big : Nat) : Bool :=
  let d := (big + 2 ^ 32 - e % 2 ^ 32) % 2 ^ 32
  decide (1 ≤ d) && decide (d ≤ 2 ^ 31 - 1)

/-- Live descriptors of a context (R327): those that another hub or a home has still to answer, and those with writes that are
not performed. -/
def liveOf (s : State) (c : Nat) : List Descriptor :=
  s.descriptors.filter (fun d => d.context == c && (d.remote || d.srcSpace == 3 ||
    (openWrites s).any (fun w => w.1 == d.core && w.2.1 == 4 && w.2.2.2 == d.seq)))

/-- An increment would let a live descriptor fall 2^31 or more behind (R327). -/
def bumpWaits (s : State) (c : Nat) : Bool :=
  (liveOf s c).any (fun d => ((context s c).epoch + 1 + 2 ^ 32 - d.epoch) % 2 ^ 32 ≥ 2 ^ 31)

/-- Increment the epoch of a context now, or hold the increment back (R326, R327). -/
def bumpEpoch (s : State) (c : Nat) : State :=
  if bumpWaits s c then { s with xlt := { s.xlt with heldBumps := s.xlt.heldBumps ++ [c] } }
  else updContext s c (fun x => { x with epoch := (x.epoch + 1) % 2 ^ 32 })

/-- The oldest epoch that a live descriptor of a context carries, or the current one (R328). -/
def oldestEpoch (s : State) (c : Nat) : Nat :=
  let cur := (context s c).epoch
  (liveOf s c).foldl (fun a d => if olderEpoch d.epoch a then d.epoch else a) cur

/-! ### Bindings (R481) -/

/-- A change of a context's binding drops what is tagged with it: operand-cache lines, bitmap-cache lines, proxy copies and
microwords; fills on their way are never installed (R244, R245, R481). -/
def dropTagged (s : State) (c : Nat) : State :=
  { s with
    cores := s.cores.map (fun e => (e.1, { e.2 with
      opLines := e.2.opLines.filter (fun l => l.context != c)
      fills := e.2.fills.map (fun f => if f.line.context = c then { f with stale := true } else f)
      ucode := e.2.ucode.filter (fun w => w.2.shared || w.2.context != c) }))
    bitmaps := s.bitmaps.map (fun e => (e.1, e.2.filter (fun l => l.context != c)))
    fabric := { s.fabric with proxies := s.fabric.proxies.filter (fun p => p.2.2.1 != c) } }

/-- Change a context's binding. -/
def setBinding (s : State) (c : Nat) (b : Binding) : State :=
  { s with eloan := { s.eloan with bindings := Tab.setC Binding.unbound s.eloan.bindings c b } }

/-- Unbind a context, dropping what is tagged with it when it was bound. -/
def loseBinding (s : State) (c : Nat) (b : Binding) : State :=
  if (boundTid s c).isSome then dropTagged (setBinding s c b) c else setBinding s c b

end Sys2Proof.Machine
end

