-- ==== Sys2Proof/Machine/Fabric.lean ====
section
/-! DEFINITION. The switch and the requests of the fabric (ch. 13): packet classes and formats, the choice of an egress,
combining, requests with their resends, answers, result caches and hub sets. -/

namespace Sys2Proof.Machine

/-! ### Packet types (Table 13.4) and classes (Table 13.2) -/

def ptRdCur : Nat := 0x01
def ptRdS : Nat := 0x02
def ptWrCur : Nat := 0x03
def ptEvictS : Nat := 0x04
def ptAtomic : Nat := 0x05
def ptSyncOp : Nat := 0x06
def ptTrigger : Nat := 0x07
def ptBulkGet : Nat := 0x08
def ptData : Nat := 0x10
def ptCmp : Nat := 0x11
def ptAtomRes : Nat := 0x12
def ptSyncRes : Nat := 0x13
def ptTrigRes : Nat := 0x14
def ptNakPath : Nat := 0x15
def ptBulkDone : Nat := 0x16
def ptTableAns : Nat := 0x17
def ptInv : Nat := 0x18
def ptFwd : Nat := 0x19
def ptInvAck : Nat := 0x1A
def ptFwdAck : Nat := 0x1B
def ptFwdData : Nat := 0x1C
def ptFwdDone : Nat := 0x1D
def ptPlace : Nat := 0x20
def ptBulkData : Nat := 0x21
def ptWedge : Nat := 0x28
def ptMark : Nat := 0x29
def ptLoss : Nat := 0x2A
def ptReconcile : Nat := 0x2B
def ptReconAns : Nat := 0x2C
def ptFence : Nat := 0x2D
def ptEcho : Nat := 0x2E

/-- Operand units of an atomic: two for a CAS of 16 bytes and for a PADD (Table 13.5). -/
def atomUnits (word3 : Nat) : Nat :=
  if bits word3 0 4 = 1 ∨ (bits word3 0 4 = 10 ∧ bits word3 4 3 = 4) then 2 else 1

/-- The types of Table 13.4. -/
def knownType (t : Nat) : Bool :=
  [0x01, 0x02, 0x03, 0x04, 0x05, 0x06, 0x07, 0x08, 0x10, 0x11, 0x12, 0x13, 0x14, 0x15, 0x16, 0x17, 0x18, 0x19, 0x1A, 0x1B,
   0x1C, 0x1D, 0x20, 0x21, 0x28, 0x29, 0x2A, 0x2B, 0x2C, 0x2D, 0x2E].contains t

end Sys2Proof.Machine

namespace Sys2Proof

open Machine

/-- The class of a packet (Table 13.2); a Fence travels in the class it fences. -/
def Packet.cls (p : Packet) : Nat :=
  if p.ptype = ptFence then p.word3 % 8
  else if p.ptype < 0x10 then 0
  else if p.ptype < 0x18 then 1
  else if p.ptype < 0x1A then 2
  else if p.ptype < 0x20 then 3
  else if p.ptype < 0x28 then 4
  else 5

/-- The transfer of a bulk packet, 0 otherwise: the last part of a flow's name (R440). -/
def Packet.xfer (p : Packet) : Nat := if p.cls = 4 then p.word3 % 2 ^ 16 else 0

/-- A packet is a request, whose loss is told to its source (R440, R443). -/
def Packet.isRequest (p : Packet) : Bool := p.cls == 0 && p.ptype != ptFence

/-- Members of a combined request (R461). -/
def Packet.count (p : Packet) : Nat := if p.ptype = ptRdCur ∨ p.ptype = ptAtomic then p.word3 / 2 ^ 60 else 0

/-- An exactly-once request (R455). -/
def Packet.once (p : Packet) : Bool :=
  p.ptype == ptAtomic || p.ptype == ptTrigger || (p.ptype == ptSyncOp && bits p.word3 27 3 != 3)

/-- Length of a packet in 16-byte units. -/
def Packet.units (p : Packet) : Nat := 2 + ceilDiv p.payload.length 16

/-- A 16-byte unit of a packet's payload; unit 2 is the first. -/
def Packet.unit (p : Packet) (u : Nat) : Nat := leValue ((p.payload.drop (16 * (u - 2))).take 16)

/-- The lengths that Table 13.4 allows a packet. -/
def Packet.lengthOk (p : Packet) : Bool :=
  let n := p.units
  let m := p.count
  if p.ptype = ptRdCur then n == 2 + m && (m == 0 || (decide (2 ≤ m) && decide (m ≤ 8)))
  else if p.ptype = ptAtomic then n == 2 + atomUnits p.word3 + m && (m == 0 || (decide (2 ≤ m) && decide (m ≤ 8)))
  else if p.ptype = ptTrigger then n == 2 + ceilDiv (bits p.word3 8 9) 16 && decide (bits p.word3 8 9 ≤ 256)
  else if p.ptype = ptWrCur ∨ p.ptype = ptData ∨ p.ptype = ptFwdData then n == 6
  else if p.ptype = ptSyncOp ∨ p.ptype = ptBulkGet ∨ p.ptype = ptSyncRes ∨ p.ptype = ptPlace then n == 3
  else if p.ptype = ptAtomRes then n == 2 || n == 4
  else if p.ptype = ptFwdDone then n == (if bit p.word3 1 then 6 else 2)
  else if p.ptype = ptBulkData then decide (3 ≤ n) && decide (n ≤ 34)
  else if p.ptype = ptWedge then n == 12
  else if p.ptype = ptMark then n == 4
  else if p.ptype = ptLoss then n == 11
  else n == 2

/-- Bits of word3 that are not reserved (Tables 13.4 and 13.5). -/
def word3Mask (p : Packet) : Nat :=
  let t := p.ptype
  if t = ptRdCur then 0xF * 2 ^ 60
  else if t = ptWrCur then 2 ^ 64 - 1
  else if t = ptAtomic then 0xFF + 0xF * 2 ^ 60
  else if t = ptSyncOp then 2 ^ 64 - 1
  else if t = ptTrigger then 2 ^ 17 - 1
  else if t = ptBulkGet ∨ t = ptPlace ∨ t = ptTableAns then 2 ^ 16 - 1
  else if t = ptData then 3
  else if t = ptCmp ∨ t = ptFwdData then 1
  else if t = ptAtomRes then 2 ^ 64 - 1
  else if t = ptSyncRes then 2 ^ 8 - 1
  else if t = ptNakPath then 2 ^ 6 - 1
  else if t = ptBulkDone then 2 ^ 56 - 1
  else if t = ptFwd then 2 ^ 24 - 1
  else if t = ptFwdDone then 7
  else if t = ptBulkData then 2 ^ 58 - 1
  else if t = ptMark then 2 ^ 64 - 2 ^ 32 + 1
  else if t = ptReconcile then 2 ^ 12 - 1
  else if t = ptReconAns then 2 ^ 13 - 1
  else if t = ptFence ∨ t = ptEcho then 7
  else 0

/-- A packet obeys Tables 13.3 and 13.4 (R448). -/
def Packet.ok (p : Packet) : Bool := knownType p.ptype && p.lengthOk && (p.word3 &&& word3Mask p) == p.word3

/-! ### The header's bytes (Table 13.3) -/

/-- The 32-byte header of a packet. -/
def Packet.header (p : Packet) : List Byte :=
  leBytes 8 (p.ptype % 2 ^ 6 + p.units % 2 ^ 6 * 2 ^ 6 + p.dst % 2 ^ 10 * 2 ^ 12 + p.src % 2 ^ 12 * 2 ^ 22 +
    p.tag % 2 ^ 16 * 2 ^ 34 + p.status % 2 ^ 4 * 2 ^ 50 + p.hops % 2 ^ 4 * 2 ^ 54 + b2n p.resend * 2 ^ 58 + b2n p.nocomb * 2 ^ 59) ++
  leBytes 8 (p.addr % 2 ^ 58) ++
  leBytes 8 (p.stamp % 2 ^ 20 + p.spart % 2 ^ 4 * 2 ^ 20 + p.sepoch % 2 ^ 32 * 2 ^ 24) ++
  leBytes 8 p.word3

/-- A packet as 16-byte units. -/
def Packet.toUnits (p : Packet) : List Nat :=
  let bs := p.header ++ p.payload ++ List.replicate (16 * p.units - 32 - p.payload.length) (0 : Byte)
  (List.range p.units).map (fun u => leValue ((bs.drop (16 * u)).take 16))

/-- A packet from its units; none while units are missing or the header has a non-zero reserved field. -/
def Packet.ofUnits (us : List Nat) : Option Packet :=
  match us with
  | a :: b :: rest =>
    let w0 := bits a 0 64
    let w1 := bits a 64 64
    let w2 := bits b 0 64
    if us.length ≠ bits w0 6 6 ∨ bits w0 60 4 ≠ 0 ∨ bits w1 58 6 ≠ 0 ∨ bits w2 56 8 ≠ 0 then none
    else some { ptype := bits w0 0 6, dst := bits w0 12 10, src := bits w0 22 12, tag := bits w0 34 16, status := bits w0 50 4,
                hops := bits w0 54 4, resend := bit w0 58, nocomb := bit w0 59, addr := w1, stamp := bits w2 0 20,
                spart := bits w2 20 4, sepoch := bits w2 24 32, word3 := bits b 64 64,
                payload := rest.flatMap (fun u => leBytes 16 u) }
  | _ => none

end Sys2Proof

namespace Sys2Proof.Machine

/-! ### Where a packet goes -/

/-- The hub that carries an agent: a hub is its own, a host's is in the agent table (R442). -/
def hubOfAgent (s : State) (a : Nat) : Option Nat :=
  if a < 1024 then some a
  else
    let e := Tab.getC 0 s.fabric.agents (a - 1024)
    if bit e 15 then some (bits e 0 10) else none

/-- A link's field of an HPORT page. -/
def getL (s : State) (r : FRef) (link : Nat) : Nat := getF s (r.shift (0x80 * (link % 2))) (link / 2)

/-- Set a link's field of an HPORT page. -/
def setL (s : State) (r : FRef) (link v : Nat) : State := setF s (r.shift (0x80 * (link % 2))) (link / 2) v

/-- A host port runs as two links (R339). -/
def portSplit (s : State) (q : Nat) : Bool := Tab.getC 0 s.splits q == 1

/-- A host link exists (R339). -/
def linkExists (s : State) (l : Nat) : Bool := decide (l < 16) && (l % 2 == 0 || portSplit s (l / 2))

/-- The link of this hub that carries an agent (R342). -/
def linkOfAgent (s : State) (a : Nat) : Option Nat :=
  (List.range 16).find? (fun l => getL s F.HPORT_LINK_AGENT_valid l == 1 && getL s F.HPORT_LINK_AGENT_agent l == a)

/-- A port of the hub. -/
def port (s : State) (n : Nat) : Port := Tab.getC Port.disabled s.ports n

/-- Change a port. -/
def updPort (s : State) (n : Nat) (f : Port → Port) : State := { s with ports := Tab.upd Port.disabled s.ports n f }

/-- The hub has joined a domain. -/
def joined (s : State) : Bool := getF s F.HUB_ID_INFO_joined 0 == 1

/-- A Nelpin port is ready for packets: ACTIVE, both sides joined, and this hub not waiting for a JOIN (R429, R636, R642). -/
def portReady (s : State) (n : Nat) : Bool :=
  let p := port s n
  decide (p.state = .active) && p.partnerJoined && joined s && decide (s.startup.phase ≠ .rejoin)

/-- The paths of a route entry, in index order (Table 13.1). -/
def routePaths (e : Nat) : List Nat :=
  ((List.range (min 4 (bits e 0 3))).map (fun i => bits e (3 + 6 * i) 6)).filter (fun p => decide (p < 48))

/-- The fallback ports of a route entry. -/
def routeFallbacks (e : Nat) : List Nat := [bits e 27 6, bits e 33 6].filter (fun p => decide (p < 48))

/-- The port that R440 chooses for a flow now: its path, the next ready path in cyclic order, the first ready fallback. -/
def choosePort (s : State) (cls dst xfer : Nat) : Option Nat :=
  let e := Tab.getC 0 s.fabric.routes dst
  let ps := routePaths e
  let n := ps.length
  let i := if n = 0 then 0 else (hubId s + 3 * dst + (if cls = 4 then xfer else 0)) % n
  ((ps.drop i ++ ps.take i) ++ routeFallbacks e).find? (portReady s)

/-! ### Bandwidth (R607) -/

/-- The key of a port and direction of a die's bandwidth unit. -/
def bwKey (d u dir : Nat) : Nat := d * 128 + u * 2 + dir

/-- Bytes cross a measured port. -/
def bwBytes (s : State) (d u dir n : Nat) : State :=
  { s with tally := { s.tally with bw := Tab.upd BwPort.empty s.tally.bw (bwKey d u dir) (fun b => { b with bytes := b.bytes + n }) } }

/-- Bytes of a packet cross the switch port of a partition; dir 0 leaves the switch toward it. -/
def bwPart (s : State) (p dir n : Nat) : State := bwBytes s (dieOf p) (24 + p % 6) dir n

/-- Payload bytes cross a host link; dir 0 goes toward the host. -/
def bwHost (s : State) (link dir n : Nat) : State := bwBytes s (link / 8) (32 + link % 8) dir n

/-- The unit of the switch that sends or takes a packet of this hub: die and port number of Table 17.7's kind (R442, R607). -/
def unitOf (s : State) (p : Packet) (part : Nat) : Nat × Nat :=
  if part < 12 then (part / 6, 24 + part % 6)
  else if isHost p.addr then (0, 31)
  else match homePart s (paOff p.addr) with
    | some h => (h / 6, 30)
    | none => (0, 30)

/-- The partition whose switch port takes a packet addressed to this hub; 15 for a die (R442). -/
def portPart (s : State) (p : Packet) : Nat :=
  if p.ptype = ptSyncOp then bits p.word3 13 4
  else if p.ptype = ptTrigger then p.word3 % 256 % 12
  else if p.cls = 1 then (match s.fabric.requests.find? (fun r => r.packet.tag == p.tag) with | some r => r.packet.spart | none => 15)
  else if p.ptype = ptRdS ∨ p.ptype = ptEvictS ∨ p.cls = 2 ∨ p.cls = 3 ∨ p.cls = 5 ∨ isHost p.addr = true then 15
  else (homePart s (paOff p.addr)).getD 15

/-- A packet crosses the switch port of its unit; dir 0 leaves the switch. -/
def crossUnit (s : State) (p : Packet) (part dir : Nat) : State :=
  let u := unitOf s p part
  bwBytes s u.1 u.2 dir (16 * p.units)

/-! ### Combining (R459 to R461) -/

/-- A member unit of a combined packet. -/
def memberUnit (p : Packet) (pre : Nat) : Nat :=
  p.src % 2 ^ 12 + p.tag % 2 ^ 16 * 2 ^ 12 + p.spart % 2 ^ 4 * 2 ^ 28 + p.sepoch % 2 ^ 32 * 2 ^ 32 + pre % 2 ^ 64 * 2 ^ 64

/-- Bits of an atomic's target. -/
def atomBits (width : Nat) : Nat := 8 * 2 ^ width

/-- Two operands of a combinable operation into one (R460); the same function gives f(v, prefix) at the answer (R461). -/
def combineVal (op width a b : Nat) : Nat :=
  let w := atomBits width
  match op with
  | 0 => (a + b) % 2 ^ w
  | 1 => ((Partial.decode a).add (Partial.decode b)).encode
  | 2 => if signed w a ≤ signed w b then a % 2 ^ w else b % 2 ^ w
  | 3 => if signed w a < signed w b then b % 2 ^ w else a % 2 ^ w
  | 4 => if a % 2 ^ w ≤ b % 2 ^ w then a % 2 ^ w else b % 2 ^ w
  | 5 => if a % 2 ^ w < b % 2 ^ w then b % 2 ^ w else a % 2 ^ w
  | 6 => (a &&& b) % 2 ^ w
  | 7 => (a ||| b) % 2 ^ w
  | _ => a

/-- The identity of a combinable operation (R461). -/
def combineId (op width : Nat) : Nat :=
  let w := atomBits width
  match op with
  | 2 => 2 ^ (w - 1) - 1
  | 3 => 2 ^ (w - 1)
  | 4 | 6 => 2 ^ w - 1
  | _ => 0

/-- An atomic can combine at all (Table 13.6). -/
def combinable (p : Packet) : Bool :=
  let op := bits p.word3 0 4
  let w := bits p.word3 4 3
  let fetch := bit p.word3 7
  if op = 1 then !fetch && w == 5
  else (op == 0 || (decide (2 ≤ op) && decide (op ≤ 7))) && (w == 2 || w == 3)

/-- The operand of an atomic packet as a number. -/
def atomOperand (p : Packet) : Nat := leValue (p.payload.take (16 * atomUnits p.word3))

/-- How many original requests a packet stands for. -/
def weight (p : Packet) : Nat := if p.count = 0 then 1 else p.count

/-- Two packets may combine (R459, R460), queues and times apart. -/
def mayCombine (s : State) (slice : Nat) (a b : Packet) : Bool :=
  a.dst == b.dst && a.addr == b.addr && a.ptype == b.ptype && !a.nocomb && !b.nocomb && decide (weight a + weight b ≤ 8) &&
  (if a.ptype = ptRdCur then getF s F.NFAB_CTRL_comb_rd slice == 1 && !isHost a.addr
   else if a.ptype = ptAtomic then
     getF s F.NFAB_CTRL_comb_at slice == 1 && combinable a && bits a.word3 0 8 == bits b.word3 0 8 &&
     (bits a.word3 0 4 != 1 || (Partial.decode (atomOperand a)).anchor == (Partial.decode (atomOperand b)).anchor)
   else false)

/-- The members a packet brings into a combination, each with the prefix it carries: itself, or its own members. -/
def bring (p : Packet) : List (Nat × Nat) :=
  if p.count = 0 then [(memberUnit p 0 % 2 ^ 64, if p.ptype = ptAtomic then combineId (bits p.word3 0 4) (bits p.word3 4 3) else 0)]
  else (List.range p.count).map (fun j =>
    let u := p.unit (2 + (if p.ptype = ptAtomic then atomUnits p.word3 else 0) + j)
    (u % 2 ^ 64, u / 2 ^ 64))

/-- The combined packet of a list of packets in arrival order, with the prefix of each (R460, R461). -/
def combinePackets (hub tag : Nat) (ps : List Packet) : Packet × List (Packet × Nat) :=
  match ps with
  | [] => ({ ptype := 0, dst := 0, src := 0, tag := 0, status := 0, hops := 0, resend := false, nocomb := false, addr := 0,
             stamp := 0, spart := 15, sepoch := 0, word3 := 0, payload := [] }, [])
  | p :: _ =>
    let op := bits p.word3 0 4
    let w := bits p.word3 4 3
    let fetch := bit p.word3 7
    let atomicP : Bool := p.ptype == ptAtomic
    let r := ps.foldl (fun (acc : Nat × List (Packet × Nat) × List Nat) q =>
      let pre := acc.1
      let here := if fetch then pre else 0
      let us := (bring q).map (fun m => m.1 + (if fetch then combineVal op w pre m.2 % 2 ^ 64 else 0) * 2 ^ 64)
      (if atomicP && op != 1 then combineVal op w pre (atomOperand q) else pre, acc.2.1 ++ [(q, here)], acc.2.2 ++ us))
      (combineId op w, [], [])
    let order := (bring p).length
    let sumOp :=
      if op = 1 then
        -- R460: the record sum in ascending order of member agent ID and then tag
        let sorted := ps.mergeSort (fun x y => decide (x.src * 2 ^ 16 + x.tag ≤ y.src * 2 ^ 16 + y.tag))
        match sorted with
        | [] => 0
        | x :: xs => xs.foldl (fun a y => combineVal 1 5 a (atomOperand y)) (atomOperand x)
      else r.1
    let nu := if atomicP then atomUnits p.word3 else 0
    let m := r.2.2.length
    ({ p with src := hub, tag := tag, spart := 15, word3 := p.word3 % 2 ^ 60 + m * 2 ^ 60,
              payload := (if atomicP then leBytes (16 * nu) sumOp else []) ++ r.2.2.flatMap (fun u => leBytes 16 u) },
     if order = 0 then [] else r.2.1)

/-! ### Requests (R454) -/

/-- The stamp of a packet sent now (R471). -/
def stampNow (s : State) : Nat := s.fabric.dtime / 1000 % 2 ^ 20

/-- The epoch of a source partition, or of the hub (Table 13.3). -/
def epochOf (s : State) (part : Nat) : Nat := if part = 15 then s.ras.hubEpoch else (partition s part).epoch

/-- A packet of this hub's own. -/
def mkPacket (s : State) (ptype dst tag addr word3 part : Nat) (payload : List Byte) : Packet :=
  { ptype := ptype, dst := dst, src := hubId s, tag := tag, status := 0, hops := 0, resend := false, nocomb := false,
    addr := addr, stamp := stampNow s, spart := part, sepoch := epochOf s part, word3 := word3, payload := payload }

/-- The next tag that no open request uses. -/
def freshTag (s : State) : Nat :=
  match (List.range 65536).find? (fun i => !s.fabric.requests.any (fun r => r.packet.tag == (s.fabric.nextTag + i) % 2 ^ 16)) with
  | some i => (s.fabric.nextTag + i) % 2 ^ 16
  | none => s.fabric.nextTag % 2 ^ 16

/-- The NFAB page instance of a port's slice. -/
def sliceOf (n : Nat) : Nat := if n < 24 then 0 else 1

/-- Change the fabric. -/
def updFabric (s : State) (f : Fabric → Fabric) : State := { s with fabric := f s.fabric }

/-- The key of an egress queue: port and class. -/
def egressKey (n cls : Nat) : Nat := n * 8 + cls

/-- The packet that tells a source its request was dropped (R440): to another hub, or a note on this hub's own request. -/
def markDropped (s : State) (p : Packet) : State :=
  updFabric s (fun f => { f with requests := f.requests.map (fun r =>
    if r.packet.tag = p.tag ∧ r.packet.ptype = p.ptype ∧ r.packet.dst = p.dst then { r with again := true, againAt := s.now, refused := r.refused + 1 }
    else r) })

/-- Join an egress queue, combining with a packet already there when R459 and R460 allow it. -/
def enqueue (s : State) (n : Nat) (p : Packet) : State :=
  let k := egressKey n p.cls
  let q := Tab.getC [] s.fabric.egress k
  let behind := fun (i : Nat) => (q.drop (i + 1)).any (fun e => e.packet.dst == p.dst)
  match (List.range q.length).find? (fun i =>
      match q[i]? with
      | some e => mayCombine s (sliceOf n) e.packet p && decide (s.now ≤ e.arrived + 128) && !behind i
      | none => false) with
  | some i =>
    match q[i]? with
    | none => s
    | some e =>
      let tag := if e.members.isEmpty then freshTag s else e.packet.tag
      let ps := (if e.members.isEmpty then [e.packet] else e.members.map Prod.fst) ++ [p]
      let c := combinePackets (hubId s) tag ps
      let pk := { c.1 with sepoch := epochOf s 15, stamp := stampNow s, hops := 0 }
      let rec_ : Request := { packet := pk, purpose := .combined, firstSend := s.now, lastSend := s.now, sends := 1, refused := 0,
                              again := false, againAt := 0, parked := false, members := c.2 }
      let s1 := updFabric s (fun f => { f with
        egress := Tab.setC [] f.egress k (setNth q i { packet := pk, arrived := e.arrived, members := c.2 })
        requests := if e.members.isEmpty then f.requests ++ [rec_]
                    else f.requests.map (fun r => if r.packet.tag = tag then rec_ else r)
        nextTag := if e.members.isEmpty then (tag + 1) % 2 ^ 16 else f.nextTag })
      let added := if e.members.isEmpty then 2 else 1
      if p.ptype = ptRdCur then addSatF s1 F.NFAB_COMB_reads (sliceOf n) added else addSatF s1 F.NFAB_COMB_atomics (sliceOf n) added
  | none =>
    updFabric s (fun f => { f with egress := Tab.setC [] f.egress k (q ++ [{ packet := p, arrived := s.now, members := [] }]) })

/-- A discarded packet's source is told, when the packet is a request (R440, R443, R464). -/
def dropNak (s : State) (slice : Nat) (p : Packet) : Option Packet × State :=
  if !p.isRequest then (none, s)
  else
    let s1 := addSatF s F.NFAB_RECON_nak_path slice 1
    match hubOfAgent s p.src with
    | none => (none, s1)
    | some h =>
      if h = hubId s then (none, markDropped s1 p)
      else (some { mkPacket s ptNakPath h p.tag 0 p.ptype 15 [] with stamp := p.stamp }, s1)

/-- A flow matches a packet (R440). -/
def Flow.matches (f : Flow) (p : Packet) : Bool := f.cls == p.cls && f.dst == p.dst && f.xfer == p.xfer

/-- A flow's port is in RETRAIN and holds a packet of the flow, which then waits for the port (R465). -/
def staysOn (s : State) (n : Nat) (p : Packet) : Bool :=
  decide ((port s n).state = .retrain) &&
    ((port s n).inFlight.any (fun e => e.2.cls == p.cls && e.2.dst == p.dst && e.2.xfer == p.xfer) ||
      (Tab.getC [] s.fabric.egress (egressKey n p.cls)).any (fun e => e.packet.dst == p.dst && e.packet.xfer == p.xfer))

/-- Choose an egress for a packet and queue it (R440, R441, R465); `none` when nothing is ready. A flow keeps its egress
while that port is ready or in RETRAIN, and holds its packets behind a fence. -/
def place (s : State) (p : Packet) : Option State :=
  match s.fabric.flows.find? (fun f => f.matches p) with
  | some f =>
    if f.fenced.isSome ∧ p.ptype ≠ ptFence then
      some (updFabric s (fun x => { x with flows := x.flows.map (fun g => if g.matches p then { g with held := g.held ++ [p] } else g) }))
    else if portReady s f.egress || staysOn s f.egress p then some (enqueue s f.egress p)
    else (choosePort s p.cls p.dst p.xfer).map (fun n =>
      enqueue (updFabric s (fun x => { x with flows := x.flows.map (fun g => if g.matches p then { g with egress := n } else g) })) n p)
  | none => (choosePort s p.cls p.dst p.xfer).map (fun n =>
      enqueue (updFabric s (fun x => { x with
        flows := x.flows ++ [{ cls := p.cls, dst := p.dst, xfer := p.xfer, egress := n, fenced := none, held := [] }] })) n p)

/-- A packet for which nothing is ready: counted, told to its source (R440). -/
def unreachable (s : State) (p : Packet) : State :=
  let s1 := raise (addSatF s F.NFAB_DROP_unreachable 0 1) 50 0
  match dropNak s1 0 p with
  | (some q, s2) => (place s2 q).getD s2
  | (none, s2) => s2

/-- Route a packet that is in the switch (R440). -/
def route (s : State) (p : Packet) : State := (place s p).getD (unreachable s p)

/-- Send a packet of this hub (R440). -/
def send (s : State) (p : Packet) : State := route (crossUnit s p p.spart 1) p

/-- Hold a flow's packets behind a mark (R441, R463). -/
def holdFlow (s : State) (p : Packet) (m : Nat) : State :=
  updFabric s (fun f => { f with flows := f.flows.map (fun g => if g.matches p then { g with fenced := some m } else g) })

/-- The flows that a mark holds go on: each takes the egress that R440 chooses now, and what it held follows in order. -/
def freeFlows (s : State) (m : Nat) : State :=
  let hit := s.fabric.flows.filter (fun g => g.fenced == some m)
  let s1 := updFabric s (fun f => { f with flows := f.flows.filter (fun g => g.fenced != some m) })
  (hit.flatMap Flow.held).foldl route s1

/-- A commit of the route table (R441): a flow whose egress would change sends a Fence along its old egress and holds what
comes later; a flow whose egress is no longer ready moves at once. -/
def reroute (s : State) : State :=
  s.fabric.flows.foldl (fun a f =>
    if f.fenced.isSome then a
    else match choosePort a f.cls f.dst f.xfer with
      | none => a
      | some n =>
        if n = f.egress then a
        else
          let p : Packet := { mkPacket a ptFence f.dst (freshTag a) 0 f.cls 15 [] with addr := 0 }
          let same (g : Flow) : Bool := g.cls == f.cls && g.dst == f.dst && g.xfer == f.xfer
          if portReady a f.egress || decide ((port a f.egress).state = .retrain) then
            enqueue (updFabric a (fun x => { x with
              nextTag := (p.tag + 1) % 2 ^ 16
              flows := x.flows.map (fun g => if same g then { g with fenced := some p.tag } else g) })) f.egress p
          else updFabric a (fun x => { x with flows := x.flows.filter (fun g => !same g) })) s

/-- Age of an exactly-once request (R456): 250 µs or more. -/
def stale (s : State) (p : Packet) : Bool := p.once && decide (250 ≤ (stampNow s + 2 ^ 20 - p.stamp) % 2 ^ 20)

/-- A packet in transit (R443, R456). -/
def transit (s : State) (p : Packet) : State :=
  if stale s p then raise (addSatF s F.NFAB_DROP_stale 0 1) 50 6
  else if 15 ≤ p.hops + 1 then
    let s1 := raise (addSatF s F.NFAB_DROP_hop_limit 0 1) 50 1
    match dropNak s1 0 p with
    | (some q, s2) => route s2 q
    | (none, s2) => s2
  else route s { p with hops := p.hops + 1 }

/-- Open a request: a tag, a record, its first send. Answers the tag. -/
def request (s : State) (mk : Nat → Packet) (why : ReqFor) : State × Nat :=
  let t := freshTag s
  let p := mk t
  let r : Request := { packet := p, purpose := why, firstSend := s.now, lastSend := s.now, sends := 1, refused := 0,
                       again := false, againAt := 0, parked := false, members := [] }
  (send (updFabric s (fun f => { f with requests := f.requests ++ [r], nextTag := (t + 1) % 2 ^ 16 })) p, t)

/-- The open request that a tag names. -/
def findRequest (s : State) (tag : Nat) : Option Request := s.fabric.requests.find? (fun r => r.packet.tag == tag)

/-- Close the request that a tag names (R458). -/
def closeRequest (s : State) (tag : Nat) : State :=
  updFabric s (fun f => { f with requests := f.requests.filter (fun r => r.packet.tag != tag) })

/-! ### Answers and result caches (R455) -/

/-- An answer of this hub to a packet's source, in the packet's own tag. -/
def answerOf (s : State) (p : Packet) (ptype status word3 : Nat) (payload : List Byte) : Option Packet :=
  let part := if partUp s (portPart s p) then portPart s p else 15
  (hubOfAgent s p.src).map (fun h => { mkPacket s ptype h p.tag p.addr word3 part payload with status := status })

/-- Send an answer. -/
def answer (s : State) (p : Packet) (ptype status word3 : Nat) (payload : List Byte) : State :=
  match answerOf s p ptype status word3 payload with
  | some q => send s q
  | none => s

/-- Results a partition's cache holds (R29). -/
def rcSize : Nat := 8192

/-- The results of a partition. -/
def resultsOf (s : State) (p : Nat) : List Stored := Tab.getC [] s.fabric.results p

/-- The result stored for a requester and tag. -/
def storedResult (s : State) (part agent tag : Nat) : Option Packet :=
  ((resultsOf s part).find? (fun r => r.agent == agent && r.tag == tag)).map Stored.packet

/-- The entry of a key has failed its check: no request of that key is answered (Table 15.2). -/
def resultDead (s : State) (part agent tag : Nat) : Bool :=
  (resultsOf s part).any (fun r => r.agent == agent && r.tag == tag && r.dead)

/-- Enter a result, or replace the one stored under its key. -/
def enterResult (s : State) (part agent tag : Nat) (q : Packet) : State :=
  let l := (resultsOf s part).filter (fun r => !(r.agent == agent && r.tag == tag))
  let l2 := l ++ [{ agent := agent, tag := tag, packet := q, entered := s.now, dead := resultDead s part agent tag }]
  updFabric s (fun f => { f with
    results := Tab.setC [] f.results part l2
    rcHigh := Tab.setC 0 f.rcHigh part (max (Tab.getC 0 f.rcHigh part) l2.length) })

/-- A source that this hub no longer listens to, or an old epoch of it (R449, R525, R527). -/
def epochKey (hub part : Nat) : Nat := hub * 16 + part

/-- A packet of an old epoch: its request is discarded (R449). -/
def oldEpoch (s : State) (p : Packet) : Bool :=
  match Tab.find? s.fabric.epochs (epochKey p.src p.spart) with
  | some e => decide (p.src < 1024) && olderEpoch p.sepoch e
  | none => false

/-- A delivered packet whose epoch is newer raises the epoch table (R525). -/
def raiseEpoch (s : State) (p : Packet) : State :=
  if 1024 ≤ p.src then s
  else match Tab.find? s.fabric.epochs (epochKey p.src p.spart) with
    | some e => if olderEpoch e p.sepoch then
        updFabric s (fun f => { f with epochs := Tab.insert f.epochs (epochKey p.src p.spart) p.sepoch }) else s
    | none => updFabric s (fun f => { f with epochs := Tab.insert f.epochs (epochKey p.src p.spart) p.sepoch })

/-- What a hub does with a packet before it delivers it (R448, R449, R456, R525, R527): none when it discards it. -/
def admitPacket (s : State) (p : Packet) (ptype : Nat) : Option State × State :=
  if !p.ok ∨ p.ptype ≠ ptype then
    (none, fault (addSatF s F.NFAB_DROP_bad 0 1) { cls := 2, cause := 0x0015, page := 50, agent := p.src })
  else if p.src < 1024 ∧ s.fabric.lostHubs.contains p.src then (none, s)
  else if p.isRequest ∧ (oldEpoch s p ∨ stale s p) then (none, raise (addSatF s F.NFAB_DROP_stale 0 1) 50 6)
  else (some (raiseEpoch s p), s)

/-- A packet leaves the switch for its unit: it is no longer in the switch, and its source has been heard. -/
def takeIn (s : State) (p : Packet) : State :=
  let s1 := match takeFirst (fun e => decide (e.2.2 = p)) s.fabric.incoming with
    | some (_, rest) => updFabric s (fun f => { f with incoming := rest })
    | none => s
  crossUnit (updFabric s1 (fun f => { f with heard := if p.src < 1024 then Tab.insert f.heard p.src s.now else f.heard })) p (portPart s p) 0

/-- Deliver a packet of a type to its meaning, or discard it. -/
def delivered (s : State) (p : Packet) (ptype : Nat) (f : State → State) : State :=
  match admitPacket (takeIn s p) p ptype with
  | (some s1, _) => f s1
  | (none, s1) => s1

/-! ### Hub sets (R468) -/

/-- The hubs of a 128-byte set. -/
def setHubs (bs : List Byte) : List Nat :=
  (List.range 1024).filter (fun h => bit (nth 0 bs (h / 8)).toNat (h % 8))

/-- A set as 128 bytes. -/
def hubsSet (hs : List Nat) : List Byte :=
  (List.range 128).map (fun i => BitVec.ofNat 8 (((List.range 8).map (fun j => if hs.contains (8 * i + j) then 2 ^ j else 0)).sum))

/-- Send one copy per egress port that R440 chooses, each with its group's hubs (R468); `at_` is the unit of the set. -/
def spread (s : State) (p : Packet) (at_ : Nat) (hs : List Nat) : State :=
  let others := hs.filter (fun h => h != hubId s)
  let ports := (others.map (fun h => choosePort s 5 h 0)).eraseDups
  ports.foldl (fun a o =>
    let g := others.filter (fun h => decide (choosePort s 5 h 0 = o))
    match o, g with
    | some n, h :: _ =>
      enqueue a n { p with dst := h, payload := p.payload.take (16 * (at_ - 2)) ++ hubsSet g }
    | _, _ => raise (addSatF a F.NFAB_DROP_unreachable 0 1) 50 0) s

/-- The hub set of a job: slot 0's for the domain, the valid slot of the job, else this hub alone (R466, R467). -/
def jobHubs (s : State) (job : Nat) : List Nat :=
  match (s.fabric.jobs.drop 1).find? (fun j => j.valid && j.job == job) with
  | some j => (List.range 1024).filter (fun h => bit j.hubs h)
  | none => [hubId s]

/-- The domain's hub set (R466). -/
def domainHubs (s : State) : List Nat :=
  match s.fabric.jobs with
  | j :: _ => (List.range 1024).filter (fun h => bit j.hubs h)
  | [] => [hubId s]

end Sys2Proof.Machine
end

