-- ==== Sys2Proof/Machine/EngineBase.lean ====
section
/-! DEFINITION. Threads, cores and the commands that engines hold (ch. 3): accessors, and what a command that carries out
one word knows of itself. -/

namespace Sys2Proof.Machine

/-! ### Threads and cores -/

/-- The key of a thread context. -/
def thrKey (core ctx : Nat) : Nat := core * 64 + ctx

/-- A thread context. -/
def thread (s : State) (core ctx : Nat) : Thread := Tab.getC Thread.empty s.threads (thrKey core ctx)

/-- Change a thread context. -/
def updThread (s : State) (core ctx : Nat) (f : Thread → Thread) : State :=
  { s with threads := Tab.upd Thread.empty s.threads (thrKey core ctx) f }

/-- A core. -/
def coreOf (s : State) (core : Nat) : Core := Tab.getC Core.empty s.cores core

/-- Change a core. -/
def updCore (s : State) (core : Nat) (f : Core → Core) : State := { s with cores := Tab.upd Core.empty s.cores core f }

/-- The engine of a unit code 1 to 4 (Table 3.6). -/
def engineOf (s : State) (core unit : Nat) : Engine := nth Engine.idle (coreOf s core).engines (unit - 1)

/-- Change an engine. -/
def updEngine (s : State) (core unit : Nat) (f : Engine → Engine) : State :=
  updCore s core (fun c => { c with engines := setNth c.engines (unit - 1) (f (nth Engine.idle c.engines (unit - 1))) })

/-- A command that an engine holds, by its number. -/
def heldCmd (s : State) (core unit seq : Nat) : Option Held := (engineOf s core unit).held.find? (fun h => h.seq == seq)

/-- Change a held command. -/
def updHeld (s : State) (core unit seq : Nat) (f : Held → Held) : State :=
  updEngine s core unit (fun e => { e with held := e.held.map (fun h => if h.seq = seq then f h else h) })

/-- A stream. -/
def streamOf (s : State) (h : Nat) : Option Stream := Tab.find? s.tick.streams h

/-- The stream asks for results that no combining touches (R555). -/
def deterministic (s : State) (h : Nat) : Bool := ((streamOf s h).map (fun x => x.budget.deterministic)).getD false

/-- Change a stream that is admitted. -/
def updStream (s : State) (h : Nat) (f : Stream → Stream) : State :=
  match streamOf s h with
  | none => s
  | some x => { s with tick := { s.tick with streams := Tab.insert s.tick.streams h (f x) } }

/-- Change the run of a stream that runs. -/
def updRun (s : State) (h : Nat) (f : StreamRun → StreamRun) : State :=
  updStream s h (fun x => { x with run := x.run.map f })

/-- The address context of a stream. -/
def streamCtx (s : State) (h : Nat) : Nat := match streamOf s h with | some x => x.budget.context | none => 0

/-- The tick number of a stream's run, or the current one. -/
def runTick (s : State) (h : Nat) : Nat :=
  match streamOf s h with
  | some x => (match x.run with | some r => r.tick | none => tickNumber s)
  | none => tickNumber s

/-! ### Pages of a core (Table 16.1) -/

/-- The TE, VE, SE and CORE pages of a core. -/
def corePage (core : Nat) : Nat := F.CORE_WDOG_default_bound.page + core
/-- The page of an engine: TE, VE, SE; the ME reports on none of its own. -/
def enginePage (core unit : Nat) : Nat :=
  match unit with
  | 1 => F.TE_ERR_code.page + core
  | 2 => F.VE_ERR_code.page + core
  | 3 => F.SE_ERR_code.page + core
  | _ => corePage core

/-- The key under which remote lines are kept for the command that reads them; unit 0 is a thread's fetch. -/
def readerKey (core unit seq : Nat) : Nat := core + 384 * (unit + 5 * seq)

/-! ### Fields of a command word -/

/-- Bits of a word. -/
def wordUnit (w : Nat) : Nat := bits w 0 4
/-- Operation code. -/
def wordOp (w : Nat) : Nat := bits w 4 8

end Sys2Proof.Machine
end

