-- ==== Sys2Proof/Machine/Tally.lean ====
section
/-! DEFINITION. Tally (ch. 17): events and their counters, tagged sampling and bandwidth. -/

namespace Sys2Proof.Machine

/-- The TALLY page of a partition, from the kind's first page. -/
def tallyPage (p : Nat) : Nat := F.TALLY_CTRL_snap.page + p

/-- An event as it arises (Table 17.1): partition, code, qual, count, the TIDs it is attributed to, its master (0 TE, 1 VE,
2 SE, 3 ME, 4 host, 5 hub), core within the partition, agent and physical address. -/
structure TEvent where
  part : Nat
  code : Nat
  qual : Nat := 0
  n : Nat := 1
  tids : List Nat := []
  master : Option Nat := none
  core : Option Nat := none
  agent : Option Nat := none
  addr : Option Nat := none
  /-- For bytes of a compressed transfer: the TID of the data's key ID and the uncompressed length (R600). -/
  raw : Option (Nat × Nat) := none
  deriving DecidableEq, Repr

/-- Events whose qual selects within them (Table 17.1). -/
def qualified (code : Nat) : Bool := [0x06, 0x08, 0x20, 0x21, 0x23].contains code

/-- qual matches (R594): 0 matches any unit or cause, but for TLB_MISS, whose two values are its two events. -/
def qualMatches (code want have_ : Nat) : Bool :=
  if !qualified code then want == 0
  else if code = 0x08 then want == have_ else want == 0 || want == have_

/-- A field of counter n's configuration. -/
def cfgF (s : State) (part n : Nat) (r : FRef) : Nat := getF s (r.shift (8 * n)) part

/-- A physical address lies in address filter k of a partition (R599). -/
def inFilter (s : State) (part k pa : Nat) : Bool :=
  decide (getF s (F.TALLY_AFk_BASE_addr.shift (16 * k)) part ≤ pa / 64) &&
    decide (pa / 64 ≤ getF s (F.TALLY_AFk_LIMIT_addr.shift (16 * k)) part)

/-- A counter counts an event (R594 to R598). -/
def counts (s : State) (n : Nat) (e : TEvent) : Bool :=
  let tid := cfgF s e.part n F.TALLY_CFGn_tid
  let coreEn := cfgF s e.part n F.TALLY_CFGn_core_en == 1
  let agentEn := cfgF s e.part n F.TALLY_CFGn_agent_en == 1
  let af := cfgF s e.part n F.TALLY_CFGn_afilt
  let tids := if e.tids.isEmpty then [0] else e.tids
  cfgF s e.part n F.TALLY_CFGn_en == 1 && cfgF s e.part n F.TALLY_CFGn_event == e.code &&
  qualMatches e.code (cfgF s e.part n F.TALLY_CFGn_qual) e.qual &&
  (if tid = 0 then (!(coreEn || agentEn || af != 0) || tids.all (fun t => t == 0)) else tids.contains tid) &&
  (match e.master with | none => true | some m => bit (cfgF s e.part n F.TALLY_CFGn_masters) m) &&
  (!coreEn || (match e.core with | some c => c == cfgF s e.part n F.TALLY_CFGn_core | none => false)) &&
  (!agentEn || (match e.agent with | some a => a == cfgF s e.part n F.TALLY_CFGn_agent | none => false)) &&
  (af == 0 || (match e.addr with | some pa => inFilter s e.part (af - 1) pa | none => false))

/-- Advance a counter (R593): it wraps and sets ovf, which interrupts for a counter of TID 0 (R601). -/
def advance (s : State) (part n by_ : Nat) : State :=
  let old := getF s (F.TALLY_CNTn_value.shift (8 * n)) part
  let s1 := setF s (F.TALLY_CNTn_value.shift (8 * n)) part (old + by_)
  if old + by_ < 2 ^ 64 then s1
  else
    let s2 := setF s1 (F.TALLY_CFGn_ovf.shift (8 * n)) part 1
    if cfgF s part n F.TALLY_CFGn_tid = 0 then raise s2 (tallyPage part) 0 else s2

/-- What an event adds to a counter: a raw counter of the data's own tenant counts uncompressed bytes (R600). -/
def amountFor (s : State) (n : Nat) (e : TEvent) : Nat :=
  match e.raw with
  | some (t, len) => if cfgF s e.part n F.TALLY_CFGn_raw = 1 ∧ cfgF s e.part n F.TALLY_CFGn_tid = t then len else e.n
  | none => e.n

/-- An event arises. A partition that is not up produces none (R592). -/
def tally (s : State) (e : TEvent) : State :=
  if !partUp s e.part then s
  else (List.range 64).foldl (fun a n => if counts a n e then advance a e.part n (amountFor a n e) else a) s

/-- Zero a counter for a new owner (R596). -/
def clearCounter (s : State) (part n : Nat) : State :=
  setF (setF (setF (setF s (F.TALLY_CNTn_value.shift (8 * n)) part 0) (F.TALLY_SNAPn_value.shift (8 * n)) part 0)
    (F.TALLY_CFGn_ovf.shift (8 * n)) part 0) (F.TALLY_CFGn_en.shift (8 * n)) part 0

/-- A snapshot of every counter of a unit (R602). -/
def snapshotAll (s : State) (part : Nat) : State :=
  (List.range 64).foldl (fun a n => setF a (F.TALLY_SNAPn_value.shift (8 * n)) part (getF a (F.TALLY_CNTn_value.shift (8 * n)) part)) s

/-! ### Tagged sampling (R604 to R606) -/

/-- The sampler of a partition. -/
def sampler (s : State) (p : Nat) : Sampler := Tab.getC Sampler.idle s.tally.samplers p

/-- Change the sampler of a partition. -/
def updSampler (s : State) (p : Nat) (f : Sampler → Sampler) : State :=
  { s with tally := { s.tally with samplers := Tab.upd Sampler.idle s.tally.samplers p f } }

/-- One step of the 32-bit LFSR of x^32 + x^22 + x^2 + x + 1. -/
def lfsrStep (l : Nat) : Nat := l * 2 % 2 ^ 32 + b2n (bit l 31 != (bit l 21 != (bit l 1 != bit l 0)))

/-- The countdown a load takes (R604), and the LFSR after it. -/
def reload (s : State) (p : Nat) : State :=
  updSampler s p (fun x =>
    { x with lfsr := lfsrStep x.lfsr
             countdown := getF s F.TALLY_SAMP_CTRL_period p + x.lfsr % 2 ^ getF s F.TALLY_SAMP_CTRL_jitter p })

/-- One tag or record is lost. -/
def loseSample (s : State) (p : Nat) : State := raise (addSatF s F.TALLY_SAMP_STATUS_lost p 1) (tallyPage p) 2

/-- An engine pops a command of a tenant (R604): an eligible pop counts down, and the one that reaches 0 is tagged. -/
def samplePopped (s : State) (core unit seq tid : Nat) (e : QueueEntry) : State :=
  let p := partOfCore core
  if getF s F.TALLY_SAMP_CTRL_en p = 1 ∧ bit (getF s F.TALLY_SAMP_CTRL_units p) (unit - 1) = true ∧ getF s F.TALLY_SAMP_CTRL_tid p = tid then
    let x := sampler s p
    if x.countdown ≤ 1 then
      if 8 ≤ x.inFlight.length then reload (loseSample s p) p
      else reload (updSampler s p (fun x => { x with inFlight := x.inFlight ++
        [{ core := core, unit := unit, seq := seq, tPush := e.phase, tPop := e.phase + (s.now - e.pushed), tFirst := none,
           tLast := e.phase + (s.now - e.pushed), bytesRead := 0, bytesWritten := 0 }] })) p
    else updSampler s p (fun x => { x with countdown := x.countdown - 1 })
  else s

/-- A tagged command makes memory accesses: bytes read and written. -/
def sampleAccess (s : State) (core unit seq rd wr : Nat) (e : QueueEntry) : State :=
  if rd + wr = 0 then s
  else updSampler s (partOfCore core) (fun x => { x with inFlight := x.inFlight.map (fun t =>
    if t.core = core ∧ t.unit = unit ∧ t.seq = seq then
      { t with tFirst := some (t.tFirst.getD (e.phase + (s.now - e.pushed))), tLast := e.phase + (s.now - e.pushed),
               bytesRead := t.bytesRead + rd, bytesWritten := t.bytesWritten + wr }
    else t) })

/-- The signed index of a command in the list named by its path (R120). -/
def commandIndex (s : State) (core ctx pc : Nat) : Int :=
  let th := thread s core ctx
  match streamOf s th.handle with
  | none => 0
  | some x => ((pc : Int) - (if th.path then x.budget.cheaper else x.budget.primary)) / 32

/-- A tagged command ends: its record of Table 17.3, or its loss when the buffer is full (R605, R606). Status 0 completed,
1 engine error, 2 watchdog, 3 aborted. -/
def sampleDone (s : State) (core unit : Nat) (h : Held) (status : Nat) : State :=
  let p := partOfCore core
  match (sampler s p).inFlight.find? (fun t => t.core == core && t.unit == unit && t.seq == h.seq) with
  | none => s
  | some t =>
    let s1 := updSampler s p (fun x => { x with inFlight := x.inFlight.filter (fun u => decide (u ≠ t)) })
    if 512 ≤ (sampler s1 p).records.length then loseSample s1 p
    else
      let th := thread s core h.ctx
      let recovered := match streamOf s h.handle with | some x => (match x.run with | some r => r.recovered | none => false) | none => false
      let idx := commandIndex s core h.ctx h.entry.pc
      let cyc := freeBelow s1 (2 ^ 32)
      let bytes := leBytes 8 h.entry.tick ++ leBytes 2 (streamCtx s h.handle) ++ leBytes 2 h.handle ++
        leBytes 2 (core % 2 ^ 9 + h.ctx * 2 ^ 9 + b2n th.path * 2 ^ 15) ++ leBytes 1 unit ++ leBytes 1 (wordOp h.entry.word) ++
        leBytes 4 (unsigned 32 idx) ++ leBytes 4 t.tPush ++ leBytes 4 t.tPop ++ leBytes 4 (t.tFirst.getD t.tPop) ++
        leBytes 4 (if t.tFirst.isSome then t.tLast else t.tPop) ++ leBytes 4 (h.entry.phase + (s.now - h.entry.pushed)) ++
        leBytes 4 (min (2 ^ 32 - 1) t.bytesRead) ++ leBytes 4 (min (2 ^ 32 - 1) t.bytesWritten) ++ leBytes 4 cyc.1 ++ leBytes 1 status ++
        leBytes 1 (b2n recovered + 2 * b2n (unit == 1 && h.variant != 0)) ++ leBytes 2 0 ++ leBytes 4 h.variant ++
        leBytes 4 (sampler s p).nextSeq
      let s2 := updSampler cyc.2 p (fun x => { x with records := x.records ++ [bytes], nextSeq := (x.nextSeq + 1) % 2 ^ 32 })
      if getF s F.TALLY_SAMP_CTRL_tid p = 0 ∧ (sampler s2 p).records.length = getF s F.TALLY_SAMP_CTRL_thresh p then
        raise s2 (tallyPage p) 1
      else s2

end Sys2Proof.Machine
end

