-- ==== Sys2Proof/Machine/SeamBase.lean ====
section
/-! DEFINITION. The Seam (ch. 11): the directory, coherent requests and their transactions, snoops, answers, and atomics
(R451, R452) as they are applied at a line's home. -/

namespace Sys2Proof.Machine

/-! ### The directory (R383 to R390) -/

/-- The seam die that serves a line (R28, R386). -/
def dieOfLine (s : State) (line : Nat) : Nat :=
  match homePart s (line * 64) with
  | some p => dieOf p
  | none => 0

/-- A seam die. -/
def seamDie (s : State) (d : Nat) : SeamDie := nth SeamDie.empty s.seam d

/-- Change a seam die. -/
def updDie (s : State) (d : Nat) (f : SeamDie → SeamDie) : State := { s with seam := setNth s.seam d (f (seamDie s d)) }

/-- The bucket of a line within its die's half (R386). -/
def bucketOf (line : Nat) : Nat := (line % 2 ^ 25) ^^^ (line / 2 ^ 25 % 2 ^ 14)
/-- The tag of a line (R386). -/
def tagOf (line : Nat) : Nat := line / 2 ^ 25 % 2 ^ 14
/-- The line of a bucket and tag (R386). -/
def lineOf (bucket tag : Nat) : Nat := (bucket ^^^ tag) + tag * 2 ^ 25

/-- The entry of a line that has none: state I. -/
def DirEntry.absent : DirEntry := { state := .i, holders := [], overflow := false, group := 0 }

/-- The ways of a line's bucket. -/
def bucketWays (s : State) (line : Nat) : List DirWay := Tab.getC [] (seamDie s (dieOfLine s line)).dir (bucketOf line)

/-- The directory entry of a line. -/
def dirEntry (s : State) (line : Nat) : DirEntry :=
  match (bucketWays s line).find? (fun w => w.tag == tagOf line) with
  | some w => w.entry
  | none => DirEntry.absent

/-- An access sets its way's age to 0 and adds 1 to every younger way (R390). -/
def touchWays (ws : List DirWay) (tag old : Nat) : List DirWay :=
  ws.map (fun w => if w.tag = tag then { w with age := 0 } else if w.age < old then { w with age := w.age + 1 } else w)

/-- The ways after an entry is written: I clears valid; a new line takes the lowest free way (R386, R390). -/
def putWay (ws : List DirWay) (tag : Nat) (e : DirEntry) : List DirWay :=
  if e.state = .i then ws.filter (fun w => w.tag != tag)
  else match ws.find? (fun w => w.tag == tag) with
    | some w => touchWays (ws.map (fun x => if x.tag = tag then { x with entry := e } else x)) tag w.age
    | none =>
      let free := ((List.range 6).find? (fun i => !ws.any (fun w => w.way == i))).getD 6
      touchWays (ws ++ [{ way := free, tag := tag, age := 0, entry := e }]) tag 7

/-- Write the directory entry of a line. -/
def setDir (s : State) (line : Nat) (e : DirEntry) : State :=
  updDie s (dieOfLine s line) (fun d => { d with
    dir := Tab.upd [] d.dir (bucketOf line) (fun ws => putWay ws (tagOf line) e) })

/-- Add a Shared holder (R384): at most three pointers, then overflow. -/
def DirEntry.add (e : DirEntry) (a : Nat) : DirEntry :=
  if e.holders.contains a then e
  else if e.holders.length < 3 then { e with holders := e.holders ++ [a] }
  else { e with overflow := true }

/-- Remove a holder (R384). -/
def DirEntry.remove (e : DirEntry) (a : Nat) : DirEntry :=
  let hs := e.holders.filter (fun h => h != a)
  if hs.isEmpty then DirEntry.absent else { e with holders := hs }

/-- The share group of a line's region. -/
def groupOf (s : State) (line : Nat) : Nat :=
  match regionOf s (line * 64) with
  | some r => rgnGroup (regionEntry s r)
  | none => 0

/-- A fresh entry of a state, which takes the region's share group (R393). -/
def freshEntry (s : State) (line : Nat) (st : DirState) (hs : List Nat) : DirEntry :=
  { state := st, holders := hs, overflow := false, group := groupOf s line }

/-- A line lies in its die's atomic buffer (R398). -/
def buffered (s : State) (line : Nat) : Bool := (seamDie s (dieOfLine s line)).abuf.contains line

/-- The out bit of a line (R376). -/
def outBit (s : State) (line : Nat) : Bool := decide ((dirEntry s line).state ≠ .i) || buffered s line

/-- A line's transaction. -/
def txnOf (s : State) (line : Nat) : Option SeamTxn :=
  (seamDie s (dieOfLine s line)).txns.find? (fun t => t.req.line == line)

/-- A coherent request to the line is open or waits. -/
def lineBusy (s : State) (line : Nat) : Bool :=
  let d := seamDie s (dieOfLine s line)
  d.txns.any (fun t => t.req.line == line) || d.waiting.any (fun r => r.line == line)

/-- An engine's read of a local line must first bring back a copy: the line has an open transaction or is held Modified. -/
def readHeld (s : State) (line : Nat) : Bool := lineBusy s line || decide ((dirEntry s line).state = .m)

/-- An engine's write of a local line must first remove copies. -/
def writeHeld (s : State) (line : Nat) : Bool := lineBusy s line || decide ((dirEntry s line).state ≠ .i)

/-! ### Fence marks (R405) -/

/-- The fence of an agent on a die. -/
def fenceOf (s : State) (d a : Nat) : Fence := Tab.getC { mark := .none, swept := false, start := 0 } (seamDie s d).fences a

/-- Set the fence of an agent on a die. -/
def setFence (s : State) (d a : Nat) (f : Fence) : State :=
  updDie s d (fun x => { x with fences := Tab.setC { mark := .none, swept := false, start := 0 } x.fences a f })

/-- Mark an agent on a die: its sweep begins where the sweep stands (R406). -/
def markAgent (s : State) (d a : Nat) (m : FenceMark) : State :=
  updDie (setFence s d a { mark := m, swept := false, start := (seamDie s d).position }) d (fun x => { x with sweeping := true })

/-- A recall that the sweeps of both dies carry, from where they stand (R406). -/
def addRecall (s : State) (kind : RecallOf) (index newValue : Nat) (leaving : List Nat) : State :=
  { s with seam := s.seam.map (fun d => { d with
    recalls := d.recalls ++ [{ kind := kind, index := index, start := d.position, newValue := newValue, leaving := leaving }]
    sweeping := true }) }

/-- Poison a line for a lost or silent agent (R403, R404). -/
def poisonFor (s : State) (d line a : Nat) : State :=
  raise (setF (addSatF (poisonLines s [line]) F.SEAM_POISON_lines d 1) F.SEAM_POISON_agent d a) (F.SEAM_POISON_lines.page + d) 1

/-- Drop one holder of a line: a Modified line of a host that is lost or silent is poisoned (R405). -/
def dropHolder (s : State) (line a : Nat) (kills : Bool) : State :=
  let d := dieOfLine s line
  let e := dirEntry s line
  let s1 := if e.state = .m ∧ e.holders.contains a ∧ kills ∧ 1024 ≤ a then poisonFor s d line a else s
  if e.holders.contains a then setDir s1 line (e.remove a) else s1

/-- A transaction that finds a marked agent in its entry purges it first (R405). -/
def purge (s : State) (line : Nat) : State :=
  (dirEntry s line).holders.foldl (fun a h =>
    match (fenceOf a (dieOfLine a line) h).mark with
    | .none => a
    | .rejoin => dropHolder a line h false
    | .lost | .silent => dropHolder a line h true) s

/-! ### Writing and answering -/

/-- The bytes of a line under a mask: new where its bit is 1. -/
def maskLine (old new : List Byte) (mask : Nat) : List Byte :=
  (List.range 64).map (fun i => if bit mask i then nth 0 new i else nth 0 old i)

/-- Write bytes of a line at its home. A lost plain home discards the write with a fault record (R535); poison that comes
with the bytes stays with the line. -/
def lineWrite (s : State) (line : Nat) (data : List Byte) (mask : Nat) (poison : Bool) : State :=
  let off := line * 64
  let gone : Bool := match homePart s off with | some h => decide (roadTo s h off = .gone) | none => true
  let key := keyLost s off
  if gone then fault s { cls := 2, cause := 0x001A, page := F.RAS_COUNT_corrected.page, pa := localPa s off }
  else if key then s
  else
    let new := maskLine (storeBytes s off 64) data mask
    let s1 := if mask % 2 ^ 64 = 2 ^ 64 - 1 then storeWrite s off new
              else markResync { s with store := putBytes s.store off new } off
    if poison then poisonLines s1 [line] else s1

/-- Whether a line reads as poison: poisoned, failed with its partition, or beyond rebuilding (Table 15.8). -/
def lineDead (s : State) (line : Nat) : Bool :=
  linePoisoned s line || (match homePart s (line * 64) with
    | some h => decide (roadTo s h (line * 64) = .gone) || decide (roadTo s h (line * 64) = .lost)
    | none => true)

/-- Answer a coherent request of an agent: grant 0 Cmp, 1 Cmp-S, 2 Cmp-E; with the line when `data` lists it. -/
def answerAgent (s : State) (a tag line grant : Nat) (data : List Byte) (poison : Bool) : State :=
  match linkOfAgent s a with
  | some _ => emit s (.grant a tag grant data poison)
  | none =>
    match hubOfAgent s a with
    | none => s
    | some h =>
      let word := (if grant = 1 then 1 else 0) + (if data.isEmpty then 0 else 2 * b2n poison)
      send s (mkPacket s (if data.isEmpty then ptCmp else ptData) h tag (localPa s (line * 64)) word 15 data)

/-! ### Atomics (R451, R452) -/

/-- Table 13.6: the operation has the width. -/
def atomValid (op width : Nat) : Bool :=
  match op with
  | 1 => width == 5
  | 0 | 6 | 7 | 8 | 9 | 10 => width == 2 || width == 3 || width == 4
  | 2 | 3 | 4 | 5 => width == 2 || width == 3
  | _ => false

/-- Table 13.6: the class of an operation. -/
def atomClass (op : Nat) : Nat :=
  match op with
  | 0 => 0
  | 1 => 1
  | 2 | 3 | 4 | 5 => 2
  | 6 | 7 | 8 => 3
  | 9 => 4
  | _ => 5

/-- The new value of a target, given its old value and the operand: status of Table 13.7 and value. -/
def atomApply (word old opd : Nat) : Nat × Nat :=
  let op := bits word 0 4
  let w := bits word 4 3
  let n := 8 * 2 ^ w
  match op with
  | 0 => (0, (old + opd) % 2 ^ n)
  | 1 =>
    let q := Partial.decode opd
    let p := if old = 0 then Partial.zero q.anchor else Partial.decode old
    if p.anchor = q.anchor then (0, (p.add q).encode) else (3, old)
  | 8 => (0, (old ^^^ opd) % 2 ^ n)
  | 9 => (0, opd % 2 ^ n)
  | 10 =>
    let half := if w = 4 then 128 else 64
    (0, if old = opd % 2 ^ n then opd / 2 ^ half % 2 ^ n else old)
  | _ => (0, combineVal op w old opd)

/-- An atomic at its home, once no copy of the line is out: status, old value, state (R400, R451, R452). -/
def atomAt (s : State) (off word opd : Nat) : Nat × Nat × State :=
  let n := 2 ^ bits word 4 3
  let old := storeValue s off n
  if lineDead s (off / 64) then (2, 0, s)
  else
    let r := atomApply word old opd
    (r.1, if r.1 = 0 then old else 0,
     if r.1 = 0 then markResync { s with store := putBytes s.store off (leBytes n r.2) } off else s)

/-- Units of progress of a move-engine command: bytes of a copy, elements of a FATOM. -/
def meTotal (w : Nat) : Nat :=
  match wordOp w with
  | 0x01 => bits w 160 40
  | 0x02 | 0x03 => bits w 208 24 * bits w 232 13
  | 0x10 => bits w 208 12
  | _ => 1

/-- A descriptor keeps its command from being carried out: another hub answers it, or it is an element without its status. -/
def Descriptor.blocks (d : Descriptor) (core seq : Nat) : Bool := d.core == core && d.seq == seq && (d.remote || d.srcSpace == 3)

/-- A move-engine command whose descriptors have all been submitted and have all ended is carried out. -/
def meCheck (s : State) (core seq : Nat) : State :=
  match heldCmd s core 4 seq with
  | none => s
  | some h =>
    if wordOp h.entry.word ≠ 0x30 ∧ decide (meTotal h.entry.word ≤ h.pos) && h.latch.isSome && !s.descriptors.any (fun d => d.blocks core seq) then
      updHeld s core 4 seq (fun x => { x with done := true })
    else s

/-- Take a descriptor away. -/
def dropDescriptor (s : State) (core seq id : Nat) : State :=
  { s with descriptors := s.descriptors.filter (fun d => !(d.core == core && d.seq == seq && d.id == id)) }

/-- Write the result element of a command's atomic: final status and old value (Table 13.8), and end its descriptor. -/
def finishElement (s : State) (core unit seq idx status old : Nat) : State :=
  let s1 := dropDescriptor s core seq idx
  match heldCmd s core unit seq with
  | none => s1
  | some h =>
    let ref := bits h.entry.word 160 48
    let off := bits ref 2 25 + 48 * idx
    meCheck (if off + 48 ≤ sSize then sWrite s1 core off (leBytes 1 status ++ leBytes 15 0 ++ leBytes 32 old) else s1) core seq

/-- The answer of an atomic packet (R461): the result of each member enters the result cache, then the answer leaves. -/
def answerAtomic (s : State) (part : Nat) (p : Packet) (status old : Nat) : State :=
  let fetch := bit p.word3 7
  let mk (tag status v : Nat) : Packet := { mkPacket s ptAtomRes 0 tag p.addr 0 15 (if fetch then leBytes 32 v else []) with status := status }
  let s1 :=
    if p.count = 0 then
      enterResult s part p.src p.tag (mk p.tag status old)
    else (List.range p.count).foldl (fun a j =>
      let u := p.unit (2 + atomUnits p.word3 + j)
      let v := if fetch then combineVal (bits p.word3 0 4) (bits p.word3 4 3) old (u / 2 ^ 64) else 0
      enterResult a part (bits u 0 12) (bits u 12 16) (mk (bits u 12 16) status v)) s
  answer s1 p ptAtomRes status 0 (if fetch then leBytes 32 old else [])

/-! ### Transactions (R378 to R380, R390, R393 to R396) -/

/-- The agent of a request, if it has one. -/
def SeamWho.agentId : SeamWho → Option Nat
  | .agent a _ => some a
  | _ => none

/-- A request as it is ordered (R392, R395): a write of the recorded owner is a write-back, one of anybody else is not;
no copy is granted to a marked agent or of a line of a failed bucket. -/
def classify (s : State) (r : SeamReq) : SeamReq :=
  let e := dirEntry s r.line
  let d := dieOfLine s r.line
  let owner : Bool := match r.who.agentId with | some a => decide (e.state = .m) && e.holders.contains a | none => false
  let barred : Bool := (seamDie s d).failed.contains (bucketOf r.line) ||
    (match r.who.agentId with | some a => decide ((fenceOf s d a).mark ≠ .none) | none => false)
  match r.kind with
  | .wrCur => if owner then { r with kind := .wrBk true } else r
  | .wrBk _ => if owner then r else { r with kind := .wrCur }
  | .rdS | .rdM | .invM => if barred then { r with kind := .rdCur } else r
  | _ => r

/-- The agents whose copies an invalidation must reach (R385, R393). -/
def invTargets (s : State) (e : DirEntry) : List Nat :=
  if e.overflow then
    e.holders ++ (List.range 4096).filter (fun a => inGroup s e.group a && !e.holders.contains a && a != hubId s)
  else e.holders

/-- The snoops a request needs: agents, and whether the snoop invalidates (Table 11.5). -/
def snoopsFor (s : State) (r : SeamReq) (e : DirEntry) : List (Nat × Bool) :=
  let self := fun (a : Nat) => decide (r.who.agentId = some a)
  match r.kind, e.state with
  | _, .i => []
  | .rdCur, .m | .rdS, .m | .recallClean, .m => (e.holders.filter (fun a => !self a)).map (fun a => (a, false))
  | .rdM, .m | .invM, .m => (e.holders.filter (fun a => !self a)).map (fun a => (a, true))
  | .rdM, .s | .invM, .s => ((invTargets s e).filter (fun a => !self a)).map (fun a => (a, true))
  | .wrCur, .s | .atomic, .s | .recall, .s => (invTargets s e).map (fun a => (a, true))
  | .wrCur, .m | .atomic, .m => e.holders.map (fun a => (a, true))
  | .recall, .m => (invTargets s e).map (fun a => (a, true))
  | _, _ => []

/-- Send one snoop (R393, R396): Inv to a hub, BISnp to a host on this hub's link, Fwd to the hub that carries the owner. -/
def sendSnoop (s : State) (r : SeamReq) (a : Nat) (inv : Bool) : State × Await :=
  let s1 := addWrapF s F.SEAM_BI_sent (dieOfLine s r.line) 1
  let pa := localPa s (r.line * 64)
  if a < 1024 then
    (send s1 (mkPacket s1 ptInv a (freshTag s1) pa 0 15 []), { agent := a, kind := .inv, acked := false })
  else match linkOfAgent s a with
    | some _ => (emit s1 (.snoop a (pa / 64) (if inv then .biInv else .biData)),
                 { agent := a, kind := if inv then .biInv else .biData, acked := false })
    | none =>
      let named := match r.kind, r.who with
        | .rdCur, .agent q t | .rdS, .agent q t => if q < 1024 then some (q, t) else none
        | _, _ => none
      let word := a + b2n inv * 2 ^ 12 + (match named with | some (q, _) => q * 2 ^ 13 + 2 ^ 23 | none => 0)
      let tag := match named with | some (_, t) => t | none => freshTag s1
      match hubOfAgent s a with
      | some h => (send s1 (mkPacket s1 ptFwd h tag pa word 15 []), { agent := a, kind := .fwd, acked := false })
      | none => (s1, { agent := a, kind := .fwd, acked := false })

/-- The entry a transaction leaves (Table 11.5), from the entry as it stands when the last answer has arrived. -/
def finalEntry (s : State) (r : SeamReq) (e : DirEntry) : DirEntry :=
  match r.kind with
  | .rdCur | .recallClean =>
    if e.state = .m ∧ (∀ a, r.who.agentId = some a → !e.holders.contains a) then { e with state := .s } else e
  | .rdS =>
    match r.who.agentId with
    | none => e
    | some a =>
      match e.state with
      | .i => freshEntry s r.line .s [a]
      | .s => e.add a
      | .m => ({ e with state := .s }).add a
  | .rdM | .invM =>
    match r.who.agentId with
    | some a => if e.state = .i then freshEntry s r.line .m [a] else { e with state := .m, holders := [a], overflow := false }
    | none => e
  | .wrCur | .atomic | .recall => DirEntry.absent
  | .wrBk metaS => if metaS then { e with state := .s } else DirEntry.absent
  | .evict =>
    match r.who.agentId with
    | none => e
    | some a =>
      match e.state with
      | .m => if e.holders.contains a then DirEntry.absent else e
      | .s => if e.overflow then e else e.remove a
      | .i => e

/-- The grant a request's answer carries: 1 for S, 2 for M. -/
def grantOf : SeamKind → Nat
  | .rdS => 1
  | .rdM | .invM => 2
  | _ => 0

/-- A line enters its die's atomic buffer, which holds 1,024 (R398); the oldest line leaves when it is full. -/
def enterBuffer (s : State) (line : Nat) : State :=
  updDie s (dieOfLine s line) (fun d => { d with
    abuf := if d.abuf.contains line then d.abuf else (d.abuf ++ [line]).drop (d.abuf.length + 1 - 1024) })

/-- The tenant of a store offset's region, if its key ID is bound (R595). -/
def keyTid (s : State) (off : Nat) : Option Nat :=
  match regionOf s off with
  | some r =>
    let k := rgnKey (regionEntry s r)
    if k = 0 then none else some (keyOf s k).tid
  | none => none

/-- An atomic runs at the memory-controller site (R399): its region says so, the line is at its home and its out bit is 0. -/
def atomDirect (s : State) (r : SeamReq) : Bool :=
  !outBit s r.line && (match homePart s (r.line * 64), regionOf s (r.line * 64) with
    | some h, some g => partUp s h && bit (rgnAtom (regionEntry s g)) (atomClass (bits r.atom 0 4))
    | _, _ => false)

/-- The event of an atomic at the memory-controller site (Table 17.1). -/
def atomEvent (s : State) (r : SeamReq) : State :=
  let off := r.line * 64
  let own := match r.who with | .engine core _ ctx _ _ => [tidOf s (streamCtx s (thread s core ctx).handle)] | _ => []
  let key := match keyTid s off with | some t => if own.contains t then [] else [t] | none => []
  tally s { part := (homePart s off).getD 0, code := 0x15, tids := own ++ key, addr := some (localPa s off)
            master := some (match r.who with | .engine _ unit _ _ _ => unit - 1 | _ => 5)
            core := match r.who with | .engine core _ _ _ _ => some (core % 32) | _ => none
            agent := match r.who with | .agent a _ => some a | _ => none }

/-- The effect of a transaction whose answers have all arrived (R378, R393, R394). -/
def effect (s : State) (t : SeamTxn) : State :=
  let r := t.req
  let s1 := setDir s r.line (finalEntry s r (dirEntry s r.line))
  let data := fun (x : State) => storeBytes x (r.line * 64) 64
  match r.kind with
  | .wrCur =>
    let s2 := lineWrite s1 r.line r.data r.mask r.poison
    (match r.who with | .agent a tag => answerAgent s2 a tag r.line 0 [] false | _ => s2)
  | .wrBk _ =>
    let s2 := lineWrite s1 r.line r.data r.mask r.poison
    (match r.who with | .agent a tag => answerAgent s2 a tag r.line 0 [] false | _ => s2)
  | .rdCur | .rdS | .rdM =>
    (match r.who with
    | .agent a tag => if t.served then s1 else answerAgent s1 a tag r.line (grantOf r.kind) (data s1) (lineDead s1 r.line)
    | _ => s1)
  | .invM | .evict =>
    (match r.who with | .agent a tag => answerAgent s1 a tag r.line (grantOf r.kind) [] false | _ => s1)
  | .recall | .recallClean => s1
  | .atomic =>
    let s2 := if atomDirect s r then atomEvent s1 r else enterBuffer s1 r.line
    let a := atomAt s2 (r.line * 64 + r.offset) r.atom r.operand
    match r.who, r.packet with
    | .engine core unit _ seq idx, _ => finishElement a.2.2 core unit seq idx a.1 a.2.1
    | _, some p => answerAtomic a.2.2 ((homePart s (r.line * 64)).getD 0) p a.1 a.2.1
    | _, none => a.2.2

/-- A request needs a directory entry that its bucket has no room for (R390). -/
def needsWay (s : State) (r : SeamReq) : Bool :=
  (match r.kind with | .rdS | .rdM | .invM => true | _ => false) && decide ((dirEntry s r.line).state = .i) &&
    decide (6 ≤ (bucketWays s r.line).length)

/-- The victim of an eviction (R390): the oldest way whose line has no open transaction. -/
def victim (s : State) (r : SeamReq) : Option Nat :=
  let free := (bucketWays s r.line).filter (fun w => (txnOf s (lineOf (bucketOf r.line) w.tag)).isNone)
  match free with
  | [] => none
  | w :: ws => some (lineOf (bucketOf r.line) (ws.foldl (fun a x => if a.age < x.age then x else a) w).tag)

/-- Order a request at its line: snoops go out, or the effect takes place at once when no answer is awaited. -/
def openTxn (s : State) (r0 : SeamReq) : State :=
  let s1 := purge s r0.line
  let r := classify s1 r0
  let sn := snoopsFor s1 r (dirEntry s1 r.line)
  if sn.isEmpty then effect s1 { req := r, awaits := [], served := false, opened := s.now }
  else
    let x := sn.foldl (fun (acc : State × List Await) q =>
      let y := sendSnoop acc.1 r q.1 q.2
      (y.1, acc.2 ++ [y.2])) (s1, [])
    updDie x.1 (dieOfLine s r.line) (fun d => { d with
      txns := d.txns ++ [{ req := r, awaits := x.2, served := false, opened := s.now }] })

/-- The limits of R379. -/
def txnRoom (s : State) (r : SeamReq) : Bool :=
  let n := (seamDie s (dieOfLine s r.line)).txns.length
  match r.kind with
  | .wrBk _ | .evict => decide (n < 32768)
  | _ => decide (n < 32768 - 1024)

/-- The stand-in of the line's home partition holds what would reach the line (R533), or its seam die holds it until a lease
point (R401). -/
def lineHeld (s : State) (line : Nat) : Bool :=
  (match homePart s (line * 64) with
  | some h => decide (roadTo s h (line * 64) = .held)
  | none => false) ||
    (seamDie s (dieOfLine s line)).leases.any (fun l => decide (l.page ≤ line * 64) && decide (line * 64 < l.page + l.size) && leasePending s l)

/-- Whether a waiting request can be ordered now, given the requests that wait before it. -/
def canOpen (s : State) (before : List SeamReq) (r : SeamReq) : Bool :=
  (txnOf s r.line).isNone && !before.any (fun q => q.line == r.line) && txnRoom s r && !lineHeld s r.line

/-- A line whose directory state cannot be trusted is recalled by a broadcast to every member of its region's share group (R391). -/
def broadcastEntry (s : State) (line : Nat) : State :=
  setDir s line { dirEntry s line with overflow := true, group := groupOf s line }

/-- A request to a line of a failed bucket with out at 1: the line is recalled before it (R391). -/
def needsBroadcast (s : State) (r : SeamReq) : Bool :=
  (seamDie s (dieOfLine s r.line)).failed.contains (bucketOf r.line) && decide ((dirEntry s r.line).state ≠ .i) &&
    (match r.kind with | .recall => false | _ => true)

/-- Let the waiting requests of a die open, in arrival order; one that needs an entry in a full bucket first evicts. -/
def drainDie (d : Nat) : Nat → State → State
  | 0, s => s
  | fuel + 1, s =>
    let w := (seamDie s d).waiting
    match (List.range w.length).find? (fun i => match w[i]? with | some r => canOpen s (w.take i) r && !(needsWay s r && (victim s r).isNone) | none => false) with
    | none => s
    | some i =>
      match w[i]? with
      | none => s
      | some r =>
        if needsWay s r then
          match victim s r with
          | none => s
          | some v =>
            let rc : SeamReq := { kind := .recall, who := .seam, line := v, data := [], mask := 0, poison := false, offset := 0,
                                  atom := 0, operand := 0, packet := none }
            let s1 := openTxn (addSatF s F.SEAM_DIR_evictions d 1) rc
            if (txnOf s1 v).isSome then s1 else drainDie d fuel s1
        else if needsBroadcast s r then
          let rc : SeamReq := { kind := .recall, who := .seam, line := r.line, data := [], mask := 0, poison := false, offset := 0,
                                atom := 0, operand := 0, packet := none }
          drainDie d fuel (openTxn (broadcastEntry s r.line) rc)
        else drainDie d fuel (openTxn (updDie s d (fun x => { x with waiting := w.take i ++ w.drop (i + 1) })) r)

/-- A coherent request reaches its line's queue (R378, R379). -/
def seamRequest (s : State) (r : SeamReq) : State :=
  let d := dieOfLine s r.line
  if 65536 ≤ (seamDie s d).waiting.length then raise s (F.SEAM_OCC_open.page + d) 3
  else
    let s1 := updDie s d (fun x => { x with waiting := x.waiting ++ [r] })
    let s2 := drainDie d (s1.seam.length + (seamDie s1 d).waiting.length + 8) s1
    if (seamDie s2 d).waiting.length = 65536 then raise s2 (F.SEAM_OCC_open.page + d) 3 else s2

/-- A transaction closes (R378): its effect is written, and requests that waited behind it open. -/
def closeTxn (s : State) (line : Nat) : State :=
  match txnOf s line with
  | none => s
  | some t =>
    if !t.awaits.isEmpty then s
    else
      let d := dieOfLine s line
      let s1 := effect (updDie s d (fun x => { x with txns := x.txns.filter (fun u => u.req.line != line) })) t
      drainDie d (2 * (seamDie s1 d).waiting.length + 8) s1

/-- Change the transaction of a line. -/
def updTxn (s : State) (line : Nat) (f : SeamTxn → SeamTxn) : State :=
  updDie s (dieOfLine s line) (fun d => { d with txns := d.txns.map (fun t => if t.req.line = line then f t else t) })

/-- A plain request without bytes. -/
def SeamReq.plain (k : SeamKind) (w : SeamWho) (line : Nat) : SeamReq :=
  { kind := k, who := w, line := line, data := [], mask := 0, poison := false, offset := 0, atom := 0, operand := 0, packet := none }

/-- A recall of a line's copies, when it has any (R390, R402, R406). -/
def recallLine (s : State) (line : Nat) (k : SeamKind) : State :=
  if (dirEntry s line).state = .i then s else seamRequest s (SeamReq.plain k .seam line)

end Sys2Proof.Machine
end

