-- ==== Sys2Proof/Machine/Access.lean ====
section
/-! DEFINITION. How an engine command reads and writes (ch. 7): the operand cache, translation, rights, the roads to a line,
the copies that must first come back, lines of other hubs and host space; and what becomes of a command that must wait. -/

namespace Sys2Proof.Machine

/-! ### Error codes (Table 4.11) -/

def errRange : Nat := 1
def errShape : Nat := 2
def errAnchor : Nat := 3
def errPoison : Nat := 4
def errXlate : Nat := 5
def errDelta : Nat := 6
def errCount : Nat := 7
/-- Table 13.9. -/
def errFabric : Nat := 11
/-- CHECK, the residue check (Table 15.2). -/
def errCheck : Nat := 12
/-- Code ACCESS of Table 9.9. -/
def xlAccess : Nat := 7

/-! ### A run of a command -/

/-- Whether a run goes on, must wait for memory and be taken up again, or has failed with an engine error and a
translation fault code. -/
inductive Stop where
  | go | wait | fail (code xl : Nat)
  deriving DecidableEq, Repr

/-- A command as it is carried out. `s` has what the command has done; `base` has only what it asked memory for, and
stands when the command must wait. -/
structure Run where
  base : State
  s : State
  core : Nat
  unit : Nat
  ctx : Nat
  seq : Nat
  /-- Address context and tenant (R475). -/
  context : Nat
  tid : Nat
  /-- The entry uses the operand cache (R113). -/
  use : Bool
  haul : Bool
  stop : Stop
  flags : Nat
  cycles : Nat
  variant : Nat
  rd : Nat
  wr : Nat
  /-- Store lines read and written, for Tally. -/
  lines : List (Nat × Bool)
  misses : Nat
  tlbCore : Nat
  tlbPart : Nat
  hostBytes : Nat
  remote : Nat
  /-- Reserved resources used: `useKey` and amount. -/
  uses : List (Nat × Nat)
  /-- The address and kind of a translation fault. -/
  badVa : Nat
  badKind : Kindm
  deriving DecidableEq, Repr

/-- The key of a reserved resource (Table 2.6): entry kind, unit, and field 0 to 2 of the entry. -/
def useKey (kind unit res : Nat) : Nat := (kind * 64 + unit) * 4 + res

/-- A run uses a reserved resource. -/
def Run.uses' (r : Run) (k n : Nat) : Run := { r with uses := r.uses ++ [(k, n)] }

/-- Fail a run. -/
def Run.fail (r : Run) (code : Nat) : Run := if r.stop = .go then { r with stop := .fail code 0 } else r

/-- Fail a run with a translation fault (R331). -/
def Run.failXl (r : Run) (va xl : Nat) (k : Kindm) : Run :=
  if r.stop = .go ∨ r.stop = .wait then { r with stop := .fail errXlate xl, badVa := va, badKind := k } else r

/-- The run goes on. -/
def Run.going (r : Run) : Bool := decide (r.stop = .go)

/-- A run must wait; what it asked for is in `base`. -/
def Run.waits (r : Run) (f : State → State) : Run :=
  match r.stop with
  | .fail _ _ => r
  | _ => { r with stop := .wait, base := f r.base }

/-- Add flags. -/
def Run.flag (r : Run) (f : Nat) : Run := { r with flags := r.flags ||| f }

/-! ### The operand cache (R242 to R245) -/

/-- The operand-cache line that a read hits. -/
def cacheHit (s : State) (core context pa : Nat) : Option CacheLine :=
  (coreOf s core).opLines.find? (fun l => l.addr == pa / 64 * 64 && l.context == context)

/-- A miss sends a fill; it is installed by OPERAND_FILL unless an invalidation comes first. -/
def sendFill (s : State) (core context pa : Nat) (data : List Byte) : State :=
  updCore s core (fun c => { c with fills := c.fills ++ [{ line := { addr := pa / 64 * 64, context := context, data := data }, stale := false }] })

/-- A write of an engine of the core drops the line, and a fill on its way is never installed (R244, R245). -/
def dropLine (s : State) (core pa : Nat) : State :=
  updCore s core (fun c => { c with
    opLines := c.opLines.filter (fun l => l.addr != pa / 64 * 64)
    fills := c.fills.map (fun f => if f.line.addr = pa / 64 * 64 then { f with stale := true } else f) })

/-- An acquire in a context (R246). -/
def acquireCore (s : State) (core context : Nat) : State :=
  updCore s core (fun c => { c with
    opLines := c.opLines.filter (fun l => l.context != context)
    fills := c.fills.map (fun f => if f.line.context = context then { f with stale := true } else f) })

/-- Every line of a core's operand cache is dropped (R244). -/
def flushCore (s : State) (core : Nat) : State :=
  updCore s core (fun c => { c with opLines := [], fills := c.fills.map (fun f => { f with stale := true }) })

/-! ### Roads to other places -/

/-- A host link. -/
def hostLink (s : State) (l : Nat) : HostLink := Tab.getC HostLink.down s.hosts l

/-- A host link is out of L0 and not yet lost (R370). -/
def linkOut (s : State) (l : Nat) : Bool := (hostLink s l).outOfL0.isSome

/-- A host link carries traffic of a tenant: up or out of L0 for the moment, at 16 GT/s or more, its agent valid, IDE when
required, bound to the tenant (R340 to R342, R370, R486). -/
def linkCarries (s : State) (l : Nat) : Bool :=
  (getL s F.HPORT_LINK_STATUS_state l == 2 || linkOut s l) && getL s F.HPORT_LINK_STATUS_rate l != 0 && getL s F.HPORT_LINK_AGENT_valid l == 1 &&
    (getF s F.HPORT_CFG_ide_req (l / 2) == 0 || getL s F.HPORT_LINK_STATUS_ide l == 1)

/-- The tenant a host link acts as (R475). -/
def linkTenant (s : State) (l : Nat) : Nat := Tab.getC 0 s.eloan.linkTid l

/-- Where a host-space address leads: a link of this hub, another hub, or nowhere (R343). -/
inductive HostRoad where
  | link (l : Nat)
  | hub (h : Nat)
  | nowhere
  deriving DecidableEq, Repr

/-- The road of a host-space address for a tenant; none for `tid` when the hub itself serves another hub's request. -/
def hostRoad (s : State) (tid : Option Nat) (pa : Nat) : HostRoad :=
  match linkOfAgent s (paAgent pa) with
  | some l =>
    if linkCarries s l && decide (pa % 2 ^ 45 < getL s F.HPORT_LINK_HSIZE_pages l * 4096) &&
        (match tid with | some t => linkTenant s l == t | none => true) then .link l else .nowhere
  | none =>
    match hubOfAgent s (paAgent pa) with
    | some h => if h = hubId s then .nowhere else .hub h
    | none => .nowhere

/-- The host bus address of a host-space address on its link (R343). -/
def hostBus (s : State) (l pa : Nat) : Nat := getL s F.HPORT_LINK_HBASE_base l * 4096 + pa % 2 ^ 45

/-- Bytes that a host answers a read with: free values. -/
def hostBytesAt (s : State) (pa n : Nat) : List Byte :=
  (List.range n).map (fun i => BitVec.ofNat 8 (Config.hostByte s.free (pa + i)))

/-- The proxy partition of a line of another hub (R374). -/
def proxyPart (pa : Nat) : Nat := pa / 64 % 12

/-- A request for a line of another hub is open for a reader. -/
def asked (s : State) (core unit seq pa : Nat) : Bool :=
  s.fabric.requests.any (fun q => q.packet.addr == pa / 64 * 64 && (match q.purpose with
    | .line c u n _ _ => c == core && u == unit && n == seq
    | _ => false))

/-- A write of the same queue to the line is on its way to another hub (R251). -/
def writing (s : State) (core unit ctx pa : Nat) : Bool :=
  s.fabric.requests.any (fun q => q.packet.addr == pa / 64 * 64 && (match q.purpose with
    | .write c u x _ => c == core && u == unit && x == ctx
    | _ => false))

/-- Ask another hub for a line (R374, R454). -/
def askLine (s : State) (core unit seq context pa h : Nat) (proxy : Bool) : State :=
  if asked s core unit seq pa then s
  else (request s (fun t => mkPacket s (if proxy then ptRdS else ptRdCur) h t (pa / 64 * 64) 0 (partOfCore core) [])
          (.line core unit seq context proxy)).1

/-- Ask the Seam to bring back a line's copy for an engine's read. -/
def askSeam (s : State) (core unit ctx seq line : Nat) : State :=
  let mine : Bool := (seamDie s (dieOfLine s line)).txns.any (fun t => t.req.line == line) ||
    (seamDie s (dieOfLine s line)).waiting.any (fun q => q.line == line)
  if mine then s else seamRequest s (SeamReq.plain .rdCur (.engine core unit ctx seq 0) line)

/-- A line that the command has fetched from another hub. -/
def inboxLine (s : State) (core unit seq pa : Nat) : Option (List Byte × Bool) :=
  (s.fabric.inbox.find? (fun e => e.1 == readerKey core unit seq && e.2.1 == pa / 64 * 64)).map (fun e => e.2.2)

/-- Forget the lines that a command fetched from other hubs. -/
def dropInbox (s : State) (core unit seq : Nat) : State :=
  updFabric s (fun f => { f with inbox := f.inbox.filter (fun e => e.1 != readerKey core unit seq) })

/-! ### Read-through of Face windows (R286) -/

/-- The slot of a Haul entry's window that holds an offset of the store, and the offset within it. -/
def faceSlot (s : State) (e : HaulEntry) (off : Nat) : Option (Nat × Nat) :=
  (List.range e.slots).findSome? (fun i => (List.range (e.slotBytes / 4096)).findSome? (fun j =>
    match (xlate s (fun _ => false) 0 e.context (e.window + i * e.slotBytes + j * 4096) .rd).1 with
    | .ok pa _ _ => if isLocal s pa && paOff pa / 4096 == off / 4096 then some (i, j * 4096 + off % 4096) else none
    | _ => none))

/-- The physical address of the source of a line in a Face slot. -/
def faceSource (s : State) (off : Nat) : Option Nat :=
  s.haul.findSome? (fun p => match faceSlot s p.2 off with
    | some (i, o) =>
      (match (xlate s (fun _ => false) 0 p.2.context (nth 0 p.2.srcs i + o) .rd).1 with
      | .ok pa _ _ => some pa
      | _ => none)
    | none => none)

/-! ### Reading -/

/-- What a read of bytes within one line gives: the bytes and whether they are poison. -/
abbrev Got := List Byte × Bool

/-- Bytes of a line from the whole line. -/
def cut (line : List Byte) (pa n : Nat) : List Byte := (line.drop (pa % 64)).take n

/-- Read from this hub's store, at home. `through` is what a line of an absent Face slot is read from. -/
def readHome (r : Run) (va off n : Nat) (k : Kindm) (through : Run → Nat → Got × Run) : Got × Run :=
  let s := r.s
  if refuses s (.tenant r.tid r.haul) k off then (([], false), r.failXl va xlAccess k)
  else match homePart s off with
    | none => (([], false), r.failXl va xlAccess k)
    | some h =>
      match roadTo s h off with
      | .open_ =>
        if readHeld s (off / 64) then (([], false), r.waits (fun b => askSeam b r.core r.unit r.ctx r.seq (off / 64)))
        else ((storeBytes s off n, linePoisoned s (off / 64)), { r with lines := r.lines ++ [(localPa s off, false)] })
      | .lost | .gone => ((zeroBytes n, true), r)
      | .held => (([], false), r.waits id)
      | .through =>
        match faceSource s off with
        | some pa => through { r with s := raise (addSatF s F.HAUL_THRU_reads 0 1) 7 1 } pa
        | none => (([], false), r.waits id)

/-- Read from another hub: a proxy copy, a line already fetched, or a request (R374, R454, R485). -/
def readAway (r : Run) (va pa n : Nat) (k : Kindm) (alloc : Bool) : Got × Run :=
  let s := r.s
  if !isHost pa && !windowCovers s r.tid (paHub pa) (paOff pa) k then (([], false), r.failXl va xlAccess k)
  else
    let dest := if isHost pa then (match hostRoad s (some r.tid) pa with | .hub h => some h | _ => none) else some (paHub pa)
    match dest with
    | none => (([], false), r.failXl va xlAccess k)
    | some h =>
      let proxy : Bool := alloc && !isHost pa && partUp s (proxyPart pa)
      match (if proxy then s.fabric.proxies.find? (fun p => p.1 == pa / 64 * 64 && p.2.1 == proxyPart pa && p.2.2.1 == r.context) else none) with
      | some p => ((cut p.2.2.2 pa n, false), r)
      | none =>
        match inboxLine s r.core r.unit r.seq pa with
        | some (d, bad) =>
          if d.isEmpty then (([], false), r.failXl va xlAccess k)
          else ((cut d pa n, bad), match choosePort s 0 h 0 with | some q => r.uses' (useKey 1 q 1) 64 | none => r)
        | none =>
          if writing s r.core r.unit r.ctx pa then (([], false), r.waits id)
          else (([], false), { r.waits (fun b => askLine b r.core r.unit r.seq r.context pa h proxy) with remote := r.remote + b2n (!asked s r.core r.unit r.seq pa) })

/-- Read from a host on one of this hub's links; one out of L0 holds the access (Table 10.8). -/
def readHost (r : Run) (l pa n : Nat) : Got × Run :=
  if linkOut r.s l then (([], false), r.waits id)
  else ((hostBytesAt r.s pa n, false),
   ({ r with s := bwHost { r.s with free := r.s.free + 1 } l 1 n, hostBytes := r.hostBytes + n } : Run).uses' (useKey 2 l 1) n)

/-- Read bytes within one line at a physical address. -/
def readPa (r : Run) (va pa n : Nat) (k : Kindm) (alloc : Bool) : Got × Run :=
  let plain (r : Run) (pa : Nat) : Got × Run :=
    if isHost pa then
      match hostRoad r.s (some r.tid) pa with
      | .link l => readHost r l pa n
      | .hub _ => readAway r va pa n k false
      | .nowhere => (([], false), r.failXl va xlAccess k)
    else if isLocal r.s pa then readHome r va (paOff pa) n k (fun r _ => (([], false), r.waits id))
    else readAway r va pa n k alloc
  if !isHost pa && isLocal r.s pa then readHome r va (paOff pa) n k plain else plain r pa

/-- The bytes of a range, cut at line boundaries: virtual address and length of each piece. -/
def pieces : Nat → Nat → Nat → List (Nat × Nat)
  | 0, _, _ => []
  | fuel + 1, va, n =>
    if n = 0 then [] else
      let m := min n (64 - va % 64)
      (va, m) :: pieces fuel ((va + m) % 2 ^ 57) (n - m)

/-- The pieces of a range. -/
def cutRange (va n : Nat) : List (Nat × Nat) := pieces (n / 64 + 2) va n

/-- Translate for a run (R310 to R317). -/
def Run.translate (r : Run) (va : Nat) (k : Kindm) : Option (Nat × Bool) × Run :=
  let x := xlate r.s (readHeld r.s) r.core r.context va k
  match x.1 with
  | .ok pa nc _ =>
    (some (pa, nc), { r with s := noteXlate r.s r.core x
                             tlbCore := r.tlbCore + (match x.2 with | .part | .walk => 1 | _ => 0)
                             tlbPart := r.tlbPart + (match x.2 with | .walk => 1 | _ => 0) })
  | .fault c => (none, r.failXl va c k)
  | .wait l => (none, r.waits (fun b => askSeam b r.core r.unit r.ctx r.seq l))

/-- Read one piece of M-space. `alloc`: one of the reads of R243. -/
def readPiece (r : Run) (va n : Nat) (k : Kindm) (alloc : Bool) : Got × Run :=
  match r.translate va k with
  | (none, r1) => (([], false), r1)
  | (some (pa, nc), r1) =>
    let may : Bool := alloc && r.use && !nc && !isHost pa
    let hit := if may then cacheHit r1.s r.core r.context pa else none
    let r2 := { r1 with rd := r1.rd + n }
    match hit with
    | some l => ((cut l.data pa n, false), r2)
    | none =>
      if may then
        let g := readPa { r2 with misses := r2.misses + 1 } va (pa / 64 * 64) 64 k true
        (((if g.1.1.isEmpty then [] else cut g.1.1 pa n), g.1.2),
         if g.2.going && !g.1.2 then { g.2 with s := sendFill g.2.s r.core r.context pa g.1.1 } else g.2)
      else readPa r2 va pa n k false

/-- Read M-space. Every piece is asked for before a run waits. -/
def Run.readM (r : Run) (va n : Nat) (k : Kindm) (alloc : Bool) : Got × Run :=
  if !r.going then ((zeroBytes n, false), r)
  else (cutRange va n).foldl (fun (a : Got × Run) p =>
    let g := readPiece a.2 p.1 p.2 k alloc
    ((a.1.1 ++ g.1.1, a.1.2 || g.1.2), g.2)) (([], false), r)

/-! ### Writing -/

/-- Put bytes at their place in a line of zeros, with their mask. -/
def placeInLine (pa : Nat) (data : List Byte) : List Byte × Nat :=
  ((List.range 64).map (fun i => if pa % 64 ≤ i ∧ i < pa % 64 + data.length then nth 0 data (i - pa % 64) else 0),
   (2 ^ data.length - 1) * 2 ^ (pa % 64))

/-- A layer's line whose partition is away is left out; its slot misses it (R287). -/
def missFace (s : State) (off : Nat) : State :=
  { s with haul := s.haul.map (fun p => match faceSlot s p.2 (off / 64 * 64) with
      | some (i, o) =>
        let w := i * p.2.slotBytes + o
        (p.1, { p.2 with missed := if p.2.missed.contains w then p.2.missed else p.2.missed ++ [w] })
      | none => p) }

/-- Write bytes within one line of this hub's store (R239, R241, R244). -/
def writeHome (r : Run) (va off : Nat) (data : List Byte) (poison : Bool) : Run :=
  let s := r.s
  if refuses s (.tenant r.tid r.haul) .wr off then r.failXl va xlAccess .wr
  else match homePart s off with
    | none => r.failXl va xlAccess .wr
    | some h =>
      match roadTo s h off with
      | .held => r.waits id
      | .through => if r.haul then { r with s := missFace s off, wr := r.wr + data.length } else r.waits id
      | .lost => r.failXl va xlAccess .wr
      | .gone => { r with s := dropLine s r.core (localPa s off), wr := r.wr + data.length }
      | .open_ =>
        let line := off / 64
        let pl := placeInLine off data
        let s1 := dropLine s r.core (localPa s off)
        let s2 := if writeHeld s1 line then
            seamRequest s1 { SeamReq.plain .wrCur (.engine r.core r.unit r.ctx r.seq 0) line with data := pl.1, mask := pl.2, poison := poison }
          else lineWrite s1 line pl.1 pl.2 poison
        { r with s := s2, wr := r.wr + data.length, lines := r.lines ++ [(localPa s off, true)] }

/-- Write bytes within one line of another hub's store, or of host space that another hub carries (R375, R485). -/
def writeAway (r : Run) (va pa : Nat) (data : List Byte) : Run :=
  let s := r.s
  if !isHost pa && !windowCovers s r.tid (paHub pa) (paOff pa) .wr then r.failXl va xlAccess .wr
  else
    let dest := if isHost pa then (match hostRoad s (some r.tid) pa with | .hub h => some h | _ => none) else some (paHub pa)
    match dest with
    | none => r.failXl va xlAccess .wr
    | some h =>
      let pl := placeInLine pa data
      let s1 := dropLine s r.core pa
      { r with s := (request s1 (fun t => mkPacket s1 ptWrCur h t (pa / 64 * 64) pl.2 (partOfCore r.core) pl.1) (.write r.core r.unit r.ctx r.seq)).1
               wr := r.wr + data.length, remote := r.remote + 1
               uses := r.uses ++ (match choosePort s 0 h 0 with | some q => [(useKey 1 q 0, 64)] | none => []) }

/-- Write bytes within one line at a physical address. -/
def writePa (r : Run) (va pa : Nat) (data : List Byte) (poison : Bool) : Run :=
  if isHost pa then
    match hostRoad r.s (some r.tid) pa with
    | .link l =>
      if linkOut r.s l then r.waits id
      else { r with
                          s := bwHost (emit r.s (.hostWrite l (hostBus r.s l pa) data)) l 0 data.length
                          wr := r.wr + data.length, hostBytes := r.hostBytes + data.length
                          uses := r.uses ++ [(useKey 2 l 0, data.length)] }
    | .hub _ => writeAway r va pa data
    | .nowhere => r.failXl va xlAccess .wr
  else if isLocal r.s pa then writeHome r va (paOff pa) data poison
  else writeAway r va pa data

/-- Write M-space, piece by piece. -/
def Run.writeMp (r : Run) (va : Nat) (data : List Byte) (poison : Bool) : Run :=
  ((cutRange va data.length).foldl (fun (a : Run × List Byte) p =>
    if !a.1.going then a
    else match a.1.translate p.1 .wr with
      | (none, r1) => (r1, a.2)
      | (some (pa, _), r1) => (writePa r1 p.1 pa (a.2.take p.2) poison, a.2.drop p.2)) (r, data)).1

/-- Write M-space. -/
def Run.writeM (r : Run) (va : Nat) (data : List Byte) : Run := r.writeMp va data false

/-! ### Operands (Table 4.7) -/

/-- A resolved operand reference. -/
inductive Ref where
  | s (off : Nat)
  | c (off : Nat)
  | m (va : Nat)
  deriving DecidableEq, Repr

/-- The reference a 48-bit field names, with the counters as they stood at the push (R158); none for space 3 and for bits
that must be 0. -/
def refOf (counters : List W64) (f : Nat) : Option Ref :=
  match bits f 0 2 with
  | 0 => if bits f 27 21 = 0 then some (.s (bits f 2 25)) else none
  | 1 => if bits f 27 21 = 0 then some (.c (bits f 2 25)) else none
  | 2 => some (.m (unsigned 57 ((nth 0 counters (bits f 2 3)).toNat + signed 43 (bits f 5 43))))
  | _ => none

/-- A reference moved by a number of bytes. -/
def Ref.plus (f : Ref) (n : Nat) : Ref :=
  match f with
  | .s o => .s (o + n)
  | .c o => .c (o + n)
  | .m v => .m ((v + n) % 2 ^ 57)

/-- The bounds of R158 on a reference. -/
def Ref.inBounds (f : Ref) : Bool :=
  match f with
  | .s o => decide (o < sSize)
  | .c o => decide (o < cSize)
  | .m _ => true

/-- The reference's alignment value. -/
def Ref.addr (f : Ref) : Nat :=
  match f with
  | .s o => o
  | .c o => o
  | .m v => v

/-- Read an operand extent: bytes and poison. An extent past the end of S-space or C-space fails with RANGE. -/
def Run.read (r : Run) (f : Ref) (n : Nat) (alloc : Bool) : Got × Run :=
  if !r.going then ((zeroBytes n, false), r)
  else match f with
    | .s o => if sSize < o + n then ((zeroBytes n, false), r.fail errRange)
              else ((sBytes r.s r.core o n, sPoisoned r.s r.core o n), r)
    | .c o => if cSize < o + n then ((zeroBytes n, false), r.fail errRange)
              else ((cBytes r.s r.core o n, cPoisoned r.s r.core o n), r)
    | .m v => r.readM v n .rd alloc

/-- Read an operand that must not be poison (Table 4.11): its bytes as one little-endian number. -/
def Run.operand (r : Run) (f : Ref) (n : Nat) : Nat × Run :=
  let g := r.read f n true
  (leValue g.1.1, if g.1.2 then g.2.fail errPoison else g.2)

/-- Bytes that a command reads of its operands; poison fails it (Table 4.11). -/
def Run.bytes (r : Run) (f : Ref) (n : Nat) : List Byte × Run :=
  let g := r.read f n true
  (g.1.1, if g.1.2 then g.2.fail errPoison else g.2)

/-- Poison the words of a core's scratchpad, or of its cluster's buffer, that an extent touches (Table 15.2). -/
def poisonS (s : State) (core off n : Nat) : State :=
  { s with ras := { s.ras with poisonS := (wordsOf (core * sSize + off) n).foldl (fun t w => Tab.insert t w ()) s.ras.poisonS } }
def poisonC (s : State) (core off n : Nat) : State :=
  { s with ras := { s.ras with poisonC := (wordsOf (clusterOf core * cSize + off) n).foldl (fun t w => Tab.insert t w ()) s.ras.poisonC } }

/-- Write an output extent; poison travels with it. -/
def Run.writeP (r : Run) (f : Ref) (data : List Byte) (poison : Bool) : Run :=
  if !r.going then r
  else match f with
    | .s o => if sSize < o + data.length then r.fail errRange
              else { r with s := (let w := sWrite r.s r.core o data; if poison then poisonS w r.core o data.length else w) }
    | .c o => if cSize < o + data.length then r.fail errRange
              else { r with s := (let w := cWrite r.s r.core o data; if poison then poisonC w r.core o data.length else w) }
    | .m v => r.writeMp v data poison

/-- Write an output extent. -/
def Run.write (r : Run) (f : Ref) (data : List Byte) : Run := r.writeP f data false

end Sys2Proof.Machine
end

