-- ==== Sys2Proof/Machine/SyncBase.lean ====
section
/-! DEFINITION. Synchronisation objects at their home (ch. 3): what each operation does by the object's kind, who is granted,
and how an answer reaches its requester. -/

namespace Sys2Proof.Machine

/-! ### Statuses (Table 3.11) -/

def stOk : Nat := 0
def stTimeout : Nat := 1
def stAbandoned : Nat := 2
def stNotHolder : Nat := 3
def stDenied : Nat := 4
def stBadObj : Nat := 5
def stReset : Nat := 6
def stBusy : Nat := 7
def stLimit : Nat := 8
def stUnreachable : Nat := 9
def stReheld : Nat := 10
def stIndeterminate : Nat := 11
def stBadArg : Nat := 12
/-- QUEUED and BUSY_RETRY, which never reach a counter. -/
def stQueued : Nat := 254
def stBusyRetry : Nat := 255

/-- Hub, partition and index of a global name. -/
def objHub (n : Nat) : Nat := bits n 17 10
def objPart (n : Nat) : Nat := bits n 13 4
def objIndex (n : Nat) : Nat := bits n 0 13
/-- The key of an object of this hub. -/
def objKey (n : Nat) : Nat := objPart n * 6144 + objIndex n
/-- The global name of an object of this hub. -/
def objName (s : State) (k : Nat) : Nat := hubId s * 2 ^ 17 + k / 6144 * 2 ^ 13 + k % 6144

/-- A name holds a partition above 11, an index above 6,143 or a hub outside the domain (R122). -/
def badName (s : State) (n : Nat) : Bool :=
  decide (11 < objPart n) || decide (6143 < objIndex n) || !(objHub n == hubId s || (domainHubs s).contains (objHub n))

/-- An object of this hub. -/
def syncObj (s : State) (k : Nat) : SyncObj := Tab.getC SyncObj.empty s.sync.objs k

/-- Set an object. -/
def setObj (s : State) (k : Nat) (o : SyncObj) : State :=
  { s with sync := { s.sync with objs := Tab.setC SyncObj.empty s.sync.objs k o } }

/-- Waiter records in use in a partition's array (R130). -/
def waitersIn (s : State) (p : Nat) : Nat :=
  ((s.sync.objs.filter (fun e => e.1 / 6144 == p)).map (fun e => e.2.waiters.length)).sum

/-- A holder in 32 bits (R123). -/
def holderBits (w : Option Requester) : Nat :=
  match w with
  | none => 0
  | some (.thread hub part core ctx) => 2 ^ 31 + hub % 2 ^ 10 * 2 ^ 15 + part % 2 ^ 4 * 2 ^ 11 + core % 2 ^ 5 * 2 ^ 6 + ctx % 2 ^ 6
  | some (.host a) => 2 ^ 31 + 2 ^ 30 + a % 2 ^ 12

/-- The holder field of a lock's state word: an abandoned lock keeps its former holder with bit 31 clear (R133). -/
def holderField (o : SyncObj) : Nat :=
  match o.holder with
  | some w => holderBits (some w)
  | none => holderBits o.former % 2 ^ 31

/-- The state word of an object (Table 3.10). -/
def stateWord (s : State) (k : Nat) : Nat :=
  let o := syncObj s k
  let ctx := Tab.getC 0 s.sync.assigned k
  let w := min 65535 o.waiters.length
  match o.kind with
  | .semaphore => b2n o.overflow * 2 ^ 3 + ctx * 2 ^ 4 + o.count % 2 ^ 32 * 2 ^ 16 + w * 2 ^ 48
  | .barrier => 1 + ctx * 2 ^ 4 + o.parties % 2 ^ 16 * 2 ^ 16 + o.arrived % 2 ^ 16 * 2 ^ 32 + o.generation % 2 ^ 16 * 2 ^ 48
  | .lock => 2 + b2n o.abandoned * 2 ^ 2 + ctx * 2 ^ 4 + holderField o * 2 ^ 16 + w * 2 ^ 48
  | .event => 3 + ctx * 2 ^ 4 + b2n o.isSet * 2 ^ 16 + w * 2 ^ 48

/-! ### Answers -/

/-- Complete a command of a host queue with a status of Table 3.11 in its result. QUEUED leaves it waiting, BUSY_RETRY lets it
start again (R130). -/
def answerQueue (s : State) (queue cid status : Nat) : State :=
  if status = stQueued then s
  else { s with queues := Tab.upd HostQueue.empty s.queues queue (fun q => { q with cmds := q.cmds.map (fun c =>
    if c.opcode = 6 ∧ c.cid = cid ∧ c.waiting ∧ c.complete.isNone then
      if status = stBusyRetry then { c with waiting := false, started := false }
      else { c with waiting := false, complete := some (0, 0, status), doneAt := s.now }
    else c) }) }

/-- The free acquisition of a HAUL is answered (R292): granted, to be repeated (R130), or refused, which ends the HAUL. -/
def answerHaul (s : State) (core tag status : Nat) : State :=
  { s with haulRuns := s.haulRuns.map (fun r =>
      if r.core = core ∧ r.asked ∧ !r.granted ∧ r.waitTag = tag then
        if status = stOk then { r with granted := true }
        else if status = stBusyRetry then { r with asked := false }
        else { r with asked := false, stopping := true }
      else r) }

/-- The acquire that a tag names is a HAUL's. -/
def haulTag (s : State) (core tag : Nat) : Bool := s.haulRuns.any (fun r => r.core == core && r.asked && r.waitTag == tag)

/-- An answer for a thread of this hub is on its way (R108); BUSY_RETRY makes it repeat (R130). -/
def answerThread (s : State) (core ctx tag status word : Nat) : State :=
  if status = stQueued then s
  else if haulTag s core tag then answerHaul s core tag status
  else updThread s core ctx (fun t => { t with sync := t.sync.map (fun o =>
    if o.tag ≠ tag ∨ o.answer.isSome then o
    else if status = stBusyRetry then { o with retrying := true, outstanding := false }
    else { o with answer := some (status, word), outstanding := false }) })

/-- The result that a hub sends for a synchronisation operation (Table 13.4). -/
def syncResult (s : State) (k tag status : Nat) : Packet :=
  mkPacket s ptSyncRes 0 tag 0 status 15 (leBytes 8 (stateWord s k) ++ leBytes 8 0)

/-- Answer a synchronisation operation (R131, R455): a thread or host queue of this hub, or a packet to another hub, whose
result is entered in the result cache of the object's partition first. -/
def answerSync (s : State) (k : Nat) (who : Requester) (tag status : Nat) : State :=
  let away (a h : Nat) : State :=
    let p := { syncResult s k tag status with dst := h }
    let s1 := if status = stBusyRetry then s else enterResult s (k / 6144) a tag p
    send s1 p
  match who with
  | .thread hub part core ctx =>
    if hub = hubId s then answerThread s (part * 32 + core) ctx tag status (stateWord s k) else away hub hub
  | .host a =>
    match linkOfAgent s a with
    | some _ => answerQueue s (tag / 65536) (tag % 65536) status
    | none => match hubOfAgent s a with
      | some h => away a h
      | none => s

/-! ### Grants (R124, R125) -/

/-- Give a lock to a waiter or an acquirer. -/
def SyncObj.take (o : SyncObj) (who : Requester) : SyncObj := { o with holder := some who, former := none, abandoned := false }

/-- Grant the waiters that can now be granted, in arrival order. -/
def grantWaiters (k : Nat) : Nat → State → State
  | 0, s => s
  | fuel + 1, s =>
    let o := syncObj s k
    match o.waiters with
    | [] => s
    | w :: ws =>
      match o.kind with
      | .semaphore =>
        if w.imm ≤ o.count then
          grantWaiters k fuel (answerSync (setObj s k { o with count := o.count - w.imm, waiters := ws }) k w.who w.tag stOk)
        else s
      | .lock =>
        if o.holder.isNone then
          answerSync (setObj s k ({ o with waiters := ws }.take w.who)) k w.who w.tag (if o.abandoned then stAbandoned else stOk)
        else s
      | .event =>
        if o.isSet then grantWaiters k fuel (answerSync (setObj s k { o with waiters := ws }) k w.who w.tag stOk) else s
      | .barrier => s

/-- Let waiters through after a change of the object. -/
def regrant (s : State) (k : Nat) : State := grantWaiters k ((syncObj s k).waiters.length + 1) s

/-- An arrival at a barrier that releases its generation answers every waiter (Table 3.7). -/
def releaseBarrier (s : State) (k : Nat) : State :=
  let o := syncObj s k
  o.waiters.foldl (fun a w => answerSync a k w.who w.tag stOk)
    (setObj s k { o with waiters := [], arrived := 0, generation := (o.generation + 1) % 2 ^ 16 })

/-- Queue a waiter, or answer BUSY_RETRY when no record is free (R130). -/
def queueWaiter (s : State) (k : Nat) (r : SyncReq) (o : SyncObj) : State :=
  let p := k / 6144
  if 16384 ≤ waitersIn s p then answerSync (raise s (F.SYNC_SEL_index.page + p) 0) k r.who r.tag stBusyRetry
  else
    let s1 := setObj s k { o with waiters := o.waiters ++ [{ who := r.who, tag := r.tag, imm := r.imm }] }
    let s2 := { s1 with sync := { s1.sync with high := Tab.setC 0 s1.sync.high p (max (Tab.getC 0 s1.sync.high p) (waitersIn s1 p)) } }
    answerSync s2 k r.who r.tag stQueued

/-- Locks a requester of this hub already holds. -/
def heldBy (s : State) (who : Requester) : Nat :=
  match who with
  | .thread hub part core ctx => if hub = hubId s then (thread s (part * 32 + core) ctx).held.length else 0
  | .host _ => 0

/-- WAIT (Table 3.7, R128). -/
def applyWait (s : State) (k : Nat) (r : SyncReq) : State :=
  let o := syncObj s k
  match o.kind with
  | .semaphore =>
    if o.waiters.isEmpty && decide (r.imm ≤ o.count) then answerSync (setObj s k { o with count := o.count - r.imm }) k r.who r.tag stOk
    else queueWaiter s k r o
  | .barrier =>
    if o.arrived + 1 = o.parties then answerSync (releaseBarrier s k) k r.who r.tag stOk
    else if 16384 ≤ waitersIn s (k / 6144) then queueWaiter s k r o
    else queueWaiter s k r { o with arrived := o.arrived + 1 }
  | .lock =>
    if o.holder = some r.who then answerSync s k r.who r.tag stReheld
    else if 8 ≤ heldBy s r.who then answerSync s k r.who r.tag stLimit
    else if o.holder.isNone && o.waiters.isEmpty then
      answerSync (setObj s k (o.take r.who)) k r.who r.tag (if o.abandoned then stAbandoned else stOk)
    else queueWaiter s k r o
  | .event =>
    if o.isSet && o.waiters.isEmpty then answerSync s k r.who r.tag stOk else queueWaiter s k r o

/-- A semaphore takes units; a count past 2^32 - 1 saturates and sets overflow (Table 3.7). -/
def postUnits (s : State) (k n : Nat) : State :=
  let o := syncObj s k
  let passed := decide (2 ^ 32 ≤ o.count + n)
  let s1 := setObj s k { o with count := min (2 ^ 32 - 1) (o.count + n), overflow := o.overflow || passed }
  regrant (if passed then raise s1 (F.SYNC_SEL_index.page + k / 6144) 1 else s1) k

/-- SIGNAL by kind: the status and the state (Table 3.7). `who` is none for a completion signal, which no lock takes. -/
def applySignalTo (s : State) (k : Nat) (who : Option Requester) (cond imm : Nat) : Nat × State :=
  let o := syncObj s k
  match o.kind with
  | .semaphore => (stOk, postUnits s k imm)
  | .barrier =>
    if o.arrived + 1 = o.parties then (stOk, releaseBarrier s k) else (stOk, setObj s k { o with arrived := o.arrived + 1 })
  | .lock =>
    if who.isSome ∧ o.holder = who then (stOk, regrant (setObj s k { o with holder := none }) k) else (stNotHolder, s)
  | .event =>
    if cond = 0 then (stOk, regrant (setObj s k { o with isSet := true }) k)
    else if cond = 1 then (stOk, setObj s k { o with isSet := false })
    else (stBadArg, s)

/-- SIGNAL, answered. -/
def applySignal (s : State) (k : Nat) (r : SyncReq) : State :=
  let x := applySignalTo s k (some r.who) r.cond r.imm
  answerSync x.2 k r.who r.tag x.1

/-- The kind a code names (Table 3.4). -/
def kindOf (c : Nat) : SyncKind :=
  match c with
  | 0 => .semaphore
  | 1 => .barrier
  | 2 => .lock
  | _ => .event

/-- SINIT (Table 3.7, R129): the status and the state. -/
def applySinitTo (s : State) (k kind imm : Nat) : Nat × State :=
  let o := syncObj s k
  if !o.waiters.isEmpty then (stBusy, s)
  else if (kind = 1 ∧ (imm = 0 ∨ 65535 < imm)) ∨ (kind = 3 ∧ 1 < imm) then (stBadArg, s)
  else (stOk, setObj s k { SyncObj.empty with
    kind := kindOf kind
    count := if kind = 0 then imm % 2 ^ 32 else 0
    parties := if kind = 1 then imm else 0
    isSet := kind == 3 && imm == 1 })

/-- SINIT, answered. -/
def applySinit (s : State) (k : Nat) (r : SyncReq) : State :=
  let x := applySinitTo s k r.cond r.imm
  answerSync x.2 k r.who r.tag x.1

/-- A waiter record is the one that a requester's tag names. -/
def Waiter.isOf (w : Waiter) (who : Requester) (tag : Nat) : Bool := decide (w.who = who) && w.tag == tag

/-- The tag of the wait that a cancel names: its own on this hub; a cancel from another hub carries it. -/
def cancelTag (r : SyncReq) : Nat :=
  match r.packet with
  | some _ => r.imm % 2 ^ 16
  | none => r.tag

/-- A queued wait leaves: a barrier arrival is withdrawn (Table 3.7), and waiters behind it may be granted. -/
def removeWaiter (s : State) (k : Nat) (who : Requester) (tag : Nat) : State :=
  let o := syncObj s k
  match takeFirst (fun w => w.isOf who tag) o.waiters with
  | none => s
  | some (_, ws) =>
    regrant (setObj s k { o with waiters := ws, arrived := if o.kind = .barrier then o.arrived - 1 else o.arrived }) k

/-- The agent under which another hub's requester is known to the result caches. -/
def Requester.agentAway (s : State) (w : Requester) : Option Nat :=
  match w with
  | .thread hub _ _ _ => if hub = hubId s then none else some hub
  | .host a => if (linkOfAgent s a).isSome then none else some a

/-- CANCEL (R127): TIMEOUT when the waiter is still queued; a grant already made is answered instead. A cancel from another
hub carries in imm the tag of its WAIT, whose stored result is the grant. -/
def applyCancel (s : State) (k : Nat) (r : SyncReq) : State :=
  if (syncObj s k).waiters.any (fun w => w.isOf r.who (cancelTag r)) then
    answerSync (removeWaiter s k r.who (cancelTag r)) k r.who r.tag stTimeout
  else match Requester.agentAway s r.who with
    | none => answerSync s k r.who r.tag stTimeout
    | some a =>
      let st := match storedResult s (k / 6144) a (r.imm % 2 ^ 16) with
        | some p => if p.word3 % 256 = stQueued then stTimeout else p.word3 % 256
        | none => stTimeout
      answerSync s k r.who r.tag st

/-- Mark a lock abandoned (R133): the head waiter is granted at once with ABANDONED. -/
def abandonLock (s : State) (k : Nat) : State :=
  let o := syncObj s k
  if o.kind = .lock then regrant (setObj s k { o with holder := none, former := o.holder <|> o.former, abandoned := true }) k else s

/-- ABANDON (R135): only when the holder is the named thread. -/
def applyAbandon (s : State) (k : Nat) (who : Requester) : State :=
  let o := syncObj s k
  if o.kind = .lock ∧ o.holder = some who then abandonLock s k else s

/-- An object returns to a semaphore of count 0; its waiters receive RESET (R136). -/
def resetObj (s : State) (k : Nat) : State :=
  (syncObj s k).waiters.foldl (fun a w => answerSync a k w.who w.tag stReset) (setObj s k SyncObj.empty)

/-- Apply an operation at the object's home. -/
def applySync (s : State) (op : SyncOpKind) (k : Nat) (r : SyncReq) : State :=
  match op with
  | .wait => applyWait s k r
  | .signal => applySignal s k r
  | .sinit => applySinit s k r
  | .sample => answerSync s k r.who r.tag stOk
  | .cancel => applyCancel s k r
  | .abandon => applyAbandon s k r.who

/-- The tenant check of R487 at the home: a request from another hub has passed R485 there. -/
def syncAllowed (s : State) (k : Nat) (r : SyncReq) : Bool :=
  let t := boundTid s (Tab.getC 0 s.sync.assigned k)
  match r.who with
  | .thread hub _ _ _ => hub != hubId s || (t.isSome && boundTid s r.context == t)
  | .host a => match linkOfAgent s a with
    | some l => t.isSome && (some (linkTenant s l) == t || boundTid s r.context == t)
    | none => true

/-- The requester-side check of R485 for an object of another hub: an object window of the tenant with the right sig. -/
def syncWindow (s : State) (tid name : Nat) : Bool :=
  s.eloan.windows.any (fun w => w.tid == tid && w.kind == 1 && w.hub == objHub name && w.wr && decide (w.first ≤ name) &&
    decide (name < w.first + w.count))

/-- Send an operation toward its object's home: on its way on this hub under a tag of the requester, or as a SyncOp packet to
another hub (R131). -/
def sendSync (s : State) (op : SyncOpKind) (who : Requester) (tag name cond imm context part : Nat) (why : ReqFor) : State :=
  if objHub name = hubId s then
    let r : SyncReq := { who := who, tag := tag, obj := objKey name, cond := cond, imm := imm, context := context, packet := none }
    { s with sync := { s.sync with flight := s.sync.flight ++ [(op, r)] } }
  else
    let code := match op with | .wait => 0 | .signal => 1 | .sinit => 2 | .sample => 3 | .cancel => 4 | .abandon => 5
    (request s (fun t => { mkPacket s ptSyncOp (objHub name) t 0 (name % 2 ^ 27 + code * 2 ^ 27 + cond % 4 * 2 ^ 30 + imm % 2 ^ 32 * 2 ^ 32) part
      (leBytes 16 (holderBits (some who))) with src := match who with | .host a => a | _ => hubId s }) why).1

end Sys2Proof.Machine
end

