-- ==== Sys2Proof/Machine/Instance.lean ====
section
/-! DEFINITION. Runs of a stream (ch. 2, 3, 15): completion, thread faults, aborts and the Wedges they send. -/

namespace Sys2Proof.Machine

/-! ### Threads of a run -/

/-- Core and context of a thread key. -/
def keyCore (k : Nat) : Nat := k / 64
def keyCtx (k : Nat) : Nat := k % 64

/-- A thread as the requester of a synchronisation operation. -/
def requesterOf (s : State) (core ctx : Nat) : Requester := .thread (hubId s) (partOfCore core) (core % 32) ctx

/-- Commands of a thread that an engine holds and that still count for it (R545). -/
def heldOf (s : State) (core ctx unit : Nat) : List Held :=
  (engineOf s core unit).held.filter (fun h => h.ctx == ctx && !h.aborted)

/-- A thread's queue of an engine and everything popped from it is empty. -/
def queueDone (s : State) (core ctx unit : Nat) : Bool :=
  (nth [] (thread s core ctx).queues (unit - 1)).isEmpty && (heldOf s core ctx unit).isEmpty

/-- Every command the thread pushed to the engines of a mask has completed. -/
def drained (s : State) (core ctx mask : Nat) : Bool :=
  (List.range 4).all (fun i => !bit mask i || queueDone s core ctx (i + 1))

/-- The run of a stream is complete (R103). -/
def runComplete (s : State) (x : Stream) : Bool :=
  x.threads.all (fun k => decide ((thread s (keyCore k) (keyCtx k)).state = .ended) && drained s (keyCore k) (keyCtx k) 15)

/-! ### Starting a run (R90, R100, R138, R547) -/

/-- Thread slots that a stream reserves. -/
def slotsOf (b : Budget) : Nat := (b.entries.filter (fun e => e.kind == 0)).foldl (fun a e => a + e.slots) 0

/-- Every thread of a stream is placed on a core in service of a partition that is up. -/
def threadsReady (s : State) (x : Stream) : Bool :=
  x.threads.length == slotsOf x.budget &&
    x.threads.all (fun k => partUp s (partOfCore (keyCore k)) && !(coreOf s (keyCore k)).fenced)

/-- Put the threads of a stream at the first word of a list, each after an acquire (R100, R249). -/
def launchThreads (s : State) (x : Stream) (pc pr : Nat) (path : Bool) : State :=
  x.threads.foldl (fun a k =>
    updThread (acquireCore a (keyCore k) x.budget.context) (keyCore k) (keyCtx k) (fun t =>
      { t with state := .run, pc := pc, counters := List.replicate 8 0, pr := pr, path := path, stack := [], held := [],
               modes := [0, 0, 0, 0], queues := [[], [], [], []], sync := none, drain := 0, switching := none, fetched := none,
               pushing := none })) s

/-- The trigger entry that gates a stream (R138). -/
def gateOf (s : State) (h : Nat) : Option Nat :=
  (List.range s.triggers.length).find? (fun i => match s.triggers[i]? with
    | some e => e.ringEntries != 0 && e.handle == h
    | none => false)

/-- Triggers of a gated stream's ring that no run has taken. -/
def untaken (s : State) (h : Nat) : Option Nat :=
  (gateOf s h).bind (fun i => (s.triggers[i]?).map (fun e => e.nextSeq - e.taken))

/-- A run that begins in this tick. -/
def newRun (tick first taken : Nat) : StreamRun :=
  { tick := tick, state := .running, path := false, progress := 0, atWatch := 0, late := false, cause := 0,
    recovered := false, recomputing := false, abortSeq := 0, farWait := 0, fabricWait := 0, hostWait := 0, exceeded := false,
    recovery := false, trigFirst := first, trigTaken := taken }

/-- The run that a stream's threads last held no longer holds them. -/
def RunState.over_ : RunState → Bool
  | .complete | .dropped => true
  | _ => false

/-- A stream's run has ended, or it has none. -/
def Stream.rests (x : Stream) : Bool := match x.run with | some r => r.state.over_ | none => true

/-- The runs of a stream that have ended, its last one among them. -/
def Stream.ended (x : Stream) : List StreamRun := x.done ++ x.run.toList

/-- Start the run of a tick; a stream without threads starts it complete (R103). -/
def startRun (s : State) (h tick : Nat) : State :=
  match streamOf s h with
  | none => s
  | some x =>
    let trig : Option (Nat × TriggerEntry) := (gateOf s h).bind (fun i => (s.triggers[i]?).map (fun e => (i, e)))
    let first := match trig with | some (_, e) => e.taken | none => 0
    let n := match trig with | some (_, e) => min e.maxTake (e.nextSeq - e.taken) | none => 0
    let s1 := match trig with | some (i, e) => { s with triggers := setNth s.triggers i { e with taken := e.taken + n } } | none => s
    let r := newRun tick first n
    let s2 := updStream s1 h (fun x => { x with
      done := x.ended, lastStart := tickNumber s + 1, pendingTicks := x.pendingTicks.drop 1
      run := some (if x.threads.isEmpty then { r with state := .complete } else r) })
    let s3 := { s2 with haul := s2.haul.map (fun e => if e.2.handle = h then (e.1, { e.2 with late := false }) else e) }
    launchThreads s3 x x.budget.primary 0 false

/-- A stream whose threads are free starts the oldest waiting run: one per tick, before D, none behind a recompute; a gated
one without triggers lets it go (R89, R90, R138, R547). -/
def startWaiting (s : State) (h : Nat) : State :=
  match streamOf s h with
  | none => s
  | some x =>
    match x.pendingTicks with
    | [] => s
    | t :: rest =>
      if x.suspended ∨ !x.redo.isEmpty ∨ !x.rests ∨ 3 ≤ s.tick.stage ∨ x.lastStart = tickNumber s + 1 ∨ !threadsReady s x then s
      else if untaken s h = some 0 then updStream s h (fun y => { y with pendingTicks := rest })
      else startRun s h t

/-- A late run of a drop_on_stall stream has become complete: the runs of earlier ticks that waited behind it are dropped with
its cause (R91). -/
def dropWaiting (s : State) (x : Stream) (r : StreamRun) : Stream :=
  if x.budget.dropOnStall && r.late then
    let n := tickNumber s
    { x with
      done := x.done ++ (x.pendingTicks.filter (fun t => decide (t < n))).map (fun t =>
        { newRun t 0 0 with state := .dropped, late := true, cause := r.cause })
      pendingTicks := x.pendingTicks.filter (fun t => decide (n ≤ t)) }
  else x

/-- A run that has become complete awaits its CLOSE, and its threads are PLACED again (R103, Table 3.2); a waiting run may
start behind it (R90). -/
def checkComplete (s : State) (h : Nat) : State :=
  match streamOf s h with
  | none => s
  | some x =>
    match x.run with
    | none => s
    | some r =>
      if decide (r.state = .running ∨ r.state = .stalled) && runComplete s x then
        startWaiting (updStream (x.threads.foldl (fun a k => updThread a (keyCore k) (keyCtx k) (fun t => { t with state := .placed }))
          (updRun s h (fun r => { r with state := .complete, recomputing := false }))) h (fun y => dropWaiting s y r)) h
      else s

/-- Add to the progress counter of a stream's run (R109). -/
def addProgress (s : State) (h n : Nat) : State :=
  updRun s h (fun r => { r with progress := min (2 ^ 32 - 1) (r.progress + n) })

/-- The partition of thread ordinal 0 of a stream (Table 17.1). -/
def partOfStream (x : Stream) : Nat := match x.threads with | k :: _ => partOfCore (keyCore k) | [] => 0

/-- An event attributed to a stream (Table 17.1). -/
def tallyStream (s : State) (h code qual : Nat) : State :=
  match streamOf s h with
  | none => s
  | some x => tally s { part := partOfStream x, code := code, qual := qual, tids := [tidOf s x.budget.context] }

/-! ### Fault records of threads (R120) -/

/-- What every record of a thread names. -/
def threadInfo (s : State) (core ctx pc cause detail page : Nat) : FaultInfo :=
  let th := thread s core ctx
  { cls := 2, cause := cause, page := page, detail := detail, context := streamCtx s th.handle, handle := th.handle,
    agent := hubId s, core := core, ctx := ctx, path := th.path, index := commandIndex s core ctx pc,
    job := (match streamOf s th.handle with | some x => x.budget.job | none => 0) }

/-! ### Aborts (R545 to R547) -/

/-- Send the cancel of an open wait, or nothing when no wait is open at a home (R127). -/
def cancelOpen (s : State) (core ctx : Nat) (o : OpenSync) : State :=
  let waitTag := match s.fabric.requests.find? (fun q => decide (q.purpose = .sync core ctx o.tag)) with
    | some q => q.packet.tag
    | none => 0
  if o.retrying && !o.outstanding then s
  else sendSync s .cancel (requesterOf s core ctx) o.tag o.obj 0 waitTag (streamCtx s (thread s core ctx).handle) (partOfCore core)
    (.sync core ctx o.tag)

/-- Send the abandon message of a lock to its home (R135). -/
def sendAbandon (s : State) (core ctx name : Nat) : State :=
  sendSync s .abandon (requesterOf s core ctx) 0 name 0 0 (streamCtx s (thread s core ctx).handle) (partOfCore core) .nobody

/-- Abandon the locks a thread holds and empty its held list (R133, R135). -/
def abandonHeld (s : State) (core ctx : Nat) : State :=
  updThread ((thread s core ctx).held.foldl (fun a n => sendAbandon a core ctx n) s) core ctx (fun t => { t with held := [] })

/-- A thread leaves its run: its wait is cancelled, a lock granted meanwhile is abandoned, its locks are abandoned, and words
that no engine has taken are discarded (R106, R545). -/
def leaveRun (s : State) (core ctx : Nat) : State :=
  let s1 := match (thread s core ctx).sync with
    | some o => if o.op = 0x0A then sendAbandon (cancelOpen s core ctx o) core ctx o.obj else s
    | none => s
  updThread (abandonHeld s1 core ctx) core ctx (fun t =>
    { t with sync := none, queues := [[], [], [], []], fetched := none, pushing := none, drain := 0, switching := none })

/-- Commands that engines hold for a thread no longer belong to its run (R545). -/
def orphanHeld (s : State) (core ctx : Nat) : State :=
  (List.range 4).foldl (fun a i => updEngine a core (i + 1) (fun e =>
    { e with held := e.held.map (fun h => if h.ctx = ctx then { h with aborted := true } else h) })) s

/-- The Haul entries of a stream's run are freed (R294), and its running HAULs end. -/
def dropHauls (s : State) (h : Nat) (residentToo : Bool) : State :=
  { s with haul := s.haul.filter (fun e => !(e.2.handle == h && (residentToo || !e.2.resident)))
           haulRuns := s.haulRuns.map (fun r => if (thread s r.core r.ctx).handle = h then { r with stopping := true } else r) }

/-- Send a Wedge to the hub set of a job (R467, R546), once for a job and tick. -/
def sendWedge (s : State) (job tick cause : Nat) : State :=
  if s.tick.wedged.contains (job, tick) then s
  else
    let hubs := jobHubs s job
    let p := mkPacket s ptWedge 0 0 0 0 15 (leBytes 16 (job % 2 ^ 32 + cause % 2 ^ 8 * 2 ^ 32 + hubId s * 2 ^ 40) ++ leBytes 16 tick)
    let s1 := spread { s with tick := { s.tick with wedged := s.tick.wedged ++ [(job, tick)] } } p 4 hubs
    raise s1 50 5

/-- A run that an abort still reaches: unpublished, not dropped and not aborted already. -/
def StreamRun.abortable (r : StreamRun) : Bool := decide (r.state ≠ .dropped ∧ r.state ≠ .recovering)

/-- A run as its abort leaves it: a recompute ends it, DROPPED with cause RECOVERY; else it awaits its recompute (R547). -/
def StreamRun.afterAbort (r : StreamRun) (seq : Nat) : StreamRun :=
  { r with state := if r.recovered then .dropped else .recovering, recomputing := false, recovery := true, abortSeq := seq, cause := 5 }

/-- The threads of a stream leave its run (R545). -/
def leaveAll (s : State) (x : Stream) : State :=
  x.threads.foldl (fun a k =>
    let b := orphanHeld (leaveRun a (keyCore k) (keyCtx k)) (keyCore k) (keyCtx k)
    updThread b (keyCore k) (keyCtx k) (fun t => { t with state := if t.state = .faulted then .faulted else .placed })) s

/-- Abort the unpublished runs of a stream that a test selects (R545). -/
def abortWhere (s : State) (h : Nat) (p : StreamRun → Bool) : State :=
  match streamOf s h with
  | none => s
  | some x =>
    let seq := s.tick.abortCount
    let hit := fun (r : StreamRun) => p r && r.abortable
    let now : Bool := match x.run with | some r => hit r | none => false
    let active : Bool := now && !x.rests
    let s1 := if active then leaveAll s x else s
    let s2 := updStream s1 h (fun y => { y with
      run := y.run.map (fun r => if hit r then r.afterAbort seq else r)
      done := (y.done.filter (fun r => !(hit r && !r.recovered))).map (fun r => if hit r then r.afterAbort seq else r)
      redo := y.redo ++ (y.done.filter (fun r => hit r && !r.recovered)).map (fun r => r.afterAbort seq) })
    let s3 := { s2 with tick := { s2.tick with abortCount := seq + 1 } }
    if now then dropHauls s3 h false else s3

/-- Abort every unpublished run of a stream. -/
def abortRun (s : State) (h : Nat) : State := abortWhere s h (fun _ => true)

/-- Abort every run of a job and tick on this hub (R96). -/
def abortJob (s : State) (job tick : Nat) : State :=
  s.tick.streams.foldl (fun a e =>
    if e.2.budget.job = job ∧ e.2.budget.multiHub then abortWhere a e.1 (fun r => r.tick == tick) else a) s

/-- Abort runs of a stream for a cause of this hub: a multi-hub run also sends its Wedge and aborts the job's other runs of
its tick (R545, R546). -/
def abortFor (s : State) (h cause : Nat) (p : StreamRun → Bool) : State :=
  match streamOf s h with
  | none => s
  | some x =>
    let hit := (x.ended.filter (fun r => p r && r.abortable && !r.recovered)).map StreamRun.tick
    let s1 := abortWhere s h p
    if x.budget.multiHub then
      hit.foldl (fun a t => if a.tick.wedged.contains (x.budget.job, t) then a else abortJob (sendWedge a x.budget.job t cause) x.budget.job t) s1
    else s1

/-- Whether the abort of a stream's run sends a Wedge: bit 1 of a record's actions. -/
def wedgeBit (s : State) (h : Nat) : Nat :=
  match streamOf s h with
  | some x => if x.budget.multiHub then 3 else 1
  | none => 1

/-- A thread faults (Table 3.9, R121): its code, INT_RAW of the CORE page, a fault record, and the abort of its run. -/
def threadFault (s : State) (core ctx code pc cause detail page pa va : Nat) : State :=
  let h := (thread s core ctx).handle
  let s1 := updThread s core ctx (fun t => { t with state := .faulted, fault := code })
  let s2 := raise s1 (corePage core) (if code = 4 then 0 else 2)
  let s3 := fault s2 { threadInfo s2 core ctx pc cause detail page with actions := wedgeBit s h, pa := pa, va := va }
  let cur := runTick s h
  abortFor s3 h 1 (fun r => r.tick == cur)

/-- A thread fault whose record has cause THREAD. -/
def plainFault (s : State) (core ctx code : Nat) : State :=
  threadFault s core ctx code (thread s core ctx).pc 0x000A code (corePage core) 0 0

/-! ### Issue -/

/-- A thread whose run may issue: running, or recovering in its recompute (R97, R104). -/
def runIssues (s : State) (h : Nat) : Bool :=
  match streamOf s h with
  | some x => (match x.run with | some r => decide (r.state = .running) && !x.suspended | none => false)
  | none => false

/-- A thread waits for its queues no longer, when they have drained (Table 3.2, R102). A drain for a cheaper-path switch
ends by CHEAPER_RESTART. -/
def wakeDrain (s : State) (core ctx : Nat) : State :=
  let t := thread s core ctx
  if t.state = .waitDrain ∧ t.switching.isNone ∧ drained s core ctx t.drain then
    updThread s core ctx (fun t => { t with state := .run, drain := 0 })
  else s

end Sys2Proof.Machine
end

