-- ==== Sys2Proof/Machine/HubAccess.lean ====
section
/-! DEFINITION. What the hub itself reads and writes in an address context: completion records (R75), argument rings (R139)
and the like. These accesses use no core's TLB and wait for no engine. -/

namespace Sys2Proof.Machine

/-- The TLB index that no core has: the hub's own translations walk every time. -/
def noCore : Nat := 384

/-- Write bytes within one line at a physical address of this hub as a tenant: none when the access is refused. Copies that
agents hold are first removed through the Seam. -/
def hubWriteLine (s : State) (tid pa : Nat) (data : List Byte) : Option State :=
  let off := paOff pa
  if refuses s (.tenant tid false) .wr off then none
  else match homePart s off with
    | none => none
    | some h =>
      if roadTo s h off = .through then none
      else
        let pl := placeInLine off data
        let line := off / 64
        if writeHeld s line ∨ lineHeld s line then
          some (seamRequest s { SeamReq.plain .wrCur .seam line with data := pl.1, mask := pl.2 })
        else some (lineWrite s line pl.1 pl.2 false)

/-- Write bytes within one line at any physical address as a tenant. -/
def tenantWrite (s : State) (tid pa : Nat) (data : List Byte) : Option State :=
  if isHost pa then
    match hostRoad s (some tid) pa with
    | .link l => some (bwHost (emit s (.hostWrite l (hostBus s l pa) data)) l 0 data.length)
    | .hub h =>
      let pl := placeInLine pa data
      some (request s (fun t => mkPacket s ptWrCur h t (pa / 64 * 64) pl.2 15 pl.1) .nobody).1
    | .nowhere => none
  else if isLocal s pa then hubWriteLine s tid pa data
  else if windowCovers s tid (paHub pa) (paOff pa) .wr then
    let pl := placeInLine pa data
    some (request s (fun t => mkPacket s ptWrCur (paHub pa) t (pa / 64 * 64) pl.2 15 pl.1) .nobody).1
  else none

/-- Write bytes at a virtual address of a context, as its tenant: none at the first refusal or translation fault, with what
was written before it standing. -/
def ctxWrite (s : State) (c va : Nat) (data : List Byte) : Option State :=
  ((cutRange (va % 2 ^ 57) data.length).foldl (fun (a : Option State × List Byte) p =>
    (a.1.bind (fun s => match (xlate s (fun _ => false) noCore c p.1 .wr).1 with
      | .ok pa _ _ => tenantWrite s (tidOf s c) pa (a.2.take p.2)
      | _ => none), a.2.drop p.2)) (some s, data)).1

/-- The physical addresses of the lines of a range of a context, when every page of it translates for a kind of access. -/
def ctxLines (s : State) (c va n : Nat) (k : Kindm) : Option (List Nat) :=
  (cutRange (va % 2 ^ 57) n).foldr (fun p acc =>
    match acc, (xlate s (fun _ => false) noCore c p.1 k).1 with
    | some l, .ok pa _ _ => some (pa :: l)
    | _, _ => none) (some [])

end Sys2Proof.Machine
end

