-- ==== Sys2Proof/Machine/Operands.lean ====
section
/-! DEFINITION. The operand forms of command words: which control words (Table 3.4) and engine words (Tables 3.6, 4.6, 4.12,
4.13, 6.3, 8.5, 9.8, 13.8) the sequencer accepts (R107), and the check of their references at the push (R158, R322). -/

namespace Sys2Proof.Machine

/-! ### Control words (Table 3.3) -/

/-- The fields of a control word. -/
structure Control where
  op : Nat
  ra : Nat
  cond : Nat
  imm : Nat
  disp : Nat
  obj : Nat
  timeout : Nat
  addr : Nat
  deriving DecidableEq, Repr

/-- Read a control word. -/
def control (w : Nat) : Control :=
  { op := wordOp w, ra := bits w 12 4, cond := bits w 16 4, imm := bits w 32 32, disp := bits w 64 32, obj := bits w 96 27,
    timeout := bits w 128 32, addr := bits w 192 64 }

/-- The reserved bits of a control word are 0. -/
def controlReserved (w : Nat) : Bool := bits w 20 12 == 0 && bits w 123 5 == 0 && bits w 160 32 == 0

/-- A field that an operation does not list is 0: which of ra, cond, imm, disp, obj, timeout and addr are listed. -/
def unlisted (c : Control) (ra cond imm disp obj timeout addr : Bool) : Bool :=
  (ra || c.ra == 0) && (cond || c.cond == 0) && (imm || c.imm == 0) && (disp || c.disp == 0) && (obj || c.obj == 0) &&
    (timeout || c.timeout == 0) && (addr || c.addr == 0)

/-- A control word obeys Table 3.4 (R107, R108). -/
def controlOk (w : Nat) : Bool :=
  let c := control w
  controlReserved w &&
  (match c.op with
  | 0x00 | 0x01 | 0x04 => unlisted c false false false false false false false
  | 0x02 | 0x03 => unlisted c false false false true false false false
  | 0x05 | 0x06 => unlisted c true false true false false false false && decide (c.ra ≤ 7)
  | 0x07 => unlisted c true false false true false false false && decide (c.ra ≤ 7)
  | 0x08 => unlisted c true true true true false false false && decide (c.ra ≤ 12) && decide (c.cond ≤ 5)
  | 0x09 => unlisted c true true true true true false false && decide (c.ra ≤ 7) && decide (c.cond ≤ 3)
  | 0x0A => unlisted c true false true false true true false && decide (c.ra ≤ 7)
  | 0x0B => unlisted c true true true false true false false && decide (c.ra ≤ 7) && decide (c.cond ≤ 1)
  | 0x0C => unlisted c false false true false false false false && decide (c.imm < 16)
  | 0x0D => unlisted c false false true false false false false
  | 0x0E => unlisted c true true true false false false true && decide (c.ra ≤ 7) && decide (c.cond ≤ 1)
  | 0x0F => unlisted c true true true false true false false && decide (c.ra ≤ 7) && decide (c.cond ≤ 3)
  | 0x10 => unlisted c false true true false false false false && decide (c.cond ≤ 3) && decide (c.imm < 16)
  | _ => false)

/-! ### Engine words -/

/-- The header of an engine word (Table 3.6). -/
structure Header where
  acq : Bool
  rel : Bool
  sigEn : Bool
  progInc : Nat
  bound : Nat
  sigObj : Nat
  deriving DecidableEq, Repr

/-- Read a header. -/
def header (w : Nat) : Header :=
  { acq := bit w 14, rel := bit w 15, sigEn := bit w 16, progInc := bits w 18 4, bound := bits w 22 12, sigObj := bits w 34 27 }

/-- A header obeys Table 3.6. -/
def headerOk (w : Nat) : Bool :=
  bits w 12 2 == 0 && !bit w 17 && bits w 61 3 == 0 && (bit w 16 || bits w 34 27 == 0)

/-- The space a reference names: 0 S, 1 C, 2 M. -/
def refSpace (f : Nat) : Nat := bits f 0 2

/-- A reference, apart from an M-space address: its space is one of those allowed, its upper bits and its bound (R158), and an
alignment. -/
def refStatic (f al : Nat) (spaces : List Nat) : Bool :=
  spaces.contains (refSpace f) &&
  (match refOf [] f with
  | none => false
  | some r => r.inBounds && (refSpace f == 2 || r.addr % al == 0))

/-- A flag-word offset used with fen 1 is 4-byte aligned (R168); every 21-bit offset is below 0x20_0000. -/
def flagWordOk (fen : Bool) (off : Nat) : Bool := !fen || off % 4 == 0

/-- An MMA word obeys Table 4.6. -/
def mmaOk (w : Nat) : Bool :=
  let fo := bits w 232 4
  let mode := bit w 236
  let init := bits w 237 2
  refStatic (bits w 64 48) 32 [0, 1, 2] && refStatic (bits w 112 48) 32 [0, 1, 2] && refStatic (bits w 160 48) 32 [0, 1, 2] &&
  decide (bits w 208 16 < 0x8000) && teOperand (bits w 224 4) && teOperand (bits w 228 4) && teOutput fo &&
  !(fo == 13 && mode) && decide (init ≤ 1) && (init == 0 || fo == (if mode then 0 else 13)) && bits w 241 15 == 0

/-- A VE word obeys Tables 4.12 and 4.13, R168 and R184. -/
def veOk (w : Nat) : Bool :=
  let op := wordOp w
  let s2 := bits w 112 48
  let fin := bits w 232 4
  let fo := bits w 236 4
  let fn := bits w 240 8
  let fen := bit w 249
  refStatic (bits w 64 48) 32 [0, 1, 2] && refStatic (bits w 160 48) 32 [0, 1, 2] && decide (1 ≤ bits w 208 24) &&
  bits w 250 6 == 0 &&
  (match op with
  | 0x01 => veInput fin && veOutput fo && decide (fn ≤ 13) && bits s2 21 27 == 0 && flagWordOk fen (bits s2 0 21)
  | 0x02 => veInput fin && veOutput fo && decide (fn % 128 ≤ 5) && refStatic s2 32 [0, 1, 2] && !fen
  | 0x03 => veInput fin && (veOutput fo || fo == 13) && decide (fn ≤ 2) && !fen
  | 0x04 => veInput fin && vqntOutput fo && (decide (10 ≤ fo) || fn == 0) && bits s2 21 27 == 0 && flagWordOk fen (bits s2 0 21)
  | 0x05 => fin == 13 && fo == 13 && fn == 0 && refStatic s2 32 [0, 1, 2] && !fen
  | 0x06 => fin == 13 && veOutput fo && fn == 0 && bits s2 21 27 == 0 && flagWordOk fen (bits s2 0 21)
  | 0x07 => fin == 0 && fo == 0 && decide (fn ≤ 1) && bits s2 37 11 == 0 && flagWordOk fen (bits s2 16 21)
  | _ => false)

/-- The SLOAD source reference (Table 6.3). -/
def sloadRef (w : Nat) : Nat := bits w 64 48

/-- An SE word obeys Table 6.3 (R211). -/
def seOk (w : Nat) : Bool :=
  let qd := decide (bits w 64 16 < 0x8000)
  let src := bits w 96 48
  let mode := bits w 80 2
  match wordOp w with
  | 0x01 => refStatic (sloadRef w) 32 [2] && bits w 112 144 == 0
  | 0x02 =>
    qd && bits w 82 14 == 0 && bits w 224 32 == 0 &&
    (match mode with
    | 0 => refStatic src 32 [2] && decide (1 ≤ bits w 144 32)
    | 1 => refStatic src 32 [0] && decide (1 ≤ bits w 144 32) && decide (bits w 144 32 ≤ 4096) && bits w 176 48 == 0
    | 2 => refStatic src 32 [0] && bits w 144 32 == 0 && bits w 176 48 == 0
    | _ => false)
  | 0x03 => qd && bits w 80 16 == 0 && refStatic src 32 [0] && decide (1 ≤ bits w 144 11) && decide (bits w 144 11 ≤ 1024) &&
      bits w 155 101 == 0
  | 0x04 => qd && bits w 80 16 == 0 && refStatic src 32 [0] && decide (1 ≤ bits w 144 7) && decide (bits w 144 7 ≤ 64) &&
      bits w 151 105 == 0
  | _ => false

/-- An ME word obeys Tables 8.5, 9.8 and 13.8; ME references need no alignment, an index array that of its indices (R322). -/
def meOk (w : Nat) : Bool :=
  let a := bits w 64 48
  let b := bits w 112 48
  let c := bits w 160 48
  match wordOp w with
  | 0x01 => refStatic a 1 [0, 1, 2] && refStatic b 1 [0, 1, 2] && decide (1 ≤ bits w 160 40) && bits w 200 56 == 0
  | 0x02 | 0x03 =>
    refStatic a (if bit w 245 then 8 else 4) [0] && refStatic b 1 [0, 1] && refStatic c 1 [2] && decide (1 ≤ bits w 208 24) &&
    decide (1 ≤ bits w 232 13) && decide (bits w 232 13 ≤ 4096) && bits w 246 10 == 0
  | 0x10 => refStatic a 1 [2] && refStatic b 1 [0] && refStatic c 1 [0] && decide (1 ≤ bits w 208 12) && bits w 229 27 == 0
  | 0x11 => decide (bits w 82 9 ≤ 256) && bits w 91 21 == 0 && refStatic b 1 [0] && refStatic c 1 [0] && bits w 208 48 == 0
  | 0x30 => refStatic a 1 [0, 2] && bits w 120 8 == 0 && bits w 160 96 == 0
  | 0x31 => refStatic a 1 [0, 2] && bits w 112 6 == 0 && bits w 120 8 == 0 && bits w 160 96 == 0
  | _ => false

/-- A word that faults nobody by its own bits (R107). -/
def wordOk (w : Nat) : Bool :=
  match wordUnit w with
  | 0 => controlOk w
  | 1 => headerOk w && wordOp w == 1 && mmaOk w
  | 2 => headerOk w && veOk w
  | 3 => headerOk w && seOk w
  | 4 => headerOk w && meOk w
  | _ => false

/-- The references of an engine word that must be 32-byte aligned (R158). -/
def alignedRefs (w : Nat) : List Nat :=
  match wordUnit w, wordOp w with
  | 1, _ => [bits w 64 48, bits w 112 48, bits w 160 48]
  | 2, 0x02 => [bits w 64 48, bits w 112 48, bits w 160 48]
  | 2, 0x05 => [bits w 64 48, bits w 112 48, bits w 160 48]
  | 2, _ => [bits w 64 48, bits w 160 48]
  | 3, 0x01 => [sloadRef w]
  | 3, _ => [bits w 96 48]
  | _, _ => []

/-- The push's check of M-space addresses, formed with the counters as they stand (R158). -/
def pushOk (counters : List W64) (w : Nat) : Bool :=
  (alignedRefs w).all (fun f => match refOf counters f with | some r => r.addr % 32 == 0 | none => false)

/-- add_pr adds the thread's pr to a HAUL's first when the word is pushed (Table 8.5). A sum that 16 bits cannot hold lies
above every last: it is kept as first 1 with last 0, which completes the command at once as R291 says. -/
def pushedWord (pr w : Nat) : Nat :=
  if wordUnit w = 4 ∧ wordOp w = 0x30 ∧ bit w 119 then
    let first := bits w 128 16 + pr
    if first < 65536 then setBits w 128 16 first else setBits w 128 32 1
  else w

end Sys2Proof.Machine
end

