-- ==== Sys2Proof/Machine/Flags.lean ====
section
/-! DEFINITION. The flags of Table 4.10: the sticky flags of an engine's page, the flag word of a command (R165), and the
errors of an engine's page (Tables 4.11, 6.11). -/

namespace Sys2Proof.Machine

/-- OR a command's flags into the engine's sticky flags; sat and bound newly set there latch INT_RAW bits 1 and 2 (R165,
Table 4.18). -/
def stickyFlags (s : State) (core unit flags : Nat) : State :=
  if unit = 1 ∨ unit = 2 then
    let r := if unit = 1 then F.TE_FLAGS_flags else F.VE_FLAGS_flags
    let old := getF s r core
    let s1 := setF s r core (old ||| flags)
    let s2 := if bit flags 0 && !bit old 0 then raise s1 (enginePage core unit) 1 else s1
    if bit flags 1 && !bit old 1 then raise s2 (enginePage core unit) 2 else s2
  else s

/-- OR a command's flags into its flag word in S-space. -/
def flagWord (s : State) (core off flags : Nat) : State :=
  sWrite s core off (leBytes 4 (leValue (sBytes s core off 4) ||| flags))

/-- The flags of a command are recorded as it completes; `fsa` is its flag word when fen is 1. -/
def recordFlags (s : State) (core unit flags : Nat) (fsa : Option Nat) : State :=
  let s1 := stickyFlags s core unit flags
  match fsa with
  | some off => flagWord s1 core off flags
  | none => s1

/-- Record an engine error in the page's ERR register and latch its interrupt (Tables 4.18, 4.19, 6.14). The ME has no page
of its own. -/
def recordError (s : State) (core unit ctx code tick : Nat) : State :=
  match unit with
  | 1 => raise (setF (setF (setF s F.TE_ERR_code core code) F.TE_ERR_context core ctx) F.TE_ERR_tick core tick) (enginePage core 1) 0
  | 2 => raise (setF (setF (setF s F.VE_ERR_code core code) F.VE_ERR_context core ctx) F.VE_ERR_tick core tick) (enginePage core 2) 0
  | 3 => raise (setF (setF (setF s F.SE_ERR_code core code) F.SE_ERR_context core ctx) F.SE_ERR_tick core tick) (enginePage core 3) 0
  | _ => s

end Sys2Proof.Machine
end

