-- ==== Sys2Proof/Machine/Engine.lean ====
section
/-! DEFINITION. What every engine does around a command (R113 to R116, R246, R250, R664, R665): the choice of a queue head,
its pop, the start of the command, and how a run of it ends. -/

namespace Sys2Proof.Machine

/-! ### Reservations and service (R83, R665) -/

/-- A field of a stream's reservation entry of a kind and unit. -/
def reserved (x : Stream) (kind unit res : Nat) : Nat :=
  match x.budget.entries.find? (fun e => e.kind == kind && e.unit == unit) with
  | some e => (match res with | 0 => e.a | 1 => e.b | _ => e.c)
  | none => 0

/-- What a stream has used of a resource in this tick. -/
def usedOf (x : Stream) (k : Nat) : Nat := Tab.getC 0 x.used k

/-- A stream uses a resource: past its reservation, its run has exceeded it (Table 2.9, OVERSUB). In the headroom a recovering
run may use any capacity (R97). -/
def charge (s : State) (h k n : Nat) : State :=
  updStream s h (fun x =>
    let u := usedOf x k + n
    { x with used := Tab.setC 0 x.used k u
             run := x.run.map (fun r => { r with
               exceeded := r.exceeded || (decide (reserved x (k / 256) (k / 4 % 64) (k % 4) < u) && !(r.recomputing && s.tick.stage == 3)) }) })

/-- Thread slots of a stream on a core. -/
def slotsOn (x : Stream) (core : Nat) : Nat := (x.threads.filter (fun k => keyCore k == core)).length

/-- Whether a stream's requests at an engine lie within its reservation. -/
def within (x : Stream) (core unit : Nat) : Bool :=
  unit != 1 || decide (usedOf x (useKey 0 (partOfCore core) 0) < reserved x 0 (partOfCore core) 0)

/-- A stream's weight at an engine (R665). -/
def weightAt (x : Stream) (core unit : Nat) : Nat :=
  if unit = 1 then (if within x core 1 then reserved x 0 (partOfCore core) 0 else 1) else slotsOn x core

/-- The service record of a stream at an engine. -/
def serviceOf (e : Engine) (h : Nat) : Service :=
  (e.service.find? (fun v => v.handle == h)).getD { handle := h, count := 0, last := 0, lastCtx := 63 }

/-- Set a stream's service record. -/
def Engine.serve (e : Engine) (v : Service) : Engine :=
  { e with service := v :: e.service.filter (fun x => x.handle != v.handle) }

/-! ### The choice of a head -/

/-- Popped commands an engine may hold (R664). -/
def heldLimit (unit : Nat) : Nat :=
  match unit with
  | 1 => 2
  | 2 => 4
  | 3 => 64
  | _ => 16

/-- A queue head that an engine could pop: the thread context, its stream, the entry. -/
structure Head where
  ctx : Nat
  handle : Nat
  entry : QueueEntry
  deriving DecidableEq, Repr

/-- The heads of an engine's 64 queues. -/
def headsOf (s : State) (core unit : Nat) : List Head :=
  (List.range 64).filterMap (fun c =>
    let t := thread s core c
    match nth [] t.queues (unit - 1) with
    | e :: _ => some { ctx := c, handle := t.handle, entry := e }
    | [] => none)

/-- The place of a stream's recovering run in the headroom: the earliest abort first (R97). -/
def headroomRank (s : State) (x : Stream) : Option Nat :=
  match x.run with
  | some r => if s.tick.stage = 3 ∧ r.recomputing then some r.abortSeq else none
  | none => none

/-- Stream a precedes stream b at an engine (R83, R97, R665): in the headroom the earlier abort; else within its reservation
first, then the lesser service count by weight, the one served longer ago, the lower handle. -/
def precedes (s : State) (core unit a b : Nat) : Bool :=
  match streamOf s a, streamOf s b with
  | some x, some y =>
    match headroomRank s x, headroomRank s y with
    | some i, some j => decide (i < j)
    | some _, none => true
    | none, some _ => false
    | none, none =>
    let e := engineOf s core unit
    let u := serviceOf e a
    let v := serviceOf e b
    if within x core unit ≠ within y core unit then within x core unit
    else
      let p := u.count * weightAt y core unit
      let q := v.count * weightAt x core unit
      if p ≠ q then decide (p < q) else if u.last ≠ v.last then decide (u.last < v.last) else decide (a < b)
  | some _, none => true
  | _, _ => false

/-- The first context in round-robin order after one. -/
def roundRobin (last : Nat) (cs : List Nat) : Option Nat :=
  match cs.find? (fun c => decide (last < c)) with
  | some c => some c
  | none => cs.head?

/-- The head that R115 chooses among some heads. -/
def chooseHead (s : State) (core unit : Nat) (hs : List Head) : Option Head :=
  match hs with
  | [] => none
  | a :: t =>
    let h := t.foldl (fun b x => if precedes s core unit x.handle b then x.handle else b) a.handle
    let mine := hs.filter (fun x => x.handle == h)
    match roundRobin (serviceOf (engineOf s core unit) h).lastCtx (mine.map Head.ctx) with
    | some c => mine.find? (fun x => x.ctx == c)
    | none => none

/-! ### The pop (R114) -/

/-- A queue's head is replaced by what lies behind it. -/
def dropHead (now : Nat) (q : List QueueEntry) : List QueueEntry :=
  match q with
  | _ :: e :: t => { e with headSince := now, monitored := false } :: t
  | _ => []

/-- Pop a head: the command is held until it completes. -/
def popHead (s : State) (core unit : Nat) (h : Head) : State × Held :=
  let e := engineOf s core unit
  let cmd : Held :=
    { seq := e.nextSeq, ctx := h.ctx, handle := h.handle, tick := runTick s h.handle, entry := h.entry, popped := s.now,
      done := false, aborted := false, cycles := 0, flags := 0, error := 0, variant := 0, pos := 0,
      latch := none }
  let s1 := updEngine s core unit (fun e => { e.serve { serviceOf e h.handle with last := e.grants + 1, lastCtx := h.ctx } with
    held := e.held ++ [cmd], nextSeq := e.nextSeq + 1, grants := e.grants + 1 })
  let s2 := updThread s1 core h.ctx (fun t => { t with
    queues := setNth t.queues (unit - 1) (dropHead s.now (nth [] t.queues (unit - 1))) })
  (samplePopped s2 core unit cmd.seq (tidOf s (streamCtx s h.handle)) h.entry, cmd)

/-! ### The start of a command (R246, R250 to R252) -/

/-- A held command may access memory: the entries of its queue before it have been carried out, in PROGRAM mode their writes
are performed, and with acq they have completed. In ADDRESS mode the model also starts commands of one queue in order. -/
def canStart (s : State) (core unit : Nat) (h : Held) : Bool :=
  let before := (engineOf s core unit).held.filter (fun x => x.ctx == h.ctx && decide (x.seq < h.seq))
  before.all (fun x => x.done && (!(header h.entry.word).acq || x.aborted)) &&
  (h.entry.address || !(openWrites s).any (fun w => w.1 == core && w.2.1 == unit && w.2.2.1 == h.ctx && decide (w.2.2.2 < h.seq)))

/-- The acquire of a command (R246): operand-cache lines of its context, and for the SE the cluster's bitmap lines (R228). -/
def acquireFor (s : State) (core unit : Nat) (h : Held) : State :=
  if (header h.entry.word).acq then
    let c := streamCtx s h.handle
    let s1 := acquireCore s core c
    if unit = 3 then { s1 with bitmaps := Tab.upd [] s1.bitmaps (clusterOf core) (fun l => l.filter (fun x => x.context != c)) } else s1
  else s

/-- The run of a held command. -/
def runOf (s : State) (core unit : Nat) (h : Held) : Run :=
  let c := streamCtx s h.handle
  { base := s, s := s, core := core, unit := unit, ctx := h.ctx, seq := h.seq, context := c, tid := tidOf s c,
    use := !h.entry.bypass, haul := unit == 4 && wordOp h.entry.word == 0x30, stop := .go, flags := 0, cycles := 0, variant := h.variant, rd := 0, wr := 0, lines := [],
    misses := 0, tlbCore := 0, tlbPart := 0, hostBytes := 0, remote := 0, uses := [], badVa := 0, badKind := .rd }

/-! ### What a run leaves behind -/

/-- One line access at its home: whether it missed the home line cache is open (Table 7.1), so a free value says it. -/
def lineTraffic (s : State) (core unit h : Nat) (tid : Nat) (l : Nat × Bool) : State :=
  let off := paOff l.1
  let b := freeBelow s 2
  if b.1 = 0 then b.2
  else match homePart s off with
    | none => b.2
    | some home =>
      let far := decide (farBase ≤ off)
      let tids := match keyTid s off with | some t => if t = tid then [tid] else [tid, t] | none => [tid]
      let ev (code n : Nat) : TEvent :=
        { part := home, code := code, n := n, tids := tids, master := if unit = 0 then none else some (unit - 1), core := some (core % 32), addr := some l.1 }
      let s1 := tally b.2 (ev 0x14 1)
      let s2 := tally s1 (ev (if far then (if l.2 then 0x13 else 0x12) else (if l.2 then 0x11 else 0x10)) 64)
      let s3 := charge s2 h (useKey 0 home (if far then 2 else 1)) 64
      let w := freeBelow s3 (2 ^ 32)
      if far then updRun w.2 h (fun r => { r with farWait := r.farWait + w.1 }) else s3

/-- The events, reservations and waits of a run's accesses (R92, R593 to R595, R604). -/
def noteTraffic (r : Run) (h : Held) : State :=
  let core := r.core
  let ev (code qual n : Nat) : TEvent :=
    { part := partOfCore core, code := code, qual := qual, n := n, tids := [r.tid], master := some (r.unit - 1), core := some (core % 32) }
  let s1 := r.lines.foldl (fun a l => lineTraffic a core r.unit h.handle r.tid l) r.s
  let s2 := r.uses.foldl (fun a u => charge a h.handle u.1 u.2) s1
  let s3 := if r.misses = 0 then s2 else tally s2 (ev 0x07 0 r.misses)
  let s4 := if r.tlbCore = 0 then s3 else tally s3 (ev 0x08 0 r.tlbCore)
  let s5 := if r.tlbPart = 0 then s4 else tally s4 (ev 0x08 1 r.tlbPart)
  let s6 := if r.hostBytes = 0 then s5 else tally s5 (ev 0x34 0 r.hostBytes)
  let s7 := if r.hostBytes = 0 then s6 else
    (let w := freeBelow s6 (2 ^ 32); updRun w.2 h.handle (fun x => { x with hostWait := x.hostWait + w.1 }))
  let remote := r.uses.any (fun u => u.1 / 256 == 1)
  let s8 := if remote then
    (let w := freeBelow s7 (2 ^ 32); updRun w.2 h.handle (fun x => { x with fabricWait := x.fabricWait + w.1 })) else s7
  sampleAccess s8 core r.unit h.seq r.rd r.wr h.entry

/-- Requests to other hubs count as they are sent (event 0x30), also when the command must wait. -/
def noteRemote (r : Run) (s : State) : State :=
  if r.remote = 0 then s
  else tally s { part := partOfCore r.core, code := 0x30, n := r.remote, tids := [r.tid], master := some (r.unit - 1), core := some (r.core % 32) }

/-- A run keeps what it has done so far: a command that must wait later goes on from here. -/
def Run.commit (r : Run) (h : Held) (f : Held → Held) : Run :=
  if !r.going then r
  else
    let s1 := updHeld (noteRemote r (noteTraffic r h)) r.core r.unit h.seq (fun x => f { x with flags := x.flags ||| r.flags, variant := r.variant })
    { r with base := s1, s := s1, remote := 0, lines := [], uses := [], misses := 0, tlbCore := 0, tlbPart := 0, hostBytes := 0, rd := 0, wr := 0 }

/-- An engine error (R166, R237, R331): what was written stays; the page and a fault record say it; the thread faults with
ENGINE, unless the command belonged to an aborted run. -/
def failCommand (s : State) (core unit : Nat) (h : Held) (code xl va : Nat) (k : Kindm) : State :=
  let s1 := recordError s core unit h.ctx code (h.tick % 2 ^ 32)
  let s2 := updHeld s1 core unit h.seq (fun x => { x with done := true, error := code })
  let s3 := if code = errXlate then noteFault s2 (streamCtx s h.handle) va xl k else s2
  let s4 := sampleDone (dropInbox s3 core unit h.seq) core unit h 1
  let cause := if code = errXlate then causeXlate else if code = errCheck then 0x0009 else 0x000B
  let detail := if code = errXlate then xl else if code = errCheck then unit else code
  if h.aborted then
    fault s4 { threadInfo s4 core h.ctx h.entry.pc cause detail (enginePage core unit) with va := va }
  else threadFault s4 core h.ctx 7 h.entry.pc cause detail (enginePage core unit) 0 va

/-- A stream is served at an engine (R665): its service count grows by the units it has used. -/
def addService (s : State) (core unit h n : Nat) : State :=
  updEngine s core unit (fun e => e.serve { serviceOf e h with count := (serviceOf e h).count + n })

/-- Array-busy cycles of a TE command (R148): TE_CYCLES, the event, the reservation and the service count. -/
def chargeArray (s : State) (core : Nat) (h : Held) (n : Nat) : State :=
  let s1 := tally (addWrapF s F.TE_CYCLES_cycles core n)
    { part := partOfCore core, code := 0x02, n := n, tids := [tidOf s (streamCtx s h.handle)], master := some 0, core := some (core % 32) }
  addService (charge s1 h.handle (useKey 0 (partOfCore core) 0) n) core 1 h.handle n

/-- A run ends: the command waits with what it asked for, has been carried out, or has failed. -/
def finishRun (r : Run) (h : Held) : State :=
  match r.stop with
  | .wait => noteRemote r r.base
  | .go =>
    let s0 := noteRemote r (noteTraffic r h)
    let s1 := if r.unit = 1 then chargeArray s0 r.core h r.cycles else s0
    updHeld (dropInbox s1 r.core r.unit h.seq) r.core r.unit h.seq (fun x => { x with
      done := true, flags := x.flags ||| r.flags, cycles := r.cycles, variant := r.variant })
  | .fail code xl => failCommand (noteRemote r (noteTraffic r h)) r.core r.unit h code xl r.badVa r.badKind

/-- Whether the command with a number has been carried out or is gone. -/
def carriedOut (s : State) (core unit seq : Nat) : Bool :=
  match heldCmd s core unit seq with
  | some h => h.done
  | none => true

/-- What an engine does with a command of an operation: the records it reads once as it starts, and its run. -/
structure Body where
  pre : Held → Run → List (List Byte) × Run
  main : Held → Run → Run

/-- Try a held command: it starts if it may, reads its records once, and runs. -/
def tryCommand (s : State) (core unit seq : Nat) (body : Body) : State :=
  match heldCmd s core unit seq with
  | none => s
  | some h =>
    if h.done then s
    else match h.latch with
      | some _ => finishRun (body.main h (runOf s core unit h)) h
      | none =>
        if !canStart s core unit h then s
        else
          let p := body.pre h (runOf (acquireFor s core unit h) core unit h)
          if !p.2.going then finishRun p.2 h
          else
            let h1 := { h with latch := some p.1 }
            let r := p.2.commit h (fun x => { x with latch := some p.1 })
            finishRun (body.main h1 r) h1

/-- Commands of an operation that an engine holds and has not carried out, in the order popped. -/
def undone (s : State) (core unit op : Nat) : List Nat :=
  ((engineOf s core unit).held.filter (fun h => !h.done && wordOp h.entry.word == op)).map Held.seq

/-- Take up held commands of an operation again, until one has been carried out. -/
def retryHeld (core unit : Nat) (body : Body) : List Nat → State → State × Bool
  | [], s => (s, false)
  | n :: t, s =>
    let s1 := tryCommand s core unit n body
    if carriedOut s1 core unit n then (s1, true) else retryHeld core unit body t s1

/-- The cores of an engine's partition run: the partition is up, the core is in service, the package has power for it
(Table 18.4). -/
def coreRuns (s : State) (core : Nat) : Bool :=
  partUp s (partOfCore core) && !(coreOf s core).fenced && decide (core < 384) && !memOnly s (partOfCore core) &&
    decide (s.pkg.state ≠ .quiescing ∧ s.pkg.state ≠ .quiesced)

/-- An engine row of the TE, VE or ME: a held command of the operation is taken up again, else the chosen head is popped and
run, when it is of the operation (R115, R664). -/
def engineRow (s : State) (core unit op : Nat) (may : State → Head → Bool) (body : Body) : State :=
  if !coreRuns s core then s
  else
    let r := retryHeld core unit body (undone s core unit op) s
    if r.2 then r.1
    else
      let s1 := r.1
      if heldLimit unit ≤ (engineOf s1 core unit).held.length then s1
      else match chooseHead s1 core unit ((headsOf s1 core unit).filter (may s1)) with
        | none => s1
        | some h =>
          if wordOp h.entry.word ≠ op then s1
          else
            let p := popHead s1 core unit h
            tryCommand p.1 core unit p.2.seq body

end Sys2Proof.Machine
end

