-- ==== Sys2Proof/Machine/Threads.lean ====
section
/-! DEFINITION. Thread sequencers (ch. 3): fetching, the control words, pushes into engine queues, and the operations that a
thread has open at synchronisation objects. -/

namespace Sys2Proof.Machine

/-! ### Fetch (R102, R107) -/

/-- A thread of a core may fetch or issue: it is in RUN, its run issues, its core is in service (R104, R97). -/
def mayIssue (s : State) (core ctx : Nat) : Bool :=
  decide ((thread s core ctx).state = .run) && runIssues s (thread s core ctx).handle

/-- The run of a fetch: unit 0, numbered by the thread context; it belongs to no queue and always uses the operand cache. -/
def fetchRun (s : State) (core ctx : Nat) : Run :=
  let c := streamCtx s (thread s core ctx).handle
  { base := s, s := s, core := core, unit := 0, ctx := ctx, seq := ctx, context := c, tid := tidOf s c,
    use := true, haul := false, stop := .go, flags := 0, cycles := 0, variant := 0, rd := 0, wr := 0, lines := [],
    misses := 0, tlbCore := 0, tlbPart := 0, hostBytes := 0, remote := 0, uses := [], badVa := 0, badKind := .fx }

/-- The thread that fetches next: one that may issue and holds no word. -/
def fetcher (s : State) (core : Nat) : Option Nat :=
  roundRobin (coreOf s core).lastIssued ((List.range 64).filter (fun c => mayIssue s core c && (thread s core c).fetched.isNone))

/-- The events and reserved bytes of a fetch. -/
def noteFetch (r : Run) (handle : Nat) : State :=
  let ev (code qual n : Nat) : TEvent :=
    { part := partOfCore r.core, code := code, qual := qual, n := n, tids := [r.tid], core := some (r.core % 32) }
  let s1 := r.lines.foldl (fun a l => lineTraffic a r.core 0 handle r.tid l) r.s
  let s2 := r.uses.foldl (fun a u => charge a handle u.1 u.2) s1
  let s3 := if r.misses = 0 then s2 else tally s2 (ev 0x07 0 r.misses)
  let s4 := if r.tlbCore = 0 then s3 else tally s3 (ev 0x08 0 r.tlbCore)
  if r.tlbPart = 0 then s4 else tally s4 (ev 0x08 1 r.tlbPart)

/-- A thread fetches its next word; a translation fault or poison faults it with FETCH, a bad word with BAD_WORD. -/
def fetchWord (s : State) (core ctx : Nat) : State :=
  let t := thread s core ctx
  let g := (fetchRun s core ctx).readM t.pc 32 .fx true
  match g.2.stop with
  | .wait => g.2.base
  | .fail _ xl =>
    let s1 := noteFault (dropInbox g.2.s core 0 ctx) g.2.context g.2.badVa xl .fx
    threadFault s1 core ctx 2 t.pc causeXlate xl (corePage core) 0 g.2.badVa
  | .go =>
    let s1 := dropInbox (noteFetch g.2 t.handle) core 0 ctx
    if g.1.2 then threadFault s1 core ctx 2 t.pc 0x000A 2 (corePage core) 0 t.pc
    else
      let w := leValue g.1.1
      if wordOk w then updThread s1 core ctx (fun t => { t with fetched := some w })
      else threadFault s1 core ctx 1 t.pc 0x000A 1 (corePage core) 0 0

def execCommandFetch (core : Nat) (s : State) : Host.Outcome State Fault Refusal :=
  .next (settle (if coreRuns s core then (match fetcher s core with | some c => fetchWord s core c | none => s) else s))

/-! ### Issue (R104, R108) -/

/-- The thread whose word issues next (R104). -/
def issuer (s : State) (core : Nat) : Option Nat :=
  roundRobin (coreOf s core).lastIssued ((List.range 64).filter (fun c => mayIssue s core c && (thread s core c).fetched.isSome))

/-- An address in the 57 bits of a pc. -/
def pcAdd (pc : Nat) (n : Int) : Nat := unsigned 57 ((pc : Int) + n)

/-- Target = address of this word + disp × 32 (Table 3.3). -/
def targetOf (pc disp : Nat) : Nat := pcAdd pc (32 * signed 32 disp)

/-- A word has issued: the core's round-robin moves on and the pc passes it. -/
def consumed (s : State) (core ctx : Nat) : State :=
  updThread (updCore s core (fun c => { c with lastIssued := ctx })) core ctx (fun t => { t with fetched := none, pc := pcAdd t.pc 32 })

/-- A control row: when the next word to issue has this operation, its action on the state in which it has issued, given
the address of the word. -/
def controlRow (s : State) (core op : Nat) (act : State → Nat → Nat → Control → State) : State :=
  if !coreRuns s core then s
  else match issuer s core with
    | none => s
    | some ctx =>
      match (thread s core ctx).fetched with
      | none => s
      | some w => if wordUnit w = 0 ∧ wordOp w = op then act (consumed s core ctx) ctx (thread s core ctx).pc (control w) else s

/-- Set a thread's pc. -/
def jumpTo (s : State) (core ctx pc : Nat) : State := updThread s core ctx (fun t => { t with pc := pc })

/-- A counter of a thread. -/
def counter (t : Thread) (n : Nat) : W64 := nth 0 t.counters n

/-- Write a counter of a thread. -/
def setCounter (s : State) (core ctx n v : Nat) : State :=
  updThread s core ctx (fun t => { t with counters := setNth t.counters n (BitVec.ofNat 64 v) })

/-- A 32-bit immediate, sign-extended to 64 bits. -/
def immSigned (c : Control) : Nat := unsigned 64 (signed 32 c.imm)

/-- END (Table 3.4, Table 3.9). -/
def endThread (s : State) (core ctx pc : Nat) : State :=
  let t := thread s core ctx
  if !t.held.isEmpty then threadFault s core ctx 5 pc 0x000A 5 (corePage core) 0 0
  else checkComplete (updThread s core ctx (fun t => { t with state := .ended })) t.handle

def execNop (core : Nat) (s : State) : Host.Outcome State Fault Refusal :=
  .next (settle (controlRow s core 0x00 (fun s _ _ _ => s)))

def execEnd (core : Nat) (s : State) : Host.Outcome State Fault Refusal :=
  .next (settle (controlRow s core 0x01 (fun s ctx pc _ => endThread s core ctx pc)))

def execJump (core : Nat) (s : State) : Host.Outcome State Fault Refusal :=
  .next (settle (controlRow s core 0x02 (fun s ctx pc c => jumpTo s core ctx (targetOf pc c.disp))))

/-- CALL: the return address is pushed; at depth 8 the thread faults with STACK. -/
def callWord (s : State) (core ctx pc : Nat) (c : Control) : State :=
  let t := thread s core ctx
  if 8 ≤ t.stack.length then threadFault s core ctx 3 pc 0x000A 3 (corePage core) 0 0
  else updThread s core ctx (fun t => { t with stack := t.pc :: t.stack, pc := targetOf pc c.disp })

def execCall (core : Nat) (s : State) : Host.Outcome State Fault Refusal :=
  .next (settle (controlRow s core 0x03 (fun s ctx pc c => callWord s core ctx pc c)))

/-- RET: pops the pc; at depth 0 it acts as END. -/
def retWord (s : State) (core ctx pc : Nat) : State :=
  match (thread s core ctx).stack with
  | [] => endThread s core ctx pc
  | a :: rest => updThread s core ctx (fun t => { t with pc := a, stack := rest })

def execRet (core : Nat) (s : State) : Host.Outcome State Fault Refusal :=
  .next (settle (controlRow s core 0x04 (fun s ctx pc _ => retWord s core ctx pc)))

def execSetc (core : Nat) (s : State) : Host.Outcome State Fault Refusal :=
  .next (settle (controlRow s core 0x05 (fun s ctx _ c => setCounter s core ctx c.ra (immSigned c))))

def execAddc (core : Nat) (s : State) : Host.Outcome State Fault Refusal :=
  .next (settle (controlRow s core 0x06 (fun s ctx _ c =>
    setCounter s core ctx c.ra ((counter (thread s core ctx) c.ra).toNat + immSigned c))))

/-- LOOP: a counter that is not 0 is decremented and the pc takes the target. -/
def loopWord (s : State) (core ctx pc : Nat) (c : Control) : State :=
  let v := counter (thread s core ctx) c.ra
  if v = 0 then s else jumpTo (setCounter s core ctx c.ra (v.toNat - 1)) core ctx (targetOf pc c.disp)

def execLoop (core : Nat) (s : State) : Host.Outcome State Fault Refusal :=
  .next (settle (controlRow s core 0x07 (fun s ctx pc c => loopWord s core ctx pc c)))

/-- A source of BRC (Table 3.5). -/
def brcSource (s : State) (core ctx ra : Nat) : Nat :=
  let t := thread s core ctx
  let run : Option StreamRun := match streamOf s t.handle with | some x => x.run | none => none
  match ra with
  | 8 => t.ordinal
  | 9 => t.pr
  | 10 => b2n t.path
  | 11 => (match run with | some r => r.trigTaken | none => 0)
  | 12 => (match run with | some r => r.trigFirst | none => 0)
  | n => (counter t n).toNat

/-- The comparison of BRC (Table 3.4) on 64-bit values. -/
def brcTest (cond a b : Nat) : Bool :=
  match cond with
  | 0 => a == b
  | 1 => a != b
  | 2 => decide (signed 64 a < signed 64 b)
  | 3 => decide (signed 64 b ≤ signed 64 a)
  | 4 => decide (a < b)
  | _ => decide (b ≤ a)

def execBrc (core : Nat) (s : State) : Host.Outcome State Fault Refusal :=
  .next (settle (controlRow s core 0x08 (fun s ctx pc c =>
    if brcTest c.cond (brcSource s core ctx c.ra) (immSigned c) then jumpTo s core ctx (targetOf pc c.disp) else s)))

/-! ### Words that wait for an object's home (R108, R122, R124, R485) -/

/-- The operation that a word's code sends. -/
def syncOpOf (op : Nat) : SyncOpKind :=
  match op with
  | 0x09 => .sample
  | 0x0A => .wait
  | 0x0B => .signal
  | _ => .sinit

/-- Send what a thread has open to the object's home. -/
def sendOpen (s : State) (core ctx : Nat) (o : OpenSync) : State :=
  sendSync s (syncOpOf o.op) (requesterOf s core ctx) o.tag o.obj o.cond o.imm (streamCtx s (thread s core ctx).handle) (partOfCore core)
    (.sync core ctx o.tag)

/-- BRS, WAIT, SIGNAL and SINIT: the operation goes to the object's home and the thread waits for its status. A name that is
no object's, or that no window of the tenant reaches, is answered at once. -/
def syncWord (s : State) (core ctx : Nat) (c : Control) : State :=
  let tid := tidOf s (streamCtx s (thread s core ctx).handle)
  if badName s c.obj then setCounter s core ctx c.ra stBadObj
  else if objHub c.obj ≠ hubId s ∧ !syncWindow s tid c.obj then
    setCounter (updThread s core ctx (fun t => if c.op = 0x0B then { t with held := t.held.filter (fun n => n != c.obj) } else t)) core ctx c.ra stDenied
  else
    let o : OpenSync :=
      { tag := s.sync.nextTag, op := c.op, obj := c.obj, ra := c.ra, cond := c.cond, imm := c.imm, disp := c.disp,
        timeout := c.timeout, since := s.now, retrying := false, outstanding := true, cancelled := false, answer := none }
    let s1 := { s with sync := { s.sync with nextTag := s.sync.nextTag + 1 } }
    sendOpen (updThread s1 core ctx (fun t => { t with state := .waitSync, sync := some o })) core ctx o

def execBrs (core : Nat) (s : State) : Host.Outcome State Fault Refusal :=
  .next (settle (controlRow s core 0x09 (fun s ctx _ c => syncWord s core ctx c)))

def execWait (core : Nat) (s : State) : Host.Outcome State Fault Refusal :=
  .next (settle (controlRow s core 0x0A (fun s ctx _ c => syncWord s core ctx c)))

def execSignal (core : Nat) (s : State) : Host.Outcome State Fault Refusal :=
  .next (settle (controlRow s core 0x0B (fun s ctx _ c => syncWord s core ctx c)))

def execSinit (core : Nat) (s : State) : Host.Outcome State Fault Refusal :=
  .next (settle (controlRow s core 0x0F (fun s ctx _ c => syncWord s core ctx c)))

/-- WAITQ: the thread waits until its queues of the selected engines have drained. -/
def waitqWord (s : State) (core ctx : Nat) (c : Control) : State :=
  if drained s core ctx (bits c.imm 0 4) then s
  else updThread s core ctx (fun t => { t with state := .waitDrain, drain := bits c.imm 0 4 })

def execWaitq (core : Nat) (s : State) : Host.Outcome State Fault Refusal :=
  .next (settle (controlRow s core 0x0C (fun s ctx _ c => waitqWord s core ctx c)))

def execProgress (core : Nat) (s : State) : Host.Outcome State Fault Refusal :=
  .next (settle (controlRow s core 0x0D (fun s ctx _ c => addProgress s (thread s core ctx).handle c.imm)))

/-- Requests the admission queue holds (R76). -/
def admissionRoom : Nat := 1024

/-- A request reaches the admission queue, or a full queue refuses it and sets INT_RAW bit 3 (R76). -/
def queueAdmission (s : State) (q : AdmRequest) : State × Bool :=
  if admissionRoom ≤ s.tick.queue.length then (raise s F.TICK_CTRL_role.page 3, false)
  else ({ s with tick := { s.tick with queue := s.tick.queue ++ [q] } }, true)

/-- LAUNCH (R110): the address is translated, the request queued; a translation that must wait leaves the word unissued. -/
def launchWord (s0 s : State) (core ctx : Nat) (c : Control) : State :=
  let cx := streamCtx s (thread s core ctx).handle
  let finish (s : State) (q : AdmRequest) : State :=
    let r := queueAdmission s q
    setCounter r.1 core ctx c.ra (if r.2 then 0 else 7)
  if c.cond = 1 then finish s (.withdraw (.launch core ctx) cx c.imm)
  else
    let t := (fetchRun s core ctx).translate (c.addr % 2 ^ 57) .rd
    match t.1, t.2.stop with
    | some (pa, _), _ => finish t.2.s (.enter (.launch core ctx) cx (some pa))
    | none, .wait => (match (xlate s0 (readHeld s0) core cx (c.addr % 2 ^ 57) .rd).1 with
        | .wait l => askSeam s0 core 0 ctx ctx l
        | _ => s0)
    | none, _ => finish t.2.s (.enter (.launch core ctx) cx none)

def execLaunch (core : Nat) (s : State) : Host.Outcome State Fault Refusal :=
  .next (settle (controlRow s core 0x0E (fun s' ctx _ c => launchWord s s' core ctx c)))

/-- QMODE (R113). -/
def qmodeWord (s : State) (core ctx : Nat) (c : Control) : State :=
  updThread s core ctx (fun t => { t with
    modes := (List.range 4).map (fun i => if bit c.imm i then bits c.cond 0 2 else nth 0 t.modes i) })

def execQmode (core : Nat) (s : State) : Host.Outcome State Fault Refusal :=
  .next (settle (controlRow s core 0x10 (fun s ctx _ c => qmodeWord s core ctx c)))

/-! ### Engine words (R112 to R114, R158) -/

/-- The entry that a push makes. -/
def entryOf (s : State) (t : Thread) (w : Nat) : QueueEntry :=
  let mode := nth 0 t.modes (wordUnit w - 1)
  { word := pushedWord t.pr w, counters := t.counters, address := bit mode 0, bypass := bit mode 1, pc := t.pc,
    tick := runTick s t.handle, pushed := s.now, phase := s.tick.phase, headSince := s.now, monitored := false }

/-- A thread's queue of a unit has room (R114). -/
def queueRoom (t : Thread) (unit : Nat) : Bool := decide ((nth [] t.queues (unit - 1)).length < 8)

/-- The push is accepted: the entry joins the queue and the pc passes the word. -/
def acceptPush (s : State) (core ctx w : Nat) : State :=
  updThread s core ctx (fun t => { t with
    queues := setNth t.queues (wordUnit w - 1) (nth [] t.queues (wordUnit w - 1) ++ [entryOf s t w])
    pushing := none, fetched := none, pc := pcAdd t.pc 32, state := .run })

/-- An engine word issues: a bad reference faults, a full queue makes the thread wait, else the push is accepted. -/
def pushWord (s : State) (core ctx w : Nat) : State :=
  let t := thread s core ctx
  let s1 := updCore s core (fun c => { c with lastIssued := ctx })
  if !pushOk t.counters w then threadFault s1 core ctx 1 t.pc 0x000A 1 (corePage core) 0 0
  else if queueRoom t (wordUnit w) then acceptPush s1 core ctx w
  else updThread s1 core ctx (fun t => { t with state := .waitQueue, pushing := some w, fetched := none })

def execEnginePush (core : Nat) (s : State) : Host.Outcome State Fault Refusal :=
  .next (settle (if !coreRuns s core then s else match issuer s core with
    | none => s
    | some ctx => match (thread s core ctx).fetched with
      | some w => if wordUnit w = 0 then s else pushWord s core ctx w
      | none => s))

/-- A thread in WAIT_QUEUE pushes its word again when the queue has room. -/
def retryPush (s : State) (core ctx : Nat) : State :=
  let t := thread s core ctx
  match t.pushing with
  | some w =>
    if t.state = .waitQueue ∧ coreRuns s core ∧ runIssues s t.handle ∧ queueRoom t (wordUnit w) then acceptPush s core ctx w else s
  | none => s

def execQueuePushRetry (core : Nat) (ctx : Nat) (s : State) : Host.Outcome State Fault Refusal :=
  .next (settle (retryPush s core ctx))

/-! ### The cheaper path (R102) -/

/-- A thread that has drained for a cheaper-path switch restarts on the cheaper list. -/
def cheaperRestart (s : State) (core ctx : Nat) : State :=
  let t := thread s core ctx
  match t.switching, streamOf s t.handle with
  | some sample, some x =>
    if t.state = .waitDrain ∧ t.sync.isNone ∧ drained s core ctx 15 then
      updThread s core ctx (fun t => { t with
        state := .run, pc := x.budget.cheaper, counters := List.replicate 8 0, path := true, pr := sample, stack := [],
        switching := none, drain := 0, fetched := none, pushing := none })
    else s
  | _, _ => s

def execCheaperRestart (core : Nat) (ctx : Nat) (s : State) : Host.Outcome State Fault Refusal :=
  .next (settle (cheaperRestart s core ctx))

/-! ### Answers (R108, R127, R128, R130) -/

/-- The test of BRS on a state word (Table 3.4, Table 3.10). -/
def brsTest (cond imm word : Nat) : Bool :=
  let kind := bits word 0 2
  match cond with
  | 0 => kind == 0 && decide (imm ≤ bits word 16 32)
  | 1 => kind == 3 && bit word 16
  | 2 => kind == 2 && !bit word 47
  | _ => kind == 2 && bit word 2

/-- A final status reaches a thread: its held list, its counter, its branch, and the state it leaves WAIT_SYNC for. -/
def deliverStatus (s : State) (core ctx : Nat) (o : OpenSync) (status0 word : Nat) : State :=
  let t := thread s core ctx
  let isLock := bits word 0 2 == 2
  let granted := o.op == 0x0A && isLock && (status0 == stOk || status0 == stAbandoned)
  let ninth := granted && decide (8 ≤ t.held.length)
  let status := if ninth then stLimit else status0
  let s0 := if ninth then sendSync s .signal (requesterOf s core ctx) o.tag o.obj 0 0 (streamCtx s t.handle) (partOfCore core) .nobody else s
  let taken := o.op == 0x09 && status == stOk && brsTest o.cond o.imm word
  let s1 := updThread s0 core ctx (fun t => { t with
    sync := none
    held := if granted && !ninth then t.held ++ [o.obj] else if o.op = 0x0B then t.held.filter (fun n => n != o.obj) else t.held
    pc := if taken then targetOf (pcAdd t.pc (-32)) o.disp else t.pc
    state := if t.state = .waitSync then .run else t.state })
  setCounter s1 core ctx o.ra status

/-- The answer on its way to a thread arrives. -/
def syncAnswer (s : State) (core ctx : Nat) : State :=
  match (thread s core ctx).sync with
  | some o => (match o.answer with | some (st, w) => deliverStatus s core ctx o st w | none => s)
  | none => s

def execSyncAnswer (core : Nat) (ctx : Nat) (s : State) : Host.Outcome State Fault Refusal :=
  .next (settle (syncAnswer s core ctx))

/-- Core cycles that can have passed in a span of the fabric timer: at the highest operating point (R611). -/
def mostCycles (s : State) (halfNs : Nat) : Nat := halfNs * (800 + 50 * topPoint s) / 2000

/-- A wait is cancelled as on its timeout (R127, R130): a cancel goes to the home, or the wait ends when no record of it is
queued. -/
def cancelWait (s : State) (core ctx : Nat) (o : OpenSync) : State :=
  if o.retrying && !o.outstanding && o.answer.isNone then deliverStatus s core ctx o stTimeout 0
  else cancelOpen (updThread s core ctx (fun t => { t with sync := some { o with cancelled := true } })) core ctx o

/-- A wait's timeout expires. -/
def waitTimeout (s : State) (core ctx : Nat) : State :=
  match (thread s core ctx).sync with
  | none => s
  | some o =>
    if o.op ≠ 0x0A ∨ o.timeout = 0 ∨ o.cancelled ∨ mostCycles s (s.now - o.since) < o.timeout * 1024 then s
    else cancelWait s core ctx o

def execWaitTimeout (core : Nat) (ctx : Nat) (s : State) : Host.Outcome State Fault Refusal :=
  .next (settle (waitTimeout s core ctx))

/-- A thread answered BUSY_RETRY repeats its operation (R130). -/
def syncRetry (s : State) (core ctx : Nat) : State :=
  match (thread s core ctx).sync with
  | some o =>
    if o.retrying && !o.outstanding && o.answer.isNone then
      sendOpen (updThread s core ctx (fun t => { t with sync := some { o with retrying := false, outstanding := true } })) core ctx o
    else s
  | none => s

def execSyncRetry (core : Nat) (ctx : Nat) (s : State) : Host.Outcome State Fault Refusal :=
  .next (settle (syncRetry s core ctx))

end Sys2Proof.Machine
end

