-- ==== Sys2Proof/Machine/Complete.lean ====
section
/-! DEFINITION. How engine commands end (ch. 3): completion in queue order with its signal and progress (R111, R116, R247),
watchdogs (R117, R118) and queue monitors (R119); flushes and fills of operand caches (R244, R245). -/

namespace Sys2Proof.Machine

/-! ### Clocks -/

/-- Core cycles of a partition in a span of the fabric timer at its present point (R611). -/
def cyclesAt (s : State) (part halfNs : Nat) : Nat := halfNs * (800 + 50 * (Tab.getC PowerPart.cold s.power part).point) / 2000

/-! ### Completion signals (R111) -/

/-- A completion signal's status was not OK: a fault record names the command. -/
def signalRecord (s : State) (core ctx pc : Nat) : State :=
  fault s (threadInfo s core ctx pc 0x000A 6 (corePage core))

/-- A completion signal faults its thread with BAD_SIGNAL, or leaves a record when the thread no longer runs. -/
def badSignal (s : State) (core ctx pc : Nat) : State :=
  if (thread s core ctx).state = .faulted then signalRecord s core ctx pc
  else threadFault s core ctx 6 pc 0x000A 6 (corePage core) 0 0

/-- Send the completion signal of a command (R111): applied at once on this hub, a SyncOp to another hub. The SyncOp names no
requester, so no lock takes it for a release. -/
def completionSignal (s : State) (core ctx pc name : Nat) : State :=
  let c := streamCtx s (thread s core ctx).handle
  if badName s name then signalRecord s core ctx pc
  else if objHub name = hubId s then
    let k := objKey name
    let req : SyncReq := { who := requesterOf s core ctx, tag := 0, obj := k, cond := 0, imm := 1, context := c, packet := none }
    if !partUp s (objPart name) || !syncAllowed s k req then signalRecord s core ctx pc
    else if (syncObj s k).kind = .lock then badSignal s core ctx pc
    else
      let r := applySignalTo s k none 0 1
      if r.1 = stOk then r.2 else signalRecord r.2 core ctx pc
  else if !syncWindow s (tidOf s c) name then signalRecord s core ctx pc
  else (request s (fun t => mkPacket s ptSyncOp (objHub name) t 0 (name + 2 ^ 27 + 2 ^ 32) (partOfCore core) (leBytes 16 0)) (.signal core ctx pc)).1

/-! ### Completion (R116, R247) -/

/-- The oldest command of a thread that an engine holds: completions take effect in queue order. -/
def oldestHeld (s : State) (core unit ctx : Nat) : Option Held := (engineOf s core unit).held.find? (fun h => h.ctx == ctx)

/-- The writes that a release covers are performed (R247): those of the command and of earlier entries of its queue. -/
def released (s : State) (core unit : Nat) (h : Held) : Bool :=
  !(header h.entry.word).rel ||
    !(openWrites s).any (fun w => w.1 == core && w.2.1 == unit && w.2.2.1 == h.ctx && decide (w.2.2.2 ≤ h.seq))

/-- Take a command out of its engine, and its query context with it. -/
def dropHeld (s : State) (core unit seq : Nat) : State :=
  let s1 := updEngine s core unit (fun e => { e with held := e.held.filter (fun h => h.seq != seq) })
  if unit = 3 then
    updCore s1 core (fun c => { c with search := { c.search with
      qctxs := c.search.qctxs.filter (fun q => q.2.heldSeq != seq)
      inserts := c.search.inserts.filter (fun i => !c.search.qctxs.any (fun q => q.1 == i.qctx && q.2.heldSeq == seq))
      chosen := if (heldCmd s core unit seq).any (fun h => wordOp h.entry.word == 1) then none else c.search.chosen } })
  else s1

/-- The service, busy cycles and count of a command that ends (R665, Table 17.1). -/
def noteDone (s : State) (core unit : Nat) (h : Held) : State :=
  let cyc := cyclesAt s (partOfCore core) (s.now - h.popped)
  let ev (code qual n : Nat) : TEvent :=
    { part := partOfCore core, code := code, qual := qual, n := n, tids := [tidOf s (streamCtx s h.handle)], master := some (unit - 1), core := some (core % 32) }
  let s1 := if unit = 1 then s else addService s core unit h.handle cyc
  let s2 := if unit = 2 then tally s1 (ev 0x03 0 cyc) else s1
  if h.error = 0 then tally s2 (ev 0x06 unit 1) else s2

/-- A command completes: its flags, its signal, its progress and its count toward WAITQ. A command of an aborted run, or one
that has failed, signals nobody and counts nowhere (R166, R545). -/
def completeCommand (s : State) (core unit ctx : Nat) : State :=
  match oldestHeld s core unit ctx with
  | none => s
  | some h =>
    if !h.done || !released s core unit h || !coreRuns s core || (unit == 4 && s.descriptors.any (fun d => d.blocks core h.seq)) then s
    else
      let s1 := noteDone (dropHeld (dropInbox s core unit h.seq) core unit h.seq) core unit h
      let s2 := if h.error = 0 then stickyFlags s1 core unit h.flags else s1
      if h.error ≠ 0 then s2
      else
        let s3 := sampleDone s2 core unit h (if h.aborted then 3 else 0)
        if h.aborted then s3
        else
          let hd := header h.entry.word
          let s4 := if hd.sigEn then completionSignal s3 core ctx h.entry.pc hd.sigObj else s3
          if (thread s4 core ctx).state = .faulted then s4
          else checkComplete (wakeDrain (addProgress s4 h.handle hd.progInc) core ctx) h.handle

def execCommandComplete (core : Nat) (unit : Nat) (ctx : Nat) (s : State) : Host.Outcome State Fault Refusal :=
  .next (settle (completeCommand s core unit ctx))

/-! ### Watchdogs (R117, R118, R302) -/

/-- The watchdog bound of a command, in cycles. -/
def boundOf (s : State) (core : Nat) (h : Held) : Nat :=
  let b := (header h.entry.word).bound
  (if b = 0 then getF s F.CORE_WDOG_default_bound core else b) * 16384

/-- The watchdog of a HAUL runs only while a layer's copies run (R302). -/
def watched (s : State) (core unit : Nat) (h : Held) : Bool :=
  match s.haulRuns.find? (fun r => unit == 4 && r.core == core && r.seq == h.seq) with
  | some r => r.granted
  | none => true

/-- Descriptors of a stopped command that no packet carries end with it. -/
def stopDescriptors (s : State) (core seq : Nat) : State :=
  { s with descriptors := s.descriptors.filter (fun d => !(d.core == core && d.seq == seq && !d.remote)) }

/-- A watchdog expires: the engine stops the command; its queue is discarded and its thread faults with WDOG, unless the
command belonged to an aborted run (R118). -/
def watchdogExpire (s : State) (core unit seq : Nat) : State :=
  match heldCmd s core unit seq with
  | none => s
  | some h =>
    if h.error ≠ 0 || !coreRuns s core || !watched s core unit h || decide (mostCycles s (s.now - h.popped) < boundOf s core h) then s
    else
      let s1 := sampleDone (dropInbox s core unit seq) core unit h 2
      let s2 := stopDescriptors (dropHeld s1 core unit seq) core seq
      let s3 := { s2 with haulRuns := s2.haulRuns.filter (fun r => !(unit == 4 && r.core == core && r.seq == seq)) }
      if h.aborted then fault s3 (threadInfo s3 core h.ctx h.entry.pc 0x000A 4 (corePage core))
      else
        let s4 := updThread s3 core h.ctx (fun t => { t with queues := setNth t.queues (unit - 1) [] })
        threadFault s4 core h.ctx 4 h.entry.pc 0x000A 4 (corePage core) 0 0

def execWatchdogExpire (core : Nat) (unit : Nat) (seq : Nat) (s : State) : Host.Outcome State Fault Refusal :=
  .next (settle (watchdogExpire s core unit seq))

/-! ### Queue monitors (R119) -/

/-- A queue monitor fires for a head that has waited its limit, once for each head. -/
def qmonFire (s : State) (core ctx unit : Nat) : State :=
  match nth [] (thread s core ctx).queues (unit - 1) with
  | [] => s
  | e :: rest =>
    if unit = 0 || e.monitored || !coreRuns s core || decide (mostCycles s (s.now - e.headSince) < getF s F.CORE_QMON_limit core * 1024) then s
    else
      let h := (thread s core ctx).handle
      let s1 := updThread s core ctx (fun t => { t with queues := setNth t.queues (unit - 1) ({ e with monitored := true } :: rest) })
      let s2 := fault (raise s1 (corePage core) 1) (threadInfo s1 core ctx e.pc 0x000D 0 (corePage core))
      tally s2 { part := partOfCore core, code := 0x25, tids := [tidOf s2 (streamCtx s2 h)], master := some (unit - 1), core := some (core % 32) }

def execQmonFire (core : Nat) (ctx : Nat) (unit : Nat) (s : State) : Host.Outcome State Fault Refusal :=
  .next (settle (qmonFire s core ctx unit))

/-! ### The operand cache (R244, R245) -/

/-- A write of CORE_FLUSH.flush drops every line; the field reads 0 again once the drop has completed. -/
def coreFlush (s : State) (core : Nat) : State :=
  if pageDown s (corePage core) || !pageExists s (corePage core) then s else flushCore s core

def execCoreFlush (core : Nat) (s : State) : Host.Outcome State Fault Refusal := .next (settle (coreFlush s core))

/-- Lines an operand cache holds: 256 KiB (R242). -/
def opLinesMax : Nat := 4096

/-- The oldest fill of a core returns: it is installed unless an invalidation came first; the oldest line leaves a full
cache (R663 leaves the policy open). -/
def operandFill (s : State) (core : Nat) : State :=
  match (coreOf s core).fills with
  | [] => s
  | f :: rest =>
    updCore s core (fun c => { c with
      fills := rest
      opLines := if f.stale then c.opLines
        else
          let kept := c.opLines.filter (fun l => !(l.addr == f.line.addr && l.context == f.line.context))
          (kept ++ [f.line]).drop (kept.length + 1 - opLinesMax) })

def execOperandFill (core : Nat) (s : State) : Host.Outcome State Fault Refusal := .next (settle (operandFill s core))

end Sys2Proof.Machine
end

