-- ==== Sys2Proof/Machine/SyncOps.lean ====
section
/-! DEFINITION. Synchronisation operations as they reach their homes (R124 to R135), the readings of the SYNC pages, and remote
procedure triggers (R137 to R139). -/

namespace Sys2Proof.Machine

/-! ### Operations of this hub and of other hubs -/

/-- The requester that a SyncOp names in unit 2, in holder form (Table 13.4); a completion signal names none. -/
def requesterIn (p : Packet) : Requester :=
  let u := p.unit 2
  if 1024 ≤ p.src then .host p.src
  else if bit u 31 then .thread p.src (bits u 11 4) (bits u 6 5) (bits u 0 6)
  else .thread p.src 15 31 63

/-- The operation that a SyncOp's code names. -/
def syncCode (op : SyncOpKind) : Nat :=
  match op with
  | .wait => 0 | .signal => 1 | .sinit => 2 | .sample => 3 | .cancel => 4 | .abandon => 5

/-- The operation that a SyncOp carries. -/
def syncReqOf (p : Packet) : SyncReq :=
  { who := requesterIn p, tag := p.tag, obj := objKey (p.word3 % 2 ^ 27), cond := bits p.word3 30 2, imm := bits p.word3 32 32,
    context := 0, packet := some p }

/-- What the home does with an operation: an object that does not exist, a partition that is away, a refused context, or the
operation by the object's kind (R122, R132, R536). -/
def atHome (s : State) (op : SyncOpKind) (name : Nat) (r : SyncReq) : State :=
  if 11 < objPart name ∨ 6143 < objIndex name then answerSync s 0 r.who r.tag stBadObj
  else if !partUp s (objPart name) then answerSync s r.obj r.who r.tag stReset
  else if !syncAllowed s r.obj r then answerSync s r.obj r.who r.tag stDenied
  else applySync s op r.obj r

/-- A SyncOp from another hub (R455): a repeat of a stored result resends it; a result cache without room answers NO_ROOM. -/
def remoteSync (s : State) (op : SyncOpKind) (p : Packet) : State :=
  let r := syncReqOf p
  let name := p.word3 % 2 ^ 27
  let part := objPart name
  match (if op = .sample then none else storedResult s part p.src p.tag) with
  | some q => if resultDead s part p.src p.tag then s else send s q
  | none =>
    if op ≠ .sample ∧ rcSize ≤ (resultsOf s part).length then answer s p ptSyncRes 5 0 (leBytes 16 0)
    else if op = .sample then
      (match hubOfAgent s p.src with
      | none => s
      | some h =>
        let st := if 11 < part ∨ 6143 < objIndex name then stBadObj else if partUp s part then stOk else stReset
        send s { syncResult s r.obj p.tag st with dst := h })
    else atHome s op name r

/-- An operation reaches its home: from another hub as a packet, or from this hub as the oldest that its requester has on its
way to the object. -/
def syncop (s : State) (op : SyncOpKind) (req : SyncReq) : State :=
  match req.packet with
  | some p =>
    if bits p.word3 27 3 = syncCode op then delivered s p ptSyncOp (fun s => remoteSync s op p) else s
  | none =>
    match takeFirst (fun (e : SyncOpKind × SyncReq) => decide (e.2.who = req.who) && e.2.obj == req.obj) s.sync.flight with
    | none => s
    | some (e, rest) =>
      if e = (op, req) then atHome { s with sync := { s.sync with flight := rest } } op (objName s req.obj) req else s

def execSyncopWait (req : SyncReq) (s : State) : Host.Outcome State Fault Refusal := .next (settle (syncop s .wait req))

def execSyncopSignal (req : SyncReq) (s : State) : Host.Outcome State Fault Refusal := .next (settle (syncop s .signal req))

def execSyncopSinit (req : SyncReq) (s : State) : Host.Outcome State Fault Refusal := .next (settle (syncop s .sinit req))

def execSyncopSample (req : SyncReq) (s : State) : Host.Outcome State Fault Refusal := .next (settle (syncop s .sample req))

def execSyncopCancel (req : SyncReq) (s : State) : Host.Outcome State Fault Refusal := .next (settle (syncop s .cancel req))

def execSyncopAbandon (req : SyncReq) (s : State) : Host.Outcome State Fault Refusal := .next (settle (syncop s .abandon req))

/-! ### The state words and the waiter count (R123, Table 3.17) -/

/-- An 8-byte load of a state word; the array of a partition that is not up answers nothing. The load is an access to the store
(R123), not to management space: R499 hides what the SYNC page shows, not this. -/
def syncStateRead (s : State) (obj : Nat) : State :=
  if obj < 12 * 6144 ∧ partUp s (obj / 6144) then emit s (.word (stateWord s obj)) else s

def execSyncStateRead (obj : Nat) (s : State) : Host.Outcome State Fault Refusal := .next (settle (syncStateRead s obj))

/-- SYNC_WAITERS.clear: high becomes in_use. -/
def waitersClear (s : State) (part : Nat) : State :=
  if part < 12 ∧ partUp s part then
    { s with sync := { s.sync with high := Tab.setC 0 s.sync.high part (waitersIn s part) } }
  else s

def execSyncWaitersClear (part : Nat) (s : State) : Host.Outcome State Fault Refusal := .next (settle (waitersClear s part))

/-! ### Triggers (R137 to R140, R453, R488) -/

/-- The HUB_RPT page. -/
def rptPage : Nat := F.HUB_RPT_COUNT_entries.page

/-- The partition that receives a trigger and keeps its answer (R442); while it is away, the lowest-numbered up partition of
the same slice (Table 15.8). -/
def triggerPart (s : State) (entry : Nat) : Nat :=
  if partUp s (entry % 12) then entry % 12
  else ((range (entry % 12 / 6 * 6) 6).find? (partUp s)).getD (entry % 12)

/-- A slot of the argument ring (Table 3.13). -/
def triggerSlot (s : State) (p : Packet) (seq : Nat) : List Byte :=
  let len := bits p.word3 8 9
  leBytes 8 (tickNumber s) ++ leBytes 2 p.src ++ leBytes 2 p.tag ++ leBytes 2 len ++ leBytes 2 0 ++ leBytes 8 seq ++
    List.replicate 40 0 ++ (p.payload.take len) ++ List.replicate (448 - len) 0

/-- A trigger at a valid entry whose caller may use it. -/
def takeTrigger (s : State) (i : Nat) (e : TriggerEntry) (p : Packet) : Nat × State :=
  if e.ringEntries ≤ e.nextSeq - e.freed then (6, raise (addSatF s F.HUB_RPT_REFUSED_count 0 1) rptPage 0)
  else
    let s1 := (ctxWrite s (streamCtx s e.handle) (e.ring + e.nextSeq % e.ringEntries * 512) (triggerSlot s p e.nextSeq)).getD s
    (0, { s1 with triggers := setNth s1.triggers i { e with nextSeq := e.nextSeq + 1 } })

/-- A trigger arrives: a stored answer is sent again, an invalid entry and a caller outside its set are refused, a full ring
answers FULL. -/
def triggerArrives (s : State) (p : Packet) : State :=
  let i := bits p.word3 0 8
  let part := triggerPart s i
  match storedResult s part p.src p.tag with
  | some q => if resultDead s part p.src p.tag then s else send s q
  | none =>
    if rcSize ≤ (resultsOf s part).length then answer s p ptTrigRes 5 0 []
    else
      let r : Nat × State := match s.triggers[i]? with
        | none => (8, s)
        | some e =>
          if e.ringEntries = 0 ∨ (streamOf s e.handle).isNone then (8, s)
          else if !inGroup s e.callerSet p.src then (7, s)
          else takeTrigger s i e p
      match answerOf r.2 p ptTrigRes r.1 0 [] with
      | some q => send (enterResult r.2 part p.src p.tag q) q
      | none => r.2

def execTrigger (packet : Packet) (s : State) : Host.Outcome State Fault Refusal :=
  .next (settle (delivered s packet ptTrigger (fun s => triggerArrives s packet)))

end Sys2Proof.Machine
end

