-- ==== Sys2Proof/Machine/Bulk.lean ====
section
/-! DEFINITION. Bulk transfers between hubs (R450) and their compression (R186 to R205): what a hub sends, how a stream is cut,
coded and expanded, and where received bytes go. -/

namespace Sys2Proof.Machine

/-! ### Packets of a stream -/

/-- Unit 2 of a BulkGet or Place (Table 13.4). -/
def partUnit (off bytes : Nat) (first : Bool) (total : Nat) : List Byte :=
  leBytes 16 (off % 2 ^ 40 + bytes % 2 ^ 13 * 2 ^ 40 + (if first then 2 ^ 53 + total * 2 ^ 64 else 0))

/-- Cut bytes into payloads of at most 512 bytes. -/
def payloads : Nat → List Byte → List (List Byte)
  | 0, _ => []
  | fuel + 1, bs => if bs.isEmpty then [] else bs.take 512 :: payloads fuel (bs.drop 512)

/-- Send stream bytes from an offset as BulkData. -/
def sendStream (s : State) (peer number off : Nat) (bs : List Byte) (last coded : Bool) : State :=
  let ps := payloads (bs.length / 512 + 1) bs
  (List.range ps.length).foldl (fun a i =>
    let w := number % 2 ^ 16 + (off + 512 * i) % 2 ^ 40 * 2 ^ 16 + b2n (last && i + 1 == ps.length) * 2 ^ 56 + b2n coded * 2 ^ 57
    send a (mkPacket a ptBulkData peer 0 0 w 15 (nth [] ps i))) s

/-- The bulk bytes of a command leave toward another hub: event 0x31 and the port's reserved bytes (R74, R600). `len` is the
uncompressed length, `key` the tenant of the data. -/
def noteBulk (s : State) (x : SendXfer) (wire len : Nat) (key : Option Nat) : State :=
  if x.serves then s
  else
    let s1 := tally s { part := partOfCore x.core, code := 0x31, n := wire, tids := [tidOf s (streamCtx s x.handle)], master := some 3,
                        core := some (x.core % 32), raw := key.map (fun t => (t, len)) }
    match choosePort s 4 x.peer x.number with
    | some q => charge s1 x.handle (useKey 1 q 0) wire
    | none => s1

/-! ### Transfers this hub sends -/

/-- A transfer. -/
def findSend (s : State) (peer number : Nat) (serves : Bool) : Option SendXfer :=
  s.fabric.sends.find? (fun x => x.peer == peer && x.number == number && x.serves == serves)

/-- Change a transfer. -/
def updSend (s : State) (peer number : Nat) (serves : Bool) (f : SendXfer → SendXfer) : State :=
  updFabric s (fun g => { g with sends := g.sends.map (fun x =>
    if x.peer = peer ∧ x.number = number ∧ x.serves = serves then f x else x) })

/-- Remove a transfer. -/
def dropSend (s : State) (peer number : Nat) (serves : Bool) : State :=
  updFabric s (fun g => { g with sends := g.sends.filter (fun x => !(x.peer == peer && x.number == number && x.serves == serves)) })

/-- The I/O die of a transfer's egress port. -/
def xferDie (s : State) (peer number : Nat) : Nat := match choosePort s 4 peer number with | some q => sliceOf q | none => 0

/-- The class of the region at a store offset, and the bin of its key ID (R186, R203). -/
def classAt (s : State) (off : Nat) : Nat × Nat :=
  match regionOf s off with
  | some r => let e := regionEntry s r; (rgnClass e, (keyOf s (rgnKey e)).bin)
  | none => (0, 0)

/-- A transfer that begins: its class definition is the one in force now (R187). `src` is the store offset read from. -/
def newSend (s : State) (peer number : Nat) (serves : Bool) (core seq handle total : Nat) (src : Option Nat) : SendXfer :=
  let die := xferDie s peer number
  let c := match src with | some off => classAt s off | none => (0, 0)
  let cf := fun (r : FRef) => getF s (r.shift (8 * (c.1 - 1))) die
  let planes := if c.1 = 0 ∨ total < 4096 then 0 else cf F.NFAB_CMP_CLASSc_planes
  { peer := peer, number := number, serves := serves, core := core, seq := seq, handle := handle, die := die, total := total,
    planes := planes, stride := cf F.NFAB_CMP_CLASSc_stride, cap := cf F.NFAB_CMP_CLASSc_cap,
    bin := max (cf F.NFAB_CMP_CLASSc_bin) c.2, table := if planes = 0 then .raw else .sampling, tables := [], bytes := [], taken := 0,
    sent := 0, parts := [], seen := 0, path := 64 }

/-- The sampled segments among the bytes read (R187, R189). -/
def sampleOf (x : SendXfer) : List (List Byte) :=
  (((segmentsOf x.bytes).mapIdx (fun i g => (i, g))).filter (fun e => e.1 % 2 ^ x.stride == 0)).map Prod.snd |>.take x.cap

/-- One code table per plane, from the sample (R189). -/
def tablesOf (x : SendXfer) : List (List Nat) :=
  let P := planesOf x.planes
  (List.range P).map (fun p => codeLengths ((sampleOf x).flatMap (planeBytes P p)))

/-- The sample has been read, or no more of it can be read before the transfer moves on. -/
def sampleReady (s : State) (x : SendXfer) : Bool :=
  decide (min x.total (((x.cap - 1) * 2 ^ x.stride + 1) * 4096) ≤ x.bytes.length) || decide (64 ≤ x.seen) ||
    (!x.serves && decide (64 ≤ (s.descriptors.filter (fun d => d.core == x.core)).length))

/-- The egress port of a transfer's flow now. -/
def flowPath (s : State) (peer number : Nat) : Nat :=
  match s.fabric.flows.find? (fun f => f.cls == 4 && f.dst == peer && f.xfer == number) with
  | some f => f.egress
  | none => (choosePort s 4 peer number).getD 64

/-- A transfer goes on with what it has read: an uncompressed one sends it, a compressed one whose sample is read sends its
table set (R191, R194). -/
def advanceSend (s : State) (x : SendXfer) : State :=
  match x.table with
  | .raw =>
    if x.bytes.isEmpty then s
    else
      let last := decide (x.total ≤ x.taken + x.bytes.length)
      let s1 := noteBulk (sendStream s x.peer x.number x.taken x.bytes last false) x x.bytes.length x.bytes.length none
      if last then dropSend s1 x.peer x.number x.serves
      else updSend s1 x.peer x.number x.serves (fun y => { y with bytes := [], taken := y.taken + x.bytes.length, sent := y.sent + x.bytes.length })
  | .sampling =>
    if !sampleReady s x then s
    else
      let ts := tablesOf x
      let u := tableSetUnit x.planes x.bin x.total ts
      updSend (sendStream s x.peer x.number 0 u false true) x.peer x.number x.serves
        (fun y => { y with table := .asked, tables := ts, sent := u.length, path := flowPath s x.peer x.number })
  | _ => s

/-- Read part of the store for a peer: none when a line must wait; poison crosses as bytes the spec leaves open. -/
def readPart (s : State) (p : BulkPart) : Option (List Byte) × State :=
  let off := paOff p.addr
  let ls := linesOf off p.bytes
  match ls.find? (fun l => readGate s (readHeld s) (l * 64) == some true) with
  | some l => (none, if lineBusy s l then s else recallLine s l .recallClean)
  | none =>
    let dead := ls.any (fun l => lineDead s l)
    if dead then
      (some ((List.range p.bytes).map (fun i =>
        if lineDead s ((off + i) / 64) then BitVec.ofNat 8 (Config.freeNat (s.free + i)) else storeByte s (off + i))),
       { s with free := s.free + p.bytes })
    else (some (storeBytes s off p.bytes), s)

/-- Read the parts that a peer has asked for, in offset order, as far as lines can be read. -/
def pumpParts (peer number : Nat) : Nat → State → State
  | 0, s => s
  | fuel + 1, s =>
    match findSend s peer number true with
    | none => s
    | some x =>
      match x.parts with
      | [] => s
      | p :: rest =>
        match readPart s p with
        | (none, s1) => s1
        | (some bs, s1) =>
          let s2 := updSend s1 peer number true (fun y => { y with parts := rest, bytes := y.bytes ++ bs })
          pumpParts peer number fuel (match findSend s2 peer number true with | some y => advanceSend s2 y | none => s2)

/-- Bytes read for a command of this hub join its transfer. -/
def feedSend (s : State) (peer number : Nat) (bs : List Byte) : State :=
  let s1 := updSend s peer number false (fun y => { y with bytes := y.bytes ++ bs, seen := y.seen + 1 })
  match findSend s1 peer number false with
  | some y => advanceSend s1 y
  | none => s1

/-! ### The staging queue (R198 to R201) -/

/-- A compression stage. -/
def cmpDie (s : State) (d : Nat) : CmpDie := nth CmpDie.empty s.fabric.cmp d

/-- Change a compression stage. -/
def updCmp (s : State) (d : Nat) (f : CmpDie → CmpDie) : State :=
  updFabric s (fun g => { g with cmp := setNth g.cmp d (f (nth CmpDie.empty g.cmp d)) })

/-- Bytes a segment occupies (R198). -/
def occupies (g : Segment4k) : Nat := ceilDiv g.bytes.length 64 * 64 + 64

/-- Bytes held, and raw bytes waiting. -/
def stagedBytes (c : CmpDie) : Nat := (c.queue.map occupies).sum
def rawWaiting (c : CmpDie) : Nat := (c.queue.map (fun g => g.bytes.length)).sum

/-- Capacity of a staging queue. -/
def stagingSize : Nat := 2 ^ 23

/-- The watermarks in bytes: a low of high or more acts as high - 1. -/
def markHigh (s : State) (d : Nat) : Nat := getF s F.NFAB_CMP_WM_high d
def markLow (s : State) (d : Nat) : Nat := min (getF s F.NFAB_CMP_WM_low d) (markHigh s d - 1)

/-- The page of a compression stage. -/
def cmpPage (d : Nat) : Nat := F.NFAB_CMP_WM_high.page + d

/-- A segment joins the queue: pass-through begins when the level before it has reached the mark (R199). -/
def joinStage (s : State) (d : Nat) (g : Segment4k) : State :=
  let c := cmpDie s d
  let enter := !c.passing && decide (markHigh s d * 65536 ≤ rawWaiting c)
  let s1 := updCmp s d (fun c => { c with queue := c.queue ++ [g], passing := c.passing || enter })
  let s2 := if enter then raise s1 (cmpPage d) 0 else s1
  setF s2 F.NFAB_CMP_HIGH_high d (max (getF s2 F.NFAB_CMP_HIGH_high d) (stagedBytes (cmpDie s2 d)))

/-- A segment arrives from the switch: it joins, or its credit is withheld (R200). -/
def arriveStage (s : State) (d : Nat) (g : Segment4k) : State :=
  if stagedBytes (cmpDie s d) + occupies g ≤ stagingSize then joinStage s d g
  else raise (updCmp s d (fun c => { c with withheld := c.withheld ++ [g] })) (cmpPage d) 1

/-- The next segment of a compressed transfer, when its bytes have been read. -/
def nextSegment (x : SendXfer) : Option Segment4k :=
  match x.table with
  | .raw | .sampling => none
  | _ =>
    let left := x.total - x.taken
    let n := min 4096 left
    if n = 0 ∨ x.bytes.length < n then none
    else some { peer := x.peer, number := x.number, serves := x.serves, bytes := x.bytes.take n, last := n == left }

/-- SEGMENT_ENQUEUE: parts that wait are read, then a segment whose credit was withheld, else the next one, enters. -/
def segmentEnqueue (s : State) (d : Nat) : State :=
  let s0 := s.fabric.sends.foldl (fun a x => if x.serves ∧ x.die = d then pumpParts x.peer x.number (x.parts.length + 1) a else a) s
  match (cmpDie s0 d).withheld with
  | g :: rest =>
    if stagedBytes (cmpDie s0 d) + occupies g ≤ stagingSize then joinStage (updCmp s0 d (fun c => { c with withheld := rest })) d g else s0
  | [] =>
    match s0.fabric.sends.find? (fun x => x.die == d && (nextSegment x).isSome) with
    | none => s0
    | some x =>
      match nextSegment x with
      | none => s0
      | some g =>
        arriveStage (updSend s0 x.peer x.number x.serves (fun y => { y with
          bytes := y.bytes.drop g.bytes.length, taken := y.taken + g.bytes.length })) d g

def execSegmentEnqueue (die : Nat) (s : State) : Host.Outcome State Fault Refusal := .next (settle (segmentEnqueue s die))

/-- Send a segment's wire bytes on its transfer's stream. -/
def sendSegment (s : State) (d : Nat) (g : Segment4k) (stored : Bool) : State :=
  match findSend s g.peer g.number g.serves with
  | none => s
  | some x =>
    let wire := if stored then storedSegment x.planes x.bin g.bytes else codeSegment x.planes x.bin x.tables g.bytes
    let s1 := updCmp (sendStream s x.peer x.number x.sent wire g.last true) d (fun c =>
      { c with passing := c.passing && decide (markLow s d * 65536 < rawWaiting c) })
    let s2 := noteBulk s1 x wire.length g.bytes.length none
    if g.last then dropSend s2 x.peer x.number x.serves
    else updSend s2 x.peer x.number x.serves (fun y => { y with sent := y.sent + wire.length })

/-- A compressed transfer whose path has changed sends its table set again before any further coded segment (R195). -/
def renewTables (s : State) (x : SendXfer) : State :=
  let q := flowPath s x.peer x.number
  if (x.table = .ok ∨ x.table = .asked) ∧ q ≠ x.path ∧ q < 64 then
    updSend (sendStream s x.peer x.number 0 (tableSetUnit x.planes x.bin x.total x.tables) false true) x.peer x.number x.serves
      (fun y => { y with table := .asked, path := q })
  else s

/-- SEGMENT_ENCODE: in pass-through the oldest raw segment goes stored; else the oldest whose transfer has its answer is coded,
or sent stored after TABLE_BUSY (R194, R199). -/
def segmentEncode (s : State) (d : Nat) : State :=
  let c := cmpDie s d
  if c.passing then
    match c.queue with
    | [] => s
    | g :: rest => addSatF (sendSegment (updCmp s d (fun c => { c with queue := rest })) d g true) F.NFAB_CMP_PASS_passed d 1
  else
    let s := s.fabric.sends.foldl renewTables s
    let stateOf := fun (g : Segment4k) => (findSend s g.peer g.number g.serves).map SendXfer.table
    match takeFirst (fun g => decide (stateOf g = some .ok) || decide (stateOf g = some .busy)) c.queue with
    | none => s
    | some (g, rest) => sendSegment (updCmp s d (fun c => { c with queue := rest })) d g (decide (stateOf g = some .busy))

def execSegmentEncode (die : Nat) (s : State) : Host.Outcome State Fault Refusal := .next (settle (segmentEncode s die))

/-- NFAB_CMP_HIGH.clear sets high to total. -/
def cmpHighClear (s : State) (d : Nat) : State := if d < 2 then setF s F.NFAB_CMP_HIGH_high d (stagedBytes (cmpDie s d)) else s

def execNfabCmpHighClear (die : Nat) (s : State) : Host.Outcome State Fault Refusal := .next (settle (cmpHighClear s die))

/-- TABLE_OK lets the transfer code its segments; TABLE_BUSY makes it send every segment stored (R194). -/
def tableAns (s : State) (p : Packet) : State :=
  let n := p.word3 % 2 ^ 16
  updFabric s (fun g => { g with sends := g.sends.map (fun x =>
    if x.peer = p.src ∧ x.number = n ∧ x.table = .asked then { x with table := if p.status = 0 then .ok else .busy } else x) })

def execTableans (packet : Packet) (s : State) : Host.Outcome State Fault Refusal :=
  .next (settle (delivered s packet ptTableAns (fun s => tableAns s packet)))

/-! ### Transfers this hub receives -/

/-- A transfer that this hub receives. -/
def findRecv (s : State) (peer number : Nat) : Option RecvXfer := s.fabric.recvs.find? (fun x => x.peer == peer && x.number == number)

/-- Change a transfer that this hub receives. -/
def updRecv (s : State) (peer number : Nat) (f : RecvXfer → RecvXfer) : State :=
  updFabric s (fun g => { g with recvs := g.recvs.map (fun x => if x.peer = peer ∧ x.number = number then f x else x) })

/-- A transfer that begins to arrive. -/
def newRecv (s : State) (peer number : Nat) (reader : Option (Nat × Nat)) (total : Nat) : RecvXfer :=
  { peer := peer, number := number, reader := reader, die := xferDie s peer number, total := total, head := [], slots := 0, tables := none,
    headDone := false, stream := [], nextOffset := 0, expanded := 0, places := [], waiting := [] }

/-- What became of bytes written for another hub: written, refused, or waiting for the line's partition. -/
inductive WriteEnd where
  | written | refused | waits
  deriving DecidableEq, Repr

/-- Write bytes within one line for another hub (R482, R485, R533). -/
def remoteWrite (s : State) (peer pa : Nat) (data : List Byte) (poison : Bool) : WriteEnd × State :=
  let off := paOff pa
  if !isLocal s pa ∨ refuses s (.remote peer) .wr off then (.refused, s)
  else match homePart s off with
    | none => (.refused, s)
    | some h =>
      match roadTo s h off with
      | .held | .through => (.waits, s)
      | .lost => (.refused, s)
      | .gone => (.written, s)
      | .open_ =>
        let pl := placeInLine off data
        (.written, if writeHeld s (off / 64) then
            seamRequest s { SeamReq.plain .wrCur .seam (off / 64) with data := pl.1, mask := pl.2, poison := poison }
          else lineWrite s (off / 64) pl.1 pl.2 poison)

/-- Write bytes of a Place, line by line; those that must wait are kept. -/
def placeBytes (s : State) (x : RecvXfer) (tag pa : Nat) (data : List Byte) (poison : Bool) : State :=
  ((cutRange pa data.length).foldl (fun (a : State × List Byte) p =>
    let bs := a.2.take p.2
    let w := remoteWrite a.1 x.peer p.1 bs poison
    let s1 := match w.1 with
      | .waits => updRecv w.2 x.peer x.number (fun y => { y with waiting := y.waiting ++ [(p.1, bs, poison, tag)] })
      | r => updRecv w.2 x.peer x.number (fun y => { y with places := y.places.map (fun q =>
          if q.tag = tag then { q with done := q.done + bs.length, refused := q.refused || decide (r = .refused) } else q) })
    (s1, a.2.drop p.2)) (s, data)).1

/-- The part of a range [off, off + n) that lies in [lo, lo + m): its start and length. -/
def overlap (off n lo m : Nat) : Option (Nat × Nat) :=
  let a := max off lo
  let b := min (off + n) (lo + m)
  if a < b then some (a, b - a) else none

/-- Bytes of a transfer arrive for the Places of a peer. -/
def toPlaces (s : State) (x : RecvXfer) (off : Nat) (data : List Byte) (poison : Bool) : State :=
  x.places.foldl (fun a q => match overlap off data.length q.offset q.bytes with
    | some (o, n) => placeBytes a x q.tag (q.addr + (o - q.offset)) ((data.drop (o - off)).take n) poison
    | none => a) s

/-- Bytes of a transfer arrive for the descriptors of a command; bytes that do not follow those already there are not taken. -/
def toDescriptors (s : State) (x : RecvXfer) (core seq off : Nat) (data : List Byte) (poison : Bool) : State :=
  { s with descriptors := s.descriptors.map (fun d =>
      if d.core = core ∧ d.seq = seq ∧ d.xfer = x.number ∧ d.peer = x.peer ∧ d.remote ∧ d.data.length < d.len then
        match overlap off data.length (d.off + d.data.length) (d.len - d.data.length) with
        | some (o, n) =>
          if o = d.off + d.data.length then
            { d with data := d.data ++ (data.drop (o - off)).take n
                     bad := if poison then d.bad ++ [(d.data.length, n)] else d.bad }
          else d
        | none => d
      else d) }

/-- Bytes of a transfer at an offset reach where they go. -/
def deliverBytes (s : State) (x : RecvXfer) (off : Nat) (data : List Byte) (poison : Bool) : State :=
  match x.reader with
  | some (core, seq) => toDescriptors s x core seq off data poison
  | none => toPlaces s x off data poison

/-- A line of a Place still waits in the Seam. -/
def linesOpen (s : State) (q : PlaceRec) : Bool := (linesOf (paOff q.addr) q.bytes).any (lineBusy s)

/-- Places whose writes are all performed are answered with BulkDone (R450), and a transfer without more to do ends, freeing its
slots (R196). -/
def finishPlaces (s : State) (x : RecvXfer) : State :=
  let ready := x.places.filter (fun q => q.done == q.bytes && !linesOpen s q)
  let s1 := ready.foldl (fun a q =>
    send a { mkPacket a ptBulkDone x.peer q.tag 0 (x.number % 2 ^ 16 + q.done % 2 ^ 40 * 2 ^ 16) 15 [] with status := b2n q.refused }) s
  let s2 := updRecv s1 x.peer x.number (fun y => { y with places := y.places.filter (fun q => !ready.contains q) })
  updFabric s2 (fun g => { g with recvs := g.recvs.filter (fun y =>
    !(y.peer == x.peer && y.number == x.number && y.places.isEmpty && y.waiting.isEmpty && decide (y.total ≤ y.expanded))) })

/-- Take up again the writes of a transfer that waited for a partition. -/
def retryWaiting (s : State) (x : RecvXfer) : State :=
  x.waiting.foldl (fun a w => placeBytes a x w.2.2.2 w.1 w.2.1 w.2.2.1)
    (updRecv s x.peer x.number (fun y => { y with waiting := [] }))

/-- What follows any delivery: waiting writes, then BulkDones. -/
def settleRecvs (s : State) : State :=
  let s1 := s.fabric.recvs.foldl (fun a x => if x.waiting.isEmpty then a else retryWaiting a x) s
  s1.fabric.recvs.foldl finishPlaces s1

/-- PLACE: where bytes of a transfer go (R450). -/
def placeArrives (s : State) (p : Packet) : State :=
  let n := p.word3 % 2 ^ 16
  let u := p.unit 2
  let q : PlaceRec := { offset := bits u 0 40, bytes := bits u 40 13, addr := p.addr, tag := p.tag, done := 0, refused := false }
  let s1 := match findRecv s p.src n with
    | some _ => s
    | none => updFabric s (fun g => { g with recvs := g.recvs ++ [newRecv s p.src n none (bits u 64 64)] })
  settleRecvs (updRecv s1 p.src n (fun y => { y with places := y.places ++ [q], total := if bit u 53 then bits u 64 64 else y.total }))

def execPlace (packet : Packet) (s : State) : Host.Outcome State Fault Refusal :=
  .next (settle (delivered s packet ptPlace (fun s => placeArrives s packet)))

/-! ### BulkGet (R450) -/

/-- BULKGET: bytes of this hub's store for a peer. A refused read is answered with ACCESS; a repeat of bytes already read is
answered with them uncompressed. -/
def bulkGet (s : State) (p : Packet) : State :=
  let n := p.word3 % 2 ^ 16
  let u := p.unit 2
  let part : BulkPart := { off := bits u 0 40, bytes := bits u 40 13, addr := p.addr }
  let refused := !isLocal s p.addr || (linesOf (paOff p.addr) part.bytes).any (fun l => refuses s (.remote p.src) .rd (l * 64))
  if refused then send s { mkPacket s ptBulkDone p.src p.tag 0 n 15 [] with status := 1 }
  else
    let old := findSend s p.src n true
    let again := match old with
      | some x => decide (part.off < x.taken + x.bytes.length) || x.parts.any (fun q => q.off == part.off)
      | none => part.off != 0
    if again then
      (match old with
      | some x => if x.parts.any (fun q => q.off == part.off) then s else
          (match readPart s part with
          | (some bs, s1) => sendStream s1 p.src n part.off bs false false
          | (none, s1) => s1)
      | none => match readPart s part with
          | (some bs, s1) => sendStream s1 p.src n part.off bs false false
          | (none, s1) => s1)
    else
      let s1 := match old with
        | some _ => s
        | none => updFabric s (fun g => { g with sends := g.sends ++ [newSend s p.src n true 0 0 0 (bits u 64 64) (some (paOff p.addr))] })
      let s2 := updSend s1 p.src n true (fun y => { y with parts := y.parts ++ [part], seen := y.seen + 1 })
      pumpParts p.src n 66 s2

def execBulkget (packet : Packet) (s : State) : Host.Outcome State Fault Refusal :=
  .next (settle (delivered s packet ptBulkGet (fun s => bulkGet s packet)))

end Sys2Proof.Machine
end

