-- ==== Sys2Proof/Machine/Mover.lean ====
section
/-! DEFINITION. Move engines (ch. 9 and 13): COPY, GATHER and SCATTER with their descriptors (R321 to R325, R450), FATOM and
FTRIG (R453). -/

namespace Sys2Proof.Machine

/-! ### The pieces of a command (R323, R324) -/

/-- A piece of a command: one descriptor. -/
structure Piece where
  src : Ref
  dst : Ref
  len : Nat
  deriving DecidableEq, Repr

/-- Bytes to the next 4 KiB boundary of an M-space address, at most n. -/
def toPage (f : Ref) (n : Nat) : Nat :=
  match f with
  | .m v => min n (4096 - v % 4096)
  | _ => n

/-- A piece of at most 4 KiB that crosses no 4 KiB boundary at either end. -/
def cutPiece (src dst : Ref) (n : Nat) : Piece := { src := src, dst := dst, len := toPage dst (toPage src (min n 4096)) }

/-- Index i of an index array. -/
def indexAt (idx : List Byte) (wide : Bool) (i : Nat) : Nat := let n := if wide then 8 else 4; field idx (i * n) n

/-- The piece of a COPY, GATHER, SCATTER or HAUL at a position, given its index array; for a HAUL the source, destination and
length of the layer in hand. -/
def mePiece (w : Nat) (cs : List W64) (idx : List Byte) (pos : Nat) : Option Piece :=
  let es := bits w 232 13
  let other := fun (base : Ref) => base.plus (indexAt idx (bit w 245) (pos / es) * es + pos % es)
  match wordOp w with
  | 0x01 => (match refOf cs (bits w 64 48), refOf cs (bits w 112 48) with
    | some a, some b => some (cutPiece (a.plus pos) (b.plus pos) (bits w 160 40 - pos))
    | _, _ => none)
  | 0x30 => some (cutPiece (.m (field idx 0 8 + pos)) (.m (field idx 8 8 + pos)) (field idx 16 8 - pos))
  | 0x02 => (match refOf cs (bits w 160 48), refOf cs (bits w 112 48) with
    | some b, some d => some (cutPiece (other b) (d.plus pos) (es - pos % es))
    | _, _ => none)
  | _ => (match refOf cs (bits w 160 48), refOf cs (bits w 112 48) with
    | some b, some d => some (cutPiece (d.plus pos) (other b) (es - pos % es))
    | _, _ => none)

/-- Bytes that a held command moves: for a HAUL, those of the layer in hand. -/
def meLen (h : Held) : Nat := if wordOp h.entry.word = 0x30 then field (nth [] (h.latch.getD []) 0) 16 8 else meTotal h.entry.word

/-- The pieces of a command from a position to another. -/
def mePieces (w : Nat) (cs : List W64) (idx : List Byte) : Nat → Nat → Nat → List Piece
  | 0, _, _ => []
  | fuel + 1, pos, stop =>
    if stop ≤ pos then [] else
      match mePiece w cs idx pos with
      | none => []
      | some p => p :: mePieces w cs idx fuel (pos + max 1 p.len) stop

/-- Two extents of one space share a byte: by offset, or by virtual address modulo 2^57. -/
def sameSpaceOverlap (a b : Ref) (n : Nat) : Bool :=
  let meets := fun (x y size : Nat) => decide ((x + size - y % size) % size < n) || decide ((y + size - x % size) % size < n)
  match a, b with
  | .s x, .s y => meets x y (2 ^ 57)
  | .c x, .c y => meets x y (2 ^ 57)
  | .m x, .m y => meets x y (2 ^ 57)
  | _, _ => false

/-- An S-space or C-space extent lies within its space. -/
def Ref.fits (f : Ref) (n : Nat) : Bool :=
  match f with
  | .s o => decide (o + n ≤ sSize)
  | .c o => decide (o + n ≤ cSize)
  | .m _ => true

/-- What a COPY, GATHER or SCATTER checks and reads as it starts: its extents, an overlap, its index array (R322, R323). -/
def movePre (h : Held) (r : Run) : List (List Byte) × Run :=
  let w := h.entry.word
  let cs := h.entry.counters
  let total := meTotal w
  match refOf cs (bits w 64 48), refOf cs (bits w 112 48) with
  | some a, some b =>
    if wordOp w = 0x01 then
      if !a.fits total || !b.fits total then ([], r.fail errRange)
      else if sameSpaceOverlap a b total then ([], r.fail errShape)
      else ([[]], r)
    else
      let n := bits w 208 24 * (if bit w 245 then 8 else 4)
      if !b.fits total || !a.fits n then ([], r.fail errRange)
      else
        let g := r.read a n false
        ([g.1.1], if g.1.2 then g.2.fail errPoison else g.2)
  | _, _ => ([], r.fail errShape)

/-! ### The ends of a piece -/

/-- Translate one end of a piece: its physical address, or its offset in S-space or C-space. -/
def Run.endOf (r : Run) (f : Ref) (k : Kindm) : Option Nat × Run :=
  match f with
  | .m v => let t := r.translate v k; (t.1.map Prod.fst, t.2)
  | .s o | .c o => (some o, r)

/-- The other hub that an end lies on. Host memory is read and written by the line. -/
def awayHub (s : State) (f : Ref) (pa : Nat) : Option Nat :=
  match f with
  | .m _ => if isHost pa || isLocal s pa then none else some (paHub pa)
  | _ => none

/-- The space code of an end. -/
def Ref.space : Ref → Nat
  | .s _ => 0
  | .c _ => 1
  | .m _ => 2

/-- The virtual address of an end, for a fault. -/
def Ref.va : Ref → Nat
  | .m v => v
  | _ => 0

/-- The deferred record of a line that was copied as poison (R303, R368). -/
def notePoisonCopy (s : State) (core ctx pc detail pa : Nat) (tag : Option Nat) : State :=
  let i := threadInfo s core ctx pc 0x0013 detail (corePage core)
  fault s { i with pa := pa, index := match tag with | some t => (t : Int) | none => i.index }

/-- Read one end of a piece: its bytes, and for each whether it is poison. -/
def readEnd (h : Held) (r : Run) (f : Ref) (pa n : Nat) : (List Byte × List Bool) × Run :=
  match f with
  | .m v =>
    (cutRange pa n).foldl (fun (a : (List Byte × List Bool) × Run) p =>
      let g := readPa a.2 (v + (p.1 - pa)) p.1 p.2 .rd false
      let r1 : Run := { g.2 with rd := g.2.rd + p.2 }
      ((a.1.1 ++ g.1.1, a.1.2 ++ List.replicate p.2 g.1.2),
       if g.1.2 && r1.going then { r1 with s := notePoisonCopy r1.s r1.core h.ctx h.entry.pc (if r1.haul then 1 else 2) (p.1 / 64 * 64) (if r1.haul then some r1.variant else none) } else r1)) (([], []), r)
  | _ =>
    let g := r.read f n false
    ((g.1.1, List.replicate n false), if g.1.2 then g.2.fail errPoison else g.2)

/-- Poison the words that poisoned bytes of an extent lie in. -/
def poisonEach (f : State → Nat → State) (bad : List Bool) (s : State) : State :=
  (List.range bad.length).foldl (fun a i => if nth false bad i then f a i else a) s

/-- Write one end of a piece; poison travels with its bytes. -/
def writeEnd (r : Run) (f : Ref) (pa : Nat) (bs : List Byte) (bad : List Bool) : Run :=
  match f with
  | .m v =>
    (cutRange pa bs.length).foldl (fun (a : Run) p =>
      if !a.going then a
      else writePa a (v + (p.1 - pa)) p.1 ((bs.drop (p.1 - pa)).take p.2) (((bad.drop (p.1 - pa)).take p.2).any id)) r
  | .s o => let r1 := r.write f bs; { r1 with s := poisonEach (fun a i => poisonS a r.core (o + i) 1) bad r1.s }
  | .c o => let r1 := r.write f bs; { r1 with s := poisonEach (fun a i => poisonC a r.core (o + i) 1) bad r1.s }

/-- Bytes that cross to another hub: what was poison crosses as bytes that the spec leaves open. -/
def freeBytes (s : State) (bs : List Byte) (bad : List Bool) : List Byte × State :=
  if bad.any id then
    ((List.range bs.length).map (fun i => if nth false bad i then BitVec.ofNat 8 (Config.freeNat (s.free + i)) else nth 0 bs i),
     { s with free := s.free + bs.length })
  else (bs, s)

/-! ### Descriptors (R324, R326, R327) -/

/-- Descriptors that a core has in flight. -/
def inFlight (s : State) (core : Nat) : Nat := (s.descriptors.filter (fun d => d.core == core && (d.remote || d.srcSpace == 3))).length

/-- A descriptor is submitted; those that are no longer live are forgotten. -/
def submit (s : State) (d : Descriptor) : State :=
  let live := s.descriptors.filter (fun x => x.remote || x.srcSpace == 3 ||
    (openWrites s).any (fun w => w.1 == x.core && w.2.1 == 4 && w.2.2.2 == x.seq))
  { s with descriptors := live ++ [{ d with id := s.nextDesc }], nextDesc := s.nextDesc + 1 }

/-- A descriptor of a piece. -/
def pieceDesc (r : Run) (p : Piece) (src dst : Nat) : Descriptor :=
  { id := 0, core := r.core, seq := r.seq, ctx := r.ctx, srcSpace := p.src.space, src := src, dstSpace := p.dst.space, dst := dst,
    len := p.len, context := r.context, epoch := (context r.s r.context).epoch, tag := 0, remote := false, off := 0, peer := 0,
    xfer := 0, data := [], bad := [] }

/-- Bytes of some pieces whose end lies on another hub, as it translates now. -/
def bytesToward (r : Run) (h : Nat) (pick : Piece → Ref) (k : Kindm) (ps : List Piece) : Nat :=
  (ps.map (fun p => match (r.endOf (pick p) k).1 with
    | some pa => if awayHub r.s (pick p) pa = some h then p.len else 0
    | none => 0)).sum

/-- The pieces of a held command before its position and from it on. -/
def piecesAround (h : Held) (pos : Nat) : List Piece × List Piece :=
  let idx := nth [] (h.latch.getD []) 0
  let n := meLen h
  (mePieces h.entry.word h.entry.counters idx n 0 pos, mePieces h.entry.word h.entry.counters idx n pos n)

/-- The tags of transfers are numbered in sequence (R450). -/
def takeXfer (s : State) : Nat × State :=
  (s.fabric.nextXfer % 2 ^ 16, updFabric s (fun f => { f with nextXfer := (f.nextXfer + 1) % 2 ^ 16 }))

/-- Ask another hub for a piece (R450). -/
def readFrom (h : Held) (r : Run) (p : Piece) (pos hub pa dst : Nat) : Run :=
  let s := r.s
  if !windowCovers s r.tid hub (paOff pa) .rd then r.failXl p.src.va xlAccess .rd
  else
    let ps := piecesAround h pos
    let off := bytesToward r hub Piece.src .rd ps.1
    let total := off + bytesToward r hub Piece.src .rd ps.2
    let old := s.fabric.recvs.find? (fun x => x.peer == hub && decide (x.reader = some (r.core, r.seq)))
    let nx := match old with | some x => (x.number, s) | none => takeXfer s
    let s1 := match old with
      | some _ => nx.2
      | none => updFabric nx.2 (fun f => { f with recvs := f.recvs ++ [newRecv nx.2 hub nx.1 (some (r.core, r.seq)) total] })
    let id := s1.nextDesc
    let q := request s1 (fun t => mkPacket s1 ptBulkGet hub t pa nx.1 (partOfCore r.core) (partUnit off p.len old.isNone total)) (.descriptor r.core id)
    let d : Descriptor := { pieceDesc r p pa dst with remote := true, tag := q.2, off := off, peer := hub, xfer := nx.1 }
    { r with s := submit q.1 d, remote := r.remote + 1
             uses := r.uses ++ (match choosePort s 0 hub 0 with | some n => [(useKey 1 n 1, p.len)] | none => []) }

/-- Send the bytes of a piece to another hub: a Place, then the transfer's bytes behind it (R450). `d` has the piece's
descriptor, and `src` the store offset that its bytes were read from. -/
def sendTo (h : Held) (r : Run) (pos hub : Nat) (d : Descriptor) (src : Option Nat) (bs : List Byte) : State :=
  let s := r.s
  let ps := piecesAround h pos
  let off := bytesToward r hub Piece.dst .wr ps.1
  let total := off + bytesToward r hub Piece.dst .wr ps.2
  let old := s.fabric.sends.find? (fun x => x.peer == hub && !x.serves && x.core == r.core && x.seq == r.seq)
  let nx := match old with | some x => (x.number, s) | none => takeXfer s
  let s1 := match old with
    | some _ => nx.2
    | none => updFabric nx.2 (fun f => { f with sends := f.sends ++ [newSend nx.2 hub nx.1 false r.core r.seq h.handle total src] })
  let id := s1.nextDesc
  let q := request s1 (fun t => mkPacket s1 ptPlace hub t d.dst nx.1 (partOfCore r.core) (partUnit off d.len old.isNone total)) (.descriptor r.core id)
  feedSend (submit q.1 { d with remote := true, tag := q.2, off := off, peer := hub, xfer := nx.1, data := [], bad := [] }) hub nx.1 bs

/-- Bytes that have been read go to the piece's destination, here or on another hub. -/
def landBytes (h : Held) (r : Run) (pos : Nat) (dstRef : Ref) (d : Descriptor) (src : Option Nat) (bs : List Byte) (bad : List Bool) : Run :=
  match awayHub r.s dstRef d.dst with
  | some hub =>
    if !windowCovers r.s r.tid hub (paOff d.dst) .wr then r.failXl dstRef.va xlAccess .wr
    else
      let f := freeBytes r.s bs bad
      { r with s := sendTo h { r with s := f.2 } pos hub d src f.1, wr := r.wr + bs.length, remote := r.remote + 1 }
  | none =>
    let r1 := writeEnd r dstRef d.dst bs bad
    if r1.going then { r1 with s := submit r1.s d } else r1

/-- One piece is submitted (R324): both ends are translated; bytes that lie here are moved at once. -/
def submitPiece (h : Held) (r : Run) (pos : Nat) (p : Piece) : Run :=
  let a := r.endOf p.src .rd
  let b := a.2.endOf p.dst .wr
  match a.1, b.1 with
  | some src, some dst =>
    (match awayHub b.2.s p.src src with
    | some hub => readFrom h b.2 p pos hub src dst
    | none =>
      let g := readEnd h b.2 p.src src p.len
      if !g.2.going then g.2
      else
        let off := match p.src with | .m _ => if isHost src then none else some (paOff src) | _ => none
        landBytes h g.2 pos p.dst (pieceDesc g.2 p src dst) off g.1.1 g.1.2)
  | _, _ => b.2

/-! ### Landing what another hub has sent -/

/-- A coded end as a reference; an M-space end has no virtual address any more. -/
def refAt (space a : Nat) : Ref :=
  match space with
  | 0 => .s a
  | 1 => .c a
  | _ => .m 0

/-- The bytes of a descriptor have all arrived. -/
def Descriptor.arrived (d : Descriptor) : Bool := d.remote && decide (0 < d.len) && d.data.length == d.len

/-- Land a descriptor whose bytes have arrived: its request closes and its bytes are written, or sent on. -/
def landOne (s : State) (h : Held) (d : Descriptor) : State × Bool :=
  let bad := (List.range d.len).map (fun i => d.bad.any (fun e => decide (e.1 ≤ i) && decide (i < e.1 + e.2)))
  let r0 := { runOf s d.core 4 h with context := d.context, tid := tidOf s d.context }
  let clean : Run := { r0 with s := closeRequest (dropDescriptor s d.core d.seq d.id) d.tag }
  let r := landBytes h clean h.pos (refAt d.dstSpace d.dst) { d with remote := false, data := [], bad := [] } none d.data bad
  match r.stop with
  | .wait => (r.base, false)
  | .go => (noteRemote r (noteTraffic r h), true)
  | .fail code xl =>
    let s1 := clean.s
    (if h.error = 0 then failCommand s1 d.core 4 h code xl 0 .wr else s1, true)

/-- Land the descriptors of a command in their order, as far as they have arrived. -/
def landAll (core seq : Nat) : Nat → State → State
  | 0, s => s
  | fuel + 1, s =>
    match s.descriptors.find? (fun d => d.core == core && d.seq == seq && d.arrived) with
    | none => s
    | some d =>
      match heldCmd s core 4 seq with
      | none => landAll core seq fuel (closeRequest (dropDescriptor s d.core d.seq d.id) d.tag)
      | some h =>
        let r := landOne s h d
        if r.2 then landAll core seq fuel r.1 else r.1

/-- Land what has arrived for a command, forget its transfers that have ended, and see whether it is carried out. -/
def landFor (s : State) (core seq : Nat) : State :=
  let s1 := landAll core seq (s.descriptors.length + 1) s
  let s2 := updFabric s1 (fun f => { f with recvs := f.recvs.filter (fun x =>
    !(decide (x.reader = some (core, seq)) && decide (x.total ≤ x.expanded) &&
      !s1.descriptors.any (fun d => d.core == core && d.seq == seq && d.remote && d.xfer == x.number && d.peer == x.peer))) })
  meCheck s2 core seq

/-! ### COPY, GATHER, SCATTER (R323) -/

/-- Submit pieces of a command from its position, while a slot is free and the command holds fewer than `depth` of them. -/
def moveLoop (h : Held) (depth : Nat) : Nat → Run → Nat → Run × Nat
  | 0, r, pos => (r, pos)
  | fuel + 1, r, pos =>
    if !r.going ∨ meLen h ≤ pos ∨ 64 ≤ inFlight r.s r.core ∨ depth ≤ (r.s.descriptors.filter (fun d => d.blocks r.core r.seq)).length then (r, pos)
    else match mePiece h.entry.word h.entry.counters (nth [] (h.latch.getD []) 0) pos with
      | none => (r.fail errShape, pos)
      | some p =>
        let r1 := submitPiece h r pos p
        if !r1.going then (r1, pos)
        else moveLoop h depth fuel (r1.commit h (fun x => { x with pos := pos + p.len })) (pos + p.len)

/-- A move-engine command that has submitted all it can now: carried out, or waiting for descriptors. -/
def pauseRun (r : Run) (seq : Nat) (finished : Bool) : Run :=
  if !r.going then r
  else if finished && !r.s.descriptors.any (fun d => d.blocks r.core seq) then r
  else { r with stop := .wait, base := r.s }

/-- COPY, GATHER or SCATTER goes on. -/
def moveMain (h : Held) (r : Run) : Run :=
  let x := moveLoop h 64 (meTotal h.entry.word - h.pos + 1) r h.pos
  pauseRun x.1 h.seq (decide (meTotal h.entry.word ≤ x.2))

/-- The program identifier of a HAUL or HAUL_DROP at a queue's head, when it can be read at once. -/
def haulId (s : State) (core : Nat) (h : Head) : Option Nat :=
  match refOf h.entry.counters (bits h.entry.word 64 48) with
  | some (.s o) => some (leValue (sBytes s core (o + 0x20) 8))
  | some (.m v) => (match (xlate s (fun _ => false) core (streamCtx s h.handle) (v + 0x20) .rd).1 with
    | .ok pa _ _ => if isLocal s pa then some (storeValue s (paOff pa) 8) else none
    | _ => none)
  | _ => none

/-- The Haul entry of a key. -/
def haulEntry (s : State) (context id : Nat) : Option (Nat × HaulEntry) :=
  List.find? (fun e => e.2.context == context && e.2.id == id) s.haul

/-- The move engine may pop a head (R294, R304): a HAUL finds its entry or a free one; a HAUL_DROP waits for a running HAUL of
its key. -/
def mayPopMe (core : Nat) (s : State) (h : Head) : Bool :=
  let key := (haulId s core h).bind (fun i => haulEntry s (streamCtx s h.handle) i)
  match wordOp h.entry.word with
  | 0x30 => key.isSome || decide (s.haul.length < 256)
  | 0x31 => (match key with | some (n, _) => !s.haulRuns.any (fun r => r.entry == n) | none => true)
  | _ => true

/-- A move-engine row. -/
def moveRow (s : State) (core op : Nat) : State :=
  engineRow s core 4 op (mayPopMe core) { pre := movePre, main := moveMain }

/-- COPY: unit 4, operation 0x01. -/
def execCopy (core : Nat) (s : State) : Host.Outcome State Fault Refusal := .next (settle (moveRow s core 0x01))

/-- GATHER: unit 4, operation 0x02. -/
def execGather (core : Nat) (s : State) : Host.Outcome State Fault Refusal := .next (settle (moveRow s core 0x02))

/-- SCATTER: unit 4, operation 0x03. -/
def execScatter (core : Nat) (s : State) : Host.Outcome State Fault Refusal := .next (settle (moveRow s core 0x03))

/-! ### FATOM (R451 to R453) -/

/-- Extents of a FATOM's operand and result elements. -/
def fatomPre (h : Held) (r : Run) : List (List Byte) × Run :=
  let w := h.entry.word
  match refOf h.entry.counters (bits w 112 48), refOf h.entry.counters (bits w 160 48) with
  | some a, some b => if a.fits (48 * bits w 208 12) && b.fits (48 * bits w 208 12) then ([[]], r) else ([], r.fail errRange)
  | _, _ => ([], r.fail errShape)

/-- The descriptor of an element. -/
def elementOf (r : Run) (i pa : Nat) : Descriptor :=
  { id := i, core := r.core, seq := r.seq, ctx := r.ctx, srcSpace := 3, src := 0, dstSpace := 3, dst := pa, len := 0, context := r.context,
    epoch := (context r.s r.context).epoch, tag := 0, remote := false, off := 0, peer := 0, xfer := 0, data := [], bad := [] }

/-- An element has a descriptor until its status is final. -/
def openElement (s : State) (d : Descriptor) : State := { s with descriptors := s.descriptors ++ [d] }

/-- An atomic at a line of this hub, or the status that refuses it. -/
def localAtomic (r : Run) (i off word opd : Nat) : Run :=
  let s := r.s
  let done := fun (st : Nat) => { r with s := finishElement s r.core 4 r.seq i st 0 }
  if refuses s (.tenant r.tid false) .atm off then done 1
  else match homePart s off with
    | none => done 1
    | some home =>
      match roadTo s home off with
      | .held | .through => r.waits id
      | .lost => done 1
      | .gone => done 2
      | .open_ =>
        let s1 := openElement s (elementOf r i (localPa s off))
        { r with s := seamRequest s1 { SeamReq.plain .atomic (.engine r.core 4 r.ctx r.seq i) (off / 64) with
                    offset := off % 64, atom := word, operand := opd }
                 lines := r.lines ++ [(localPa s off, true)] }

/-- Element i of a FATOM. -/
def fatomElement (h : Held) (r : Run) (i : Nat) : Run :=
  let w := h.entry.word
  match refOf h.entry.counters (bits w 64 48), refOf h.entry.counters (bits w 112 48) with
  | some (.m tgt), some (.s opd) =>
    let e := r.read (.s (opd + 48 * i)) 48 false
    if e.1.2 then e.2.fail errPoison
    else
      let width := 2 ^ bits w 224 3
      let va := (tgt + (if bit w 228 then field e.1.1 0 8 else i) * width) % 2 ^ 57
      let word := bits w 220 4 + bits w 224 3 * 16 + b2n (bit w 227) * 128
      let operand := leValue ((e.1.1.drop 16).take (16 * atomUnits word))
      match e.2.translate va .atm with
      | (none, r1) => r1
      | (some (pa, _), r1) =>
        let status := fun (st : Nat) => { r1 with s := finishElement r1.s r.core 4 r.seq i st 0 }
        if !atomValid (bits w 220 4) (bits w 224 3) then status 8
        else if pa % width ≠ 0 ∨ isHost pa then status 1
        else if isLocal r1.s pa then localAtomic r1 i (paOff pa) word operand
        else if !windowCovers r1.s r1.tid (paHub pa) (paOff pa) .atm then status 1
        else
          let q := request r1.s (fun t =>
            { mkPacket r1.s ptAtomic (paHub pa) t pa word (partOfCore r.core) (leBytes (16 * atomUnits word) operand) with
                nocomb := deterministic r1.s h.handle })
            (.element r.core r.seq i 0)
          { r1 with s := openElement q.1 { elementOf r1 i pa with remote := true, tag := q.2, peer := paHub pa }, remote := r1.remote + 1 }
  | _, _ => r.fail errShape

/-- Elements from a position, while a slot is free. -/
def fatomLoop (h : Held) : Nat → Run → Nat → Run × Nat
  | 0, r, pos => (r, pos)
  | fuel + 1, r, pos =>
    if !r.going ∨ bits h.entry.word 208 12 ≤ pos ∨ 64 ≤ inFlight r.s r.core then (r, pos)
    else
      let r1 := fatomElement h r pos
      if !r1.going then (r1, pos)
      else fatomLoop h fuel (r1.commit h (fun x => { x with pos := pos + 1 })) (pos + 1)

/-- FATOM goes on. -/
def fatomMain (h : Held) (r : Run) : Run :=
  let x := fatomLoop h (bits h.entry.word 208 12 - h.pos + 1) r h.pos
  pauseRun x.1 h.seq (decide (bits h.entry.word 208 12 ≤ x.2))

/-- FATOM: unit 4, operation 0x10. -/
def execFatom (core : Nat) (s : State) : Host.Outcome State Fault Refusal :=
  .next (settle (engineRow s core 4 0x10 (mayPopMe core) { pre := fatomPre, main := fatomMain }))

/-! ### FTRIG (R453, R485, R488) -/

/-- Extents of an FTRIG's arguments and result element. -/
def ftrigPre (h : Held) (r : Run) : List (List Byte) × Run :=
  let w := h.entry.word
  match refOf h.entry.counters (bits w 112 48), refOf h.entry.counters (bits w 160 48) with
  | some a, some b => if a.fits (bits w 82 9) && b.fits 48 then ([[]], r) else ([], r.fail errRange)
  | _, _ => ([], r.fail errShape)

/-- A tenant's trigger window covers an entry of a hub. -/
def triggerWindow (s : State) (tid hub entry : Nat) : Bool :=
  s.eloan.windows.any (fun w => w.tid == tid && w.kind == 2 && w.hub == hub && w.wr && decide (w.first ≤ entry) && decide (entry < w.first + max 1 w.count))

/-- A trigger to this hub's own table: its status. -/
def ownTrigger (s : State) (p : Packet) : Nat × State :=
  let i := bits p.word3 0 8
  match s.triggers[i]? with
  | none => (8, s)
  | some e =>
    if e.ringEntries = 0 ∨ (streamOf s e.handle).isNone then (8, s)
    else if !inGroup s e.callerSet (hubId s) then (7, s)
    else takeTrigger s i e p

/-- FTRIG sends its trigger. -/
def ftrigMain (h : Held) (r : Run) : Run :=
  let w := h.entry.word
  let hub := bits w 64 10
  if 1 ≤ h.pos then pauseRun r h.seq true
  else match refOf h.entry.counters (bits w 112 48) with
  | some args =>
    let g := r.read args (bits w 82 9) false
    if g.1.2 then g.2.fail errPoison
    else if !g.2.going then g.2
    else
      let r1 := g.2
      let word := bits w 74 8 + bits w 82 9 * 256
      let s := r1.s
      let keep := fun (x : Run) => x.commit h (fun y => { y with pos := 1 })
      if hub = hubId s then
        let t := ownTrigger s { mkPacket s ptTrigger hub (h.seq % 2 ^ 16) 0 word (partOfCore r.core) g.1.1 with src := hubId s }
        pauseRun (keep { r1 with s := finishElement t.2 r.core 4 h.seq 0 t.1 0 }) h.seq true
      else if !triggerWindow s r1.tid hub (bits w 74 8) then
        pauseRun (keep { r1 with s := finishElement s r.core 4 h.seq 0 1 0 }) h.seq true
      else
        let q := request s (fun t => mkPacket s ptTrigger hub t 0 word (partOfCore r.core) g.1.1) (.element r.core h.seq 0 0)
        pauseRun (keep { r1 with s := openElement q.1 { elementOf r1 0 0 with remote := true, tag := q.2, peer := hub }, remote := r1.remote + 1 }) h.seq true
  | none => r.fail errShape

/-- FTRIG: unit 4, operation 0x11. -/
def execFtrig (core : Nat) (s : State) : Host.Outcome State Fault Refusal :=
  .next (settle (engineRow s core 4 0x11 (mayPopMe core) { pre := ftrigPre, main := ftrigMain }))

end Sys2Proof.Machine
end

