-- ==== Sys2Proof/Machine/Haul.lean ====
section
/-! DEFINITION. Haul (ch. 8): programs, the HAUL command and its layers (R289 to R303), HAUL_DROP (R304), the refill after a
partition's return (R287), and the submission of descriptors (R324). -/

namespace Sys2Proof.Machine

/-- The HAUL page. -/
def haulPage : Nat := F.HAUL_LATE_count.page

/-! ### Programs (R289) -/

/-- A Haul program's header (Table 8.3). -/
structure Program where
  resident : Bool
  lateSwitch : Bool
  slots : Nat
  layers : Nat
  window : Nat
  slotBytes : Nat
  fullObj : Nat
  freeObj : Nat
  id : Nat
  slack : Nat
  deriving DecidableEq, Repr

/-- The header's fields. -/
def programOf (d : List Byte) : Program :=
  { resident := bit (field d 2 1) 0, lateSwitch := bit (field d 2 1) 1, slots := field d 3 1, layers := field d 4 2,
    window := field d 8 8, slotBytes := field d 0x10 8, fullObj := field d 0x18 4, freeObj := field d 0x1C 4, id := field d 0x20 8,
    slack := field d 0x28 4 }

/-- A header obeys Table 8.3. -/
def headerFits (d : List Byte) : Bool :=
  let p := programOf d
  field d 0 2 == 1 && decide (field d 2 1 < 4) && decide (1 ≤ p.slots) && decide (p.slots ≤ 64) && decide (1 ≤ p.layers) &&
  decide (p.layers ≤ 4096) && field d 6 2 == 0 && p.window % 4096 == 0 && decide (p.window < 2 ^ 57) && p.slotBytes % 4096 == 0 &&
  decide (4096 ≤ p.slotBytes) && decide (p.slotBytes ≤ 2 ^ 36) && decide (p.fullObj < 2 ^ 27) && decide (p.freeObj < 2 ^ 27) &&
  p.id != 0 && field d 0x2C 20 == 0

/-- A layer entry obeys Table 8.4. -/
def layerFits (p : Program) (d : List Byte) : Bool :=
  field d 0 8 % 64 == 0 && decide (field d 0 8 < 2 ^ 57) && field d 8 8 % 64 == 0 && decide (64 ≤ field d 8 8) &&
  decide (field d 8 8 ≤ p.slotBytes) && decide (field d 0x10 4 ≤ 200000000) && field d 0x18 8 == 0

/-- The layer entry's fields. -/
def layerOf (d : List Byte) : HaulLayer := { src := field d 0 8, bytes := field d 8 8, due := field d 0x10 4, tag := field d 0x14 4 }

/-- The window lies wholly in FACE regions of the context: each of its pages. -/
def windowIsFace (s : State) (core context : Nat) (p : Program) : Bool :=
  (List.range (p.slots * p.slotBytes / 4096)).all (fun i =>
    match (xlate s (fun _ => false) core context ((p.window + 4096 * i) % 2 ^ 57) .wr).1 with
    | .ok pa _ _ => isLocal s pa && isFace s (paOff pa)
    | _ => false)

/-- The window overlaps that of an entry of another key in the same address context (R294). -/
def windowTaken (s : State) (context : Nat) (p : Program) : Bool :=
  s.haul.any (fun e => e.2.context == context && e.2.id != p.id && decide (e.2.window < p.window + p.slots * p.slotBytes) &&
    decide (p.window < e.2.window + e.2.slots * e.2.slotBytes))

/-! ### The start of a HAUL (R291, R293, R294) -/

/-- The lowest free number of the Haul table. -/
def freeEntry (s : State) : Nat := ((List.range 256).find? (fun i => (Tab.find? s.haul i).isNone)).getD 0

/-- A fresh entry of a program. -/
def newEntry (context handle : Nat) (p : Program) : HaulEntry :=
  { context := context, id := p.id, window := p.window, slotBytes := p.slotBytes, slots := p.slots, resident := p.resident, gen := 0,
    tags := List.replicate p.slots none, srcs := List.replicate p.slots 0, handle := handle, late := false, held := false, next := 0,
    missed := [] }

/-- The entry of a HAUL as it starts: its own, or a fresh one; gen_new advances the generation. -/
def takeEntry (s : State) (context handle : Nat) (p : Program) (genNew : Bool) : Nat × State :=
  let old := haulEntry s context p.id
  let n := match old with | some (i, _) => i | none => freeEntry s
  let e0 := match old with
    | some (_, e) => if e.slots = p.slots ∧ e.window = p.window ∧ e.slotBytes = p.slotBytes then e
        else { newEntry context handle p with gen := e.gen, late := e.late }
    | none => newEntry context handle p
  let e := { e0 with resident := p.resident, handle := handle, gen := if genNew then e0.gen + 1 else e0.gen }
  (n, { s with haul := Tab.insert s.haul n e })

/-- What a HAUL reads and checks as it starts. -/
def haulPre (h : Held) (r : Run) : List (List Byte) × Run :=
  let w := h.entry.word
  match refOf h.entry.counters (bits w 64 48) with
  | none => ([], r.fail errShape)
  | some prog =>
    if prog.addr % 64 ≠ 0 then ([], r.fail errShape)
    else
      let g := r.bytes prog 64
      let p := programOf g.1
      let first := bits w 128 16
      let last := bits w 144 16
      if !g.2.going then ([], g.2)
      else if !headerFits g.1 then ([], g.2.fail errShape)
      else if last < first then ([[]], g.2)
      else if p.layers ≤ last then ([], g.2.fail errShape)
      else
        let es := (range first (last + 1 - first)).foldl (fun (a : List (List Byte) × Run) l =>
          let x := a.2.bytes (prog.plus (0x40 + 32 * l)) 32
          (a.1 ++ [x.1], x.2)) ([], g.2)
        let r1 := es.2
        if !r1.going then ([], r1)
        else if !es.1.all (layerFits p) || !windowIsFace r1.s r1.core r1.context p || windowTaken r1.s r1.context p then ([], r1.fail errShape)
        else
          let t := takeEntry r1.s r1.context h.handle p (bit w 118)
          let run : HaulRun :=
            { core := r1.core, seq := h.seq, ctx := h.ctx, entry := t.1, layers := es.1.map layerOf, fullObj := p.fullObj, freeObj := p.freeObj,
              slack := p.slack, lateSwitch := p.lateSwitch, layer := first, last := last, asked := false, granted := false, stopping := false,
              waitTag := 0, depth := if bits w 112 6 = 0 then 64 else bits w 112 6 }
          ([[]], { r1 with s := { t.2 with haulRuns := t.2.haulRuns ++ [run] } })

/-! ### Running a HAUL (R292, R300, R301) -/

/-- The run of a HAUL command. -/
def haulRun (s : State) (core seq : Nat) : Option HaulRun := s.haulRuns.find? (fun x => x.core == core && x.seq == seq)

/-- Change the run of a HAUL command. -/
def updHaul (s : State) (core seq : Nat) (f : HaulRun → HaulRun) : State :=
  { s with haulRuns := s.haulRuns.map (fun x => if x.core = core ∧ x.seq = seq then f x else x) }

/-- Change a Haul entry that is in use. -/
def updEntry (s : State) (n : Nat) (f : HaulEntry → HaulEntry) : State :=
  match Tab.find? s.haul n with
  | some e => { s with haul := Tab.insert s.haul n (f e) }
  | none => s

/-- The layer in hand. -/
def HaulRun.here (x : HaulRun) : HaulLayer :=
  nth { src := 0, bytes := 0, due := 0, tag := 0 } x.layers (x.layers.length - (x.last + 1 - x.layer))

/-- The slot's tag matches the layer and the generation of a resident program (R293). -/
def isResident (s : State) (x : HaulRun) : Bool :=
  match Tab.find? s.haul x.entry with
  | some e => e.resident && decide (nth none e.tags (x.layer % e.slots) = some (x.layer, e.gen))
  | none => false

/-- Ask for the layer's slot (R292): a wait for one unit of free_obj without a timeout. -/
def askFree (s : State) (x : HaulRun) : State :=
  let tag := s.sync.nextTag
  let s1 := { s with sync := { s.sync with nextTag := tag + 1 } }
  let c := streamCtx s (thread s x.core x.ctx).handle
  let s2 := updHaul s1 x.core x.seq (fun y => { y with asked := true, waitTag := tag })
  if badName s x.freeObj || (objHub x.freeObj != hubId s && !syncWindow s (tidOf s c) x.freeObj) then
    updHaul s2 x.core x.seq (fun y => { y with asked := false, stopping := true })
  else sendSync s2 .wait (requesterOf s x.core x.ctx) tag x.freeObj 0 1 c (partOfCore x.core) (.haul x.core x.seq)

/-- A HAUL that is stopping takes its wait back (R300). -/
def cancelFree (s : State) (x : HaulRun) : State :=
  if x.asked && !x.granted then
    let c := streamCtx s (thread s x.core x.ctx).handle
    let waitTag := match s.fabric.requests.find? (fun q => decide (q.purpose = .haul x.core x.seq)) with
      | some q => q.packet.tag
      | none => 0
    sendSync (updHaul s x.core x.seq (fun y => { y with asked := false })) .cancel (requesterOf s x.core x.ctx) x.waitTag x.freeObj 0 waitTag c
      (partOfCore x.core) .nobody
  else s

/-- The layer in hand begins: its slot loses its tag, and reads go through to its source. -/
def beginLayer (s : State) (h : Held) (x : HaulRun) : State :=
  match Tab.find? s.haul x.entry with
  | none => s
  | some e =>
    let i := x.layer % e.slots
    let l := x.here
    let rec_ := leBytes 8 l.src ++ leBytes 8 (e.window + i * e.slotBytes) ++ leBytes 8 l.bytes
    updHeld (updEntry s x.entry (fun e => { e with tags := setNth e.tags i none, srcs := setNth e.srcs i l.src,
                                                   missed := e.missed.filter (fun m => decide (m / e.slotBytes ≠ i)) }))
      x.core 4 h.seq (fun y => { y with latch := some [rec_], pos := 0, popped := s.now, variant := l.tag })

/-- The HAUL has nothing more to do: it has been carried out. -/
def endHaul (s : State) (core seq : Nat) : State :=
  updHeld { s with haulRuns := s.haulRuns.filter (fun y => !(y.core == core && y.seq == seq)) } core 4 seq (fun y => { y with done := true })

/-- A HAUL's instance runs: it is neither stalled nor suspended (R301). -/
def haulGoes (s : State) (h : Held) : Bool :=
  match streamOf s h.handle with
  | some x => (match x.run with | some r => decide (r.state = .running) && !x.suspended | none => false)
  | none => false

/-- Its copies have all been issued. -/
def layerIssued (h : Held) : Bool := match h.latch with | some [d] => decide (24 ≤ d.length) && decide (field d 16 8 ≤ h.pos) | _ => false

/-- A HAUL goes on: it asks for its slot, then submits the copies of the layer in hand. LAYER_LAND ends the layer. -/
def haulMain (h : Held) (r : Run) : Run :=
  match haulRun r.s r.core h.seq with
  | none => r
  | some x =>
    let hold := fun (t : State) => { r with s := t, base := t, stop := .wait }
    let busy := r.s.descriptors.any (fun d => d.blocks r.core h.seq) ||
      (openWrites r.s).any (fun w => w.1 == r.core && w.2.1 == 4 && w.2.2.2 == h.seq)
    if x.stopping && !(x.granted && layerIssued h && (Tab.find? r.s.haul x.entry).isSome) then
      if busy then hold (cancelFree r.s x)
      else
        let t := cancelFree r.s x
        { r with s := { t with haulRuns := t.haulRuns.filter (fun y => !(y.core == r.core && y.seq == h.seq)) } }
    else if x.stopping || !haulGoes r.s h then hold r.s
    else if !x.granted then hold (if x.asked then r.s else askFree r.s x)
    else if isResident r.s x then hold r.s
    else
      let s1 := if (nth [] (h.latch.getD []) 0).length < 24 then beginLayer r.s h x else r.s
      match heldCmd s1 r.core 4 h.seq with
      | none => hold s1
      | some h1 =>
        let y := moveLoop h1 x.depth (meLen h1 - h1.pos + 1) { r with s := s1, base := s1, variant := x.here.tag } h1.pos
        pauseRun y.1 h.seq false

/-- HAUL: unit 4, operation 0x30. -/
def haulBody : Body := { pre := haulPre, main := haulMain }

def execHaul (core : Nat) (s : State) : Host.Outcome State Fault Refusal :=
  .next (settle (engineRow s core 4 0x30 (mayPopMe core) haulBody))

/-! ### HAUL_DROP (R304) -/

/-- HAUL_DROP reads its program's key and frees the entry. -/
def dropMain (h : Held) (r : Run) : Run :=
  match refOf h.entry.counters (bits h.entry.word 64 48) with
  | none => r.fail errShape
  | some prog =>
    let g := r.bytes prog 64
    if !g.2.going then g.2
    else if !headerFits g.1 then g.2.fail errShape
    else match haulEntry g.2.s r.context (programOf g.1).id with
      | some (n, e) => if e.resident then { g.2 with s := { g.2.s with haul := Tab.erase g.2.s.haul n } } else g.2
      | none => g.2

def execHaulDrop (core : Nat) (s : State) : Host.Outcome State Fault Refusal :=
  .next (settle (engineRow s core 4 0x31 (mayPopMe core) { pre := fun _ r => ([[]], r), main := dropMain }))

/-! ### Landing (R292, R297, R298) -/

/-- Time since the hub's edge of a tick, in ns. -/
def sinceEdge (s : State) (tick : Nat) : Nat := (tickNumber s - tick) * getF s F.TICK_PERIOD_period_ns 0 + s.tick.phase / 2

/-- The cause code of a layer's source tier (R298, Table 2.9): that of its first byte. -/
def sourceCause (s : State) (core context src : Nat) : Nat :=
  match (xlate s (fun _ => false) core context src .rd).1 with
  | .ok pa _ _ => if isHost pa then 4 else if !isLocal s pa then 3 else if farBase ≤ paOff pa then 2 else 0
  | _ => 0

/-- A layer is compared with its due (R297). -/
def checkLate (s : State) (h : Held) (x : HaulRun) : State :=
  let l := x.here
  if l.due = 0 ∨ sinceEdge s h.tick ≤ l.due + x.slack then s
  else
    let c := streamCtx s h.handle
    let s1 := raise (addSatF s F.HAUL_LATE_count 0 1) haulPage 0
    let s2 := tally s1 { part := partOfCore x.core, code := 0x23, qual := sourceCause s x.core c l.src, tids := [tidOf s c], master := some 3,
                         core := some (x.core % 32) }
    if x.lateSwitch then updEntry s2 x.entry (fun e => { e with late := true }) else s2

/-- A missed line of an entry's window whose partition has returned (R287). -/
def refillDue (s : State) (e : HaulEntry) (part : Option Nat) (w : Nat) : Bool :=
  match (xlate s (fun _ => false) noCore e.context (e.window + w) .wr).1 with
  | .ok pa _ _ => (match homePart s (paOff pa) with
    | some p => partUp s p && (match part with | some q => p == q | none => true)
    | none => false)
  | _ => false

/-- LAYER_LAND: the layer in hand of a running HAUL lands when its copies are performed, or at once when its slot holds it. -/
def layerLand (s : State) (n : Nat) : State :=
  match s.haulRuns.find? (fun x => x.entry == n), Tab.find? s.haul n with
  | some x, some e =>
    (match heldCmd s x.core 4 x.seq with
    | none => s
    | some h =>
      let resident := isResident s x
      let busy := s.descriptors.any (fun d => d.blocks x.core x.seq) ||
        (openWrites s).any (fun w => w.1 == x.core && w.2.1 == 4 && w.2.2.2 == x.seq)
      if h.error ≠ 0 || !x.granted || (!resident && (!layerIssued h || busy)) || e.missed.any (refillDue s e none) then s
      else
        let s1 := updEntry s n (fun e => { e with tags := setNth e.tags (x.layer % e.slots) (some (x.layer, e.gen)), next := x.layer + 1 })
        let s2 := checkLate (completionSignal s1 x.core x.ctx h.entry.pc x.fullObj) h x
        if x.layer = x.last ∨ x.stopping then endHaul s2 x.core x.seq
        else
          updHeld (updHaul s2 x.core x.seq (fun y => { y with layer := y.layer + 1, asked := false, granted := false })) x.core 4 x.seq
            (fun y => { y with latch := some [[]], pos := 0 }))
  | _, _ => s

def execLayerLand (entry : Nat) (s : State) : Host.Outcome State Fault Refusal := .next (settle (layerLand s entry))

/-! ### Refill (R287) -/

/-- A run of the hub's own for an address context: Haul's refill. -/
def refillRun (s : State) (context : Nat) : Run :=
  { base := s, s := s, core := noCore, unit := 4, ctx := 0, seq := 0, context := context, tid := tidOf s context, use := false, haul := true,
    stop := .go, flags := 0, cycles := 0, variant := 0, rd := 0, wr := 0, lines := [], misses := 0, tlbCore := 0, tlbPart := 0,
    hostBytes := 0, remote := 0, uses := [], badVa := 0, badKind := .rd }

/-- Write one missed line from its source: the state, and whether the line is there now. -/
def refillLine (s : State) (e : HaulEntry) (w : Nat) : State × Bool :=
  let src := (nth 0 e.srcs (w / e.slotBytes) + w % e.slotBytes) % 2 ^ 57
  let g := (refillRun s e.context).readM src 64 .rd false
  let r := g.2.writeMp (e.window + w) g.1.1 g.1.2
  match r.stop with
  | .go => (dropInbox r.s noCore 4 0, true)
  | .wait => (r.base, false)
  | .fail _ _ => (s, true)

/-- HAUL_REFILL: after a partition's return the lines it missed are written from their sources. -/
def haulRefill (s : State) (part : Nat) : State :=
  let r := s.haul.foldl (fun (a : State × Bool) p =>
    (p.2.missed.filter (refillDue s p.2 (some part))).foldl (fun (b : State × Bool) w =>
      let x := refillLine b.1 p.2 w
      if x.2 then (updEntry x.1 p.1 (fun e => { e with missed := e.missed.filter (fun m => m != w) }), true) else (x.1, b.2)) a) (s, false)
  if r.2 && !r.1.haul.any (fun p => p.2.missed.any (refillDue r.1 p.2 (some part))) then raise r.1 haulPage 2 else r.1

def execHaulRefill (part : Nat) (s : State) : Host.Outcome State Fault Refusal := .next (settle (haulRefill s part))

/-! ### DESCRIPTOR_SUBMIT (R324) -/

/-- What a move engine does with a command of an operation. -/
def meBody (op : Nat) : Body :=
  match op with
  | 0x10 => { pre := fatomPre, main := fatomMain }
  | 0x11 => { pre := ftrigPre, main := ftrigMain }
  | 0x30 => haulBody
  | 0x31 => { pre := fun _ r => ([[]], r), main := dropMain }
  | _ => { pre := movePre, main := moveMain }

/-- DESCRIPTOR_SUBMIT: descriptors whose bytes have arrived land, and each command that has started takes the free slots. -/
def descriptorSubmit (s : State) (core : Nat) : State :=
  if !coreRuns s core then s
  else
    let seqs := (engineOf s core 4).held.filterMap (fun h => if h.latch.isSome then some (h.seq, wordOp h.entry.word) else none)
    seqs.foldl (fun a q =>
      let b := landFor a core q.1
      if carriedOut b core 4 q.1 then b else tryCommand b core 4 q.1 (meBody q.2)) s

def execDescriptorSubmit (core : Nat) (s : State) : Host.Outcome State Fault Refusal := .next (settle (descriptorSubmit s core))

end Sys2Proof.Machine
end

