-- ==== Sys2Proof/Machine/BulkIn.lean ====
section
/-! DEFINITION. Bulk packets as they arrive (R191 to R196, R202, R450): table sets, raw bytes, segments and their expansion, and
the ends of Places. -/

namespace Sys2Proof.Machine

/-! ### Table sets (R191, R193, R196) -/

/-- The lengths of one table of Table 5.7. -/
def tableOf (d : List Byte) : List Nat := (List.range 256).map (fun v => bits (nth 0 d (v / 2)).toNat (4 * (v % 2)) 4)

/-- The tables of a table-set unit, one per plane; none for a unit that breaks Table 5.7. -/
def parseTables (d : List Byte) : Option (List (List Nat)) :=
  let code := field d 2 1
  let mask := field d 4 4
  let P := planesOf code
  if field d 0 2 ≠ 1 ∨ code = 0 ∨ 5 < code ∨ 2 ^ P ≤ mask then none
  else
    let ts := (List.range P).map (fun p =>
      if bit mask p then tableOf ((d.drop (16 + 128 * (List.range p).countP (fun q => bit mask q))).take 128) else List.replicate 256 8)
    if ts.all (fun t => t.all (fun l => decide (1 ≤ l) && decide (l ≤ 12))) then some ts else none

/-- Slots of a die's table store in use, one transfer apart. -/
def slotsUsed (s : State) (d : Nat) (x : RecvXfer) : Nat :=
  ((s.fabric.recvs.filter (fun y => y.die == d && !(y.peer == x.peer && y.number == x.number))).map RecvXfer.slots).sum

/-- A packet of a coded stream belongs to its table-set unit: at offset 0, or while the unit is incomplete. -/
def ofTableSet (x : RecvXfer) (p : Packet) : Bool := bit p.word3 57 && (bits p.word3 16 40 == 0 || !x.headDone)

/-- Bytes of a table-set unit arrive; a whole unit is answered. -/
def tableSetArrives (s : State) (p : Packet) : State :=
  let n := p.word3 % 2 ^ 16
  match findRecv s p.src n with
  | none => s
  | some x =>
    let off := bits p.word3 16 40
    let head := if off = 0 then [] else x.head
    if !ofTableSet x p ∨ off ≠ head.length then s
    else
      let d := head ++ p.payload
      let need := 16 + 128 * (List.range 32).countP (fun i => bit (field d 4 4) i)
      if d.length < 16 ∨ d.length < need then
        updRecv s p.src n (fun y => { y with head := d, headDone := false })
      else
        let die := xferDie s p.src n
        let slots := tableSlots (field d 4 4)
        let fits := decide (slotsUsed s die x + slots ≤ 4096)
        let s1 := updRecv s p.src n (fun y => { y with
          head := [], headDone := true, die := die, slots := if fits then slots else 0, tables := if fits then parseTables d else none,
          nextOffset := if y.nextOffset = 0 then need else y.nextOffset })
        let s2 := if fits then s1 else raise (addSatF s1 F.NFAB_CMP_PASS_busy die 1) (cmpPage die) 3
        send s2 { mkPacket s2 ptTableAns p.src 0 0 n 15 [] with status := if fits then 0 else 9 }

def execTableSetUnit (packet : Packet) (s : State) : Host.Outcome State Fault Refusal :=
  .next (settle (delivered s packet ptBulkData (fun s => tableSetArrives s packet)))

/-! ### Bytes (R450) -/

/-- What follows any delivery of bytes of a transfer: its Places, or the descriptors of the command that reads. -/
def afterBytes (s : State) (x : RecvXfer) : State :=
  match x.reader with
  | some (core, seq) => landFor s core seq
  | none => settleRecvs s

/-- Where the descriptor or Place ends in which an offset of a transfer lies. -/
def extentEnd (s : State) (x : RecvXfer) (off : Nat) : Option Nat :=
  match x.reader with
  | some (core, seq) =>
    (s.descriptors.find? (fun d => d.core == core && d.seq == seq && d.xfer == x.number && d.peer == x.peer && d.remote &&
      decide (d.off ≤ off) && decide (off < d.off + d.len))).map (fun d => d.off + d.len)
  | none => (x.places.find? (fun q => decide (q.offset ≤ off) && decide (off < q.offset + q.bytes))).map (fun q => q.offset + q.bytes)

/-- The raw bytes of a packet: fewer than 16 past the end of the descriptor or Place in which it begins fill its last unit. -/
def rawBytes (s : State) (x : RecvXfer) (off : Nat) (bs : List Byte) : List Byte :=
  match extentEnd s x off with
  | some e => if off + bs.length < e + 16 then bs.take (e - off) else bs
  | none => bs

/-- Coded bytes join the stream at their offset: what the last unit of the packet before was filled with is dropped. -/
def joinStream (y : RecvXfer) (off : Nat) (bs : List Byte) : RecvXfer :=
  { y with stream := y.stream.take (y.stream.length - (y.nextOffset - off)) ++ bs, nextOffset := off + bs.length }

/-- BULKDATA: raw bytes go to their offset; coded bytes join the stream in offset order. -/
def bulkData (s : State) (p : Packet) : State :=
  let n := p.word3 % 2 ^ 16
  match findRecv s p.src n with
  | none => s
  | some x =>
    let off := bits p.word3 16 40
    if !bit p.word3 57 then
      let bs := rawBytes s x off p.payload
      let s1 := updRecv s p.src n (fun y => { y with expanded := y.expanded + bs.length })
      afterBytes (deliverBytes s1 x off bs false) x
    else if ofTableSet x p ∨ x.nextOffset < off ∨ off + 16 ≤ x.nextOffset then s
    else updRecv s p.src n (fun y => joinStream y off p.payload)

def execBulkdata (packet : Packet) (s : State) : Host.Outcome State Fault Refusal :=
  .next (settle (delivered s packet ptBulkData (fun s => bulkData s packet)))

/-! ### Expansion (R202) -/

/-- Length on the wire of the segment at the front of a stream; one with a shorter pad_len than a header takes the header. -/
def wireLength (bs : List Byte) : Nat := max 8 (field bs 6 2)

/-- An expansion error: a deferred record names the sender and the transfer. -/
def expansionError (s : State) (x : RecvXfer) : State :=
  let s1 := raise (setF (addSatF s F.NFAB_CMP_DERR_count x.die 1) F.NFAB_CMP_DERR_source x.die x.peer) (cmpPage x.die) 2
  fault s1 { cls := 2, cause := 0x0012, page := cmpPage x.die, agent := x.peer, index := (x.number : Int) }

/-- Fewer than 16 bytes without a length may be what fills a packet's last unit: no segment begins with them yet. -/
def onlyFill (bs : List Byte) : Bool := decide (bs.length < 16) && field bs 0 2 == 0

/-- SEGMENT_EXPAND: the next whole segment of a transfer is expanded, or its lines are poisoned. -/
def segmentExpand (s : State) (hub xfer : Nat) : State :=
  match findRecv s hub xfer with
  | none => s
  | some x =>
    if !x.headDone ∨ x.stream.length < 8 ∨ onlyFill x.stream ∨ x.stream.length < wireLength x.stream ∨ x.total ≤ x.expanded then s
    else
      let n := wireLength x.stream
      let want := min 4096 (x.total - x.expanded)
      let out := expandSegment x.tables (x.stream.take n)
      let good : Bool := match out with | some bs => bs.length == want | none => false
      let s1 := updRecv s hub xfer (fun y => { y with
        stream := y.stream.drop n, expanded := y.expanded + want, slots := if y.total ≤ y.expanded + want then 0 else y.slots })
      if good then afterBytes (deliverBytes s1 x x.expanded (out.getD []) false) x
      else afterBytes (deliverBytes (expansionError s1 x) x x.expanded (zeroBytes want) true) x

def execSegmentExpand (hub : Nat) (xfer : Nat) (s : State) : Host.Outcome State Fault Refusal :=
  .next (settle (segmentExpand s hub xfer))

/-! ### BulkDone (R450) -/

/-- The descriptor that a request carries ends; a refusal fails its command with XLATE and code ACCESS. -/
def endDescriptor (s : State) (core id : Nat) (error xl : Nat) : State :=
  match s.descriptors.find? (fun d => d.core == core && d.id == id && d.srcSpace != 3) with
  | none => s
  | some d =>
    let s1 := dropDescriptor s core d.seq id
    match heldCmd s1 core 4 d.seq with
    | none => s1
    | some h =>
      let s2 := if error ≠ 0 ∧ h.error = 0 then failCommand s1 core 4 h error xl 0 .wr else s1
      landFor s2 core d.seq

/-- BULKDONE: a descriptor's bytes have been written at their home, or refused. -/
def bulkDone (s : State) (p : Packet) : State :=
  match findRequest s p.tag with
  | none => s
  | some q =>
    if q.packet.dst ≠ p.src then s
    else match q.purpose with
      | .descriptor core id => endDescriptor (closeRequest s p.tag) core id (if p.status = 0 then 0 else errXlate) (if p.status = 0 then 0 else xlAccess)
      | _ => s

def execBulkdone (packet : Packet) (s : State) : Host.Outcome State Fault Refusal :=
  .next (settle (delivered s packet ptBulkDone (fun s => bulkDone s packet)))

end Sys2Proof.Machine
end

