-- ==== Sys2Proof/Machine/ResetBase.lean ====
section
/-! DEFINITION. Partition resets and core fences (ch. 15, R524 to R534), the notices that go with them (R526, R470), lock scans
(R134) and the move of host queues (R362, R363), as the operations that several commands share. -/

namespace Sys2Proof.Machine

/-- The RAS page. -/
def rasPage : Nat := F.RAS_COUNT_corrected.page

/-! ### Notices (R468, R470, R526) -/

/-- Send a Loss to the domain's hub set. -/
def sendLoss (s : State) (agent part : Nat) : State :=
  spread s (mkPacket s ptLoss 0 0 0 0 part (leBytes 16 (agent % 2 ^ 12))) 3 (domainHubs s)

/-- Send the epoch notice of a partition, or of the hub for 15 (R526). -/
def sendNotice (s : State) (part : Nat) : State := sendLoss s (hubId s) part

/-! ### Lock scans (R133, R134) -/

/-- The scan of one object: waiters of a lost requester leave, a lock that it holds is abandoned. -/
def scanObj (lost : Requester → Bool) (s : State) (k : Nat) : State :=
  let o := syncObj s k
  let gone := (o.waiters.filter (fun w => lost w.who)).length
  let o1 := { o with waiters := o.waiters.filter (fun w => !lost w.who), arrived := if o.kind = .barrier then o.arrived - gone else o.arrived }
  let s1 := if gone = 0 then s else regrant (setObj s k o1) k
  match (syncObj s1 k).kind, (syncObj s1 k).holder with
  | .lock, some w => if lost w then abandonLock s1 k else s1
  | _, _ => s1

/-- The scan of R134 over every object of this hub. -/
def scanLocks (lost : Requester → Bool) (s : State) : State := (s.sync.objs.map Prod.fst).foldl (scanObj lost) s

/-- Threads of a partition of a hub, or of the whole hub for part 15. -/
def threadsOf (hub part : Nat) (w : Requester) : Bool :=
  match w with
  | .thread h p _ _ => h == hub && (part == 15 || p == part)
  | .host _ => false

/-! ### Host queues (R362, R363) -/

/-- Queues that run on a core. -/
def queuesOn (s : State) (core : Nat) : Nat := s.queues.countP (fun e => e.2.bound && e.2.core == core)

/-- The core on which the hub runs a queue of a partition: unfenced, with the fewest bound queues, of the lowest number. -/
def queueCore (s : State) (part : Nat) : Nat :=
  let cs := (range (32 * part) 32).filter (fun c => !(coreOf s c).fenced)
  match cs with
  | [] => 32 * part
  | c :: t => t.foldl (fun a x => if queuesOn s x < queuesOn s a then x else a) c

/-- Where a queue bound to a partition runs now: there, or on the lowest-numbered up partition of the same slice. -/
def queuePart (s : State) (part : Nat) : Nat :=
  if partUp s part && !memOnly s part then part
  else ((range (part / 6 * 6) 6).find? (fun p => partUp s p && !memOnly s p)).getD part

/-- Change a queue. -/
def updQueue (s : State) (q : Nat) (f : HostQueue → HostQueue) : State :=
  { s with queues := Tab.upd HostQueue.empty s.queues q f }

/-- Every command in flight on a queue that has not completed completes with a status. -/
def endCommands (q : HostQueue) (now status : Nat) : HostQueue :=
  { q with cmds := q.cmds.map (fun c =>
      if c.complete.isNone then { c with started := true, waiting := false, complete := some (status, 0, 0), doneAt := now } else c) }

/-- A waiter of a host queue of this hub. -/
def Waiter.isQueue (w : Waiter) (q : Nat) : Bool :=
  match w.who with
  | .host _ => w.tag / 65536 == q
  | _ => false

/-- The synchronisation operations of a queue that something still has to answer are taken back. -/
def dropQueueSyncs (s : State) (q : Nat) : State :=
  let s1 := { s with sync := { s.sync with flight := s.sync.flight.filter (fun f => !(match f.2.who with | .host _ => f.2.tag / 65536 == q | _ => false)) } }
  let s2 := updFabric s1 (fun f => { f with requests := f.requests.filter (fun r => match r.purpose with | .host a _ => a != q | _ => true) })
  (s2.sync.objs.map Prod.fst).foldl (fun a k =>
    ((syncObj a k).waiters.filter (fun w => w.isQueue q)).foldl (fun b w => removeWaiter b k w.who w.tag) a) s2

/-- The commands in flight on a queue end: its PAGE_OUTs that have not completed leave no lease (R363). -/
def dropQueueWork (s0 : State) (q : Nat) : State :=
  let s := dropQueueSyncs s0 q
  let gone := (s.regions.leaseReqs.filter (fun r => r.queue == q)).map LeaseReq.lease
  { s with
    regions := { s.regions with leaseReqs := s.regions.leaseReqs.filter (fun r => r.queue != q) }
    seam := s.seam.map (fun d => { d with leases := d.leases.filter (fun l => !gone.contains l) }) }

/-- The queues that ran on a partition move. -/
def moveQueues (s : State) (p : Nat) : State :=
  (s.queues.map Prod.fst).foldl (fun a q =>
    let x := Tab.getC HostQueue.empty a.queues q
    if x.bound ∧ x.runningOn = p then
      let dest := queuePart a p
      updQueue (dropQueueWork a q) q (fun y => { endCommands y a.now 6 with runningOn := dest, core := queueCore a dest })
    else a) s

/-- The queues that ran on a fenced core move to another core of the partition. -/
def moveFromCore (s : State) (core : Nat) : State :=
  (s.queues.map Prod.fst).foldl (fun a q =>
    let x := Tab.getC HostQueue.empty a.queues q
    if x.bound ∧ x.core = core then updQueue a q (fun y => { y with core := queueCore a (partOfCore core) }) else a) s

/-! ### A partition resets (R528 to R532) -/

/-- The handles of the streams that have a thread where a test says. -/
def streamsWith (s : State) (p : Nat → Bool) : List Nat :=
  s.tick.streams.filterMap (fun e => if e.2.threads.any (fun k => p (keyCore k)) then some e.1 else none)

/-- What has not left a partition is discarded, and the hub no longer takes answers for it (R525, R530, R531). -/
def discardPartition (s : State) (p : Nat) : State :=
  let mine := fun (core : Nat) => partOfCore core == p
  { s with
    descriptors := s.descriptors.filter (fun d => !mine d.core)
    haulRuns := s.haulRuns.filter (fun r => !mine r.core)
    fabric := { s.fabric with
      requests := s.fabric.requests.filter (fun r => r.packet.spart != p)
      sends := s.fabric.sends.filter (fun x => x.serves || !mine x.core)
      recvs := s.fabric.recvs.filter (fun x => match x.reader with | some (c, _) => !mine c | none => true)
      inbox := s.fabric.inbox.filter (fun e => !mine (e.1 % 384))
      proxies := [] }
    seam := s.seam.map (fun d => { d with waiting := d.waiting.filter (fun r => match r.who with
      | .engine core _ _ _ _ => !mine core
      | _ => true) })
    sync := { s.sync with flight := s.sync.flight.filter (fun f => !threadsOf (hubId s) p f.2.who) }
    xlt := { s.xlt with
      coreTlb := s.xlt.coreTlb.filter (fun e => !mine e.1)
      partTlb := Tab.erase s.xlt.partTlb p
      walks := s.xlt.walks.filter (fun w => !mine w.core) } }

/-- The contents that a partition loses (R265, R320). Its cores keep their fences. -/
def clearPartition (s : State) (p : Nat) : State :=
  let sLo := 32 * p * sSize
  let cLo := 2 * p * cSize
  { s with
    sspace := zeroSpan s.sspace sLo (32 * sSize)
    cspace := zeroSpan s.cspace cLo (2 * cSize)
    ras := { s.ras with
      poisonS := s.ras.poisonS.filter (fun e => !(decide (sLo / 8 ≤ e.1) && decide (e.1 < (sLo + 32 * sSize) / 8)))
      poisonC := s.ras.poisonC.filter (fun e => !(decide (cLo / 8 ≤ e.1) && decide (e.1 < (cLo + 2 * cSize) / 8))) }
    bitmaps := Tab.erase (Tab.erase s.bitmaps (2 * p)) (2 * p + 1)
    cores := (s.cores.filter (fun e => partOfCore e.1 != p || e.2.fenced)).map (fun e =>
      if partOfCore e.1 = p then (e.1, { Core.empty with fenced := true }) else e) }

/-- The locks of a hub's partition, of every one for 15, leave every held list of this hub (R128). -/
def dropHeldLocks (s : State) (hub part : Nat) : State :=
  { s with threads := s.threads.map (fun e =>
      (e.1, { e.2 with held := e.2.held.filter (fun n => !(objHub n == hub && (part == 15 || objPart n == part))) })) }

/-- The objects of a partition return to semaphores, their waiters receive RESET, and its locks leave the held lists (R128,
R136). -/
def clearObjects (s : State) (p : Nat) : State :=
  dropHeldLocks (((s.sync.objs.map Prod.fst).filter (fun k => k / 6144 == p)).foldl resetObj s) (hubId s) p

/-- Waits of this hub's threads on objects of a partition of another hub complete with RESET (R526). -/
def resetWaits (s : State) (hub part : Nat) : State :=
  { s with
    threads := s.threads.map (fun e => (e.1, { e.2 with sync := e.2.sync.map (fun o =>
      if o.op = 0x0A ∧ o.answer.isNone ∧ objHub o.obj = hub ∧ (part = 15 ∨ objPart o.obj = part) then
        { o with answer := some (stReset, 0), outstanding := false }
      else o) }))
    haulRuns := s.haulRuns.map (fun r =>
      if r.asked ∧ !r.granted ∧ objHub r.freeObj = hub ∧ (part = 15 ∨ objPart r.freeObj = part) then { r with asked := false, stopping := true }
      else r) }

/-- Advance a partition's epoch (R524). -/
def nextEpoch (s : State) (p : Nat) : State := updPart s p (fun x => { x with epoch := (x.epoch + 1) % 2 ^ 32 })

/-- A stack's reserve misses every write while its partition is away: its copy of the directory is stale (R388). -/
def staleCopy (s : State) (p : Nat) : State :=
  let mark (a : State) (d : Nat) : State :=
    let v := getF a F.SEAM_DIR_copy_stale d
    setF a F.SEAM_DIR_copy_stale d (if bit v p then v else v + 2 ^ p)
  mark (mark s 0) 1

/-- An interrupt source of the ELN pages: both instances show the same state (R477). -/
def elnRaise (s : State) (b : Nat) : State := raise (raise s F.ELN_STATE_lifecycle.page b) (F.ELN_STATE_lifecycle.page + 1) b

/-- A reset ends an open debug; its restrictions stand until the reset has ended (R512). -/
def endDebug (s : State) (p : Nat) : State :=
  if Tab.getC 0 s.eloan.debugOpen p = 0 then s
  else
    elnRaise { s with eloan := { s.eloan with
      debugOpen := Tab.erase s.eloan.debugOpen p
      debugOpening := if Tab.getC 0 s.eloan.debugOpening p = 0 then Tab.insert s.eloan.debugOpening p 3 else s.eloan.debugOpening } } 1

/-- A line lies in the guarded far tier. -/
def guardedLine (s : State) (line : Nat) : Bool :=
  match farSlot s (line * 64) with
  | some f => f.guarded
  | none => false

/-- A dirty line of a home line cache whose tag or data do not check clean is written as poison, with a record (R532, Table
15.2). Guarded lines are never dirty (R538). -/
def dirtyLost (s : State) (line : Nat) : State :=
  if guardedLine s line then s
  else fault (poisonLines s [line]) { cls := 2, cause := 0x0005, page := rasPage, actions := 16, pa := localPa s (line * 64) }

/-- An error in a dirty line that partition p is home of. -/
def dirtyOf (s : State) (p : Nat) (e : SiliconError) : Bool :=
  match e with
  | .cacheData line true => homePart s (line * 64) == some p
  | _ => false

/-- At its reset a partition writes back its dirty lines: those that do not check clean become poison (R532). -/
def writeBack (s : State) (p : Nat) : State :=
  (s.ras.errors.filter (dirtyOf s p)).foldl (fun a e => match e with | .cacheData line _ => dirtyLost a line | _ => a)
    { s with ras := { s.ras with errors := s.ras.errors.filter (fun e => !dirtyOf s p e) } }

/-- A partition leaves the up state as Table 15.7 lays down: its runs abort, its contents and caches are lost, its epoch
advances, the stand-in takes its place. Its tagged commands produce no record (R605). -/
def leaveUp (s0 : State) (p : Nat) : State :=
  let s := writeBack s0 p
  let s1 := (sampler s p).inFlight.foldl (fun a _ => loseSample a p) (updSampler s p (fun x => { x with inFlight := [] }))
  let s2 := (streamsWith s1 (fun c => partOfCore c == p)).foldl (fun a h => abortFor a h 2 (fun _ => true)) s1
  let s3 := updPart s2 p (fun x => { x with state := .inReset, standin := true })
  let s4 := clearPartition (discardPartition (nextEpoch s3 p) p) p
  let s5 := clearObjects (scanLocks (threadsOf (hubId s) p) s4) p
  endDebug (staleCopy (moveQueues (sendNotice s5 p) p) p) p

/-- A partition that is up is reset (R530), with a record of a cause and a detail. One already in reset or asleep is left
alone. -/
def resetWith (s : State) (p record detail : Nat) : State :=
  if 12 ≤ p ∨ !partUp s p then s
  else leaveUp (raise (fault s { cls := 3, cause := record, page := rasPage, actions := 8, detail := detail }) rasPage 0) p

/-- A partition reset whose record names PART_RESET; `cause` is the trigger's cause. -/
def beginReset (s : State) (p cause : Nat) : State := resetWith s p 0x0019 cause

/-! ### A core is fenced (R529) -/

/-- Fence a core: its instances abort, its queues move, its caches and TLB are emptied (R265, R320). -/
def fenceCore (s : State) (core cause : Nat) : State :=
  if 384 ≤ core ∨ (coreOf s core).fenced then s
  else
    let s1 := raise (fault s { cls := 2, cause := 0x001B, page := rasPage, actions := 4, detail := cause, core := core }) rasPage 3
    let s2 := (streamsWith s1 (fun c => c == core)).foldl (fun a h => abortFor a h 3 (fun _ => true)) s1
    let s3 := { s2 with
      cores := Tab.insert s2.cores core { Core.empty with fenced := true }
      descriptors := s2.descriptors.filter (fun d => d.core != core)
      haulRuns := s2.haulRuns.filter (fun r => r.core != core)
      sspace := zeroSpan s2.sspace (core * sSize) sSize
      xlt := { s2.xlt with coreTlb := Tab.erase s2.xlt.coreTlb core, walks := s2.xlt.walks.filter (fun w => w.core != core) } }
    moveFromCore s3 core

end Sys2Proof.Machine
end

