-- ==== Sys2Proof/Machine/PowerBase.lean ====
section
/-! DEFINITION. Operating points (ch. 18): the requested and the effective point of a partition, its ceilings, the limits
between neighbours, the fast loop, the sustained loop, temperature limits, droop margins and calibration slots. Times are in
half-nanoseconds, package power in 0.1 mW, partition power in 10 mW, temperatures in quarter degrees. -/

namespace Sys2Proof.Machine

/-! ### Points (R611 to R613) -/

/-- The PWR pages. -/
def pwrPage (p : Nat) : Nat := F.PWR_PART_TARGET_point.page + p
def pkgPage : Nat := F.PWR_PKG_VIN_mv.page

/-- The power machinery of a partition. -/
def powerOf (s : State) (p : Nat) : PowerPart := Tab.getC PowerPart.cold s.power p

/-- Change it. -/
def updPower (s : State) (p : Nat) (f : PowerPart → PowerPart) : State :=
  { s with power := Tab.upd PowerPart.cold s.power p f }

/-- Clock of a point in MHz (R611). -/
def pointMHz (n : Nat) : Nat := 800 + 50 * n

/-- Nominal rail voltage of a point in 0.1 mV (R611). -/
def pointVolt (n : Nat) : Nat := 6600 + 125 * n

/-- A partition with cores. -/
def cored (s : State) (p : Nat) : Bool := !memOnly s p

/-- The partitions with cores that are up. -/
def coredUp (s : State) : List Nat := (List.range 12).filter (fun p => cored s p && partUp s p)

/-- The other partitions of the same hub die. -/
def neighbours (p : Nat) : List Nat := (range (p / 3 * 3) 3).filter (fun q => q != p)

/-- The clock floor of a partition. -/
def clkFloor (s : State) (p : Nat) : Nat := getF s F.TICK_PART_ADMIT_clk_floor p

/-- The requested point (R612); a memory-only partition runs at point 0 (R7). -/
def requested (s : State) (p : Nat) : Nat :=
  if memOnly s p then 0 else max (getF s F.PWR_PART_TARGET_point p) (clkFloor s p)

/-- The ceiling that a limit holds: the variant's highest point until the limit first acts (R612). -/
def ceiling (s : State) (p : Nat) (l : Limit) : Nat :=
  match (powerOf s p).ceilings.find? (fun e => e.1 == l) with | some e => e.2 | none => topPoint s

/-- Set a limit's ceiling. -/
def setCeiling (s : State) (p : Nat) (l : Limit) (n : Nat) : State :=
  let rest := (powerOf s p).ceilings.filter (fun e => e.1 != l)
  updPower s p (fun x => { x with ceilings := if topPoint s ≤ n then rest else (l, n) :: rest })

/-- The lowest of the requested point and the five ceilings (R612). -/
def ceiled (s : State) (p : Nat) : Nat :=
  (powerOf s p).ceilings.foldl (fun a e => min a e.2) (requested s p)

/-- The highest point that a cored neighbour at a point allows: clock at or below 1.8 times its own (R615). -/
def ratioAllows (m : Nat) : Nat := (9 * pointMHz m / 5 - 800) / 50

/-- Neighbours whose clock counts for the ratio: those with cores that are not asleep. -/
def clockedNeighbours (s : State) (p : Nat) : List Nat :=
  (neighbours p).filter (fun q => cored s q && decide ((partition s q).state ≠ .asleep))

/-- The effective point of a partition (R612). -/
def effective (s : State) (p : Nat) : Nat :=
  if memOnly s p then 0
  else (clockedNeighbours s p).foldl (fun a q => min a (ratioAllows (ceiled s q))) (ceiled s p)

/-- The point at which the clock runs now: a raise has ended when its time has come (R613). -/
def pointNow (s : State) (p : Nat) : Nat :=
  match (powerOf s p).rising with
  | some (n, t) => if t ≤ s.now then n else (powerOf s p).point
  | none => (powerOf s p).point

/-- The point that a raise on its way will reach, else the point now. -/
def pointGoal (s : State) (p : Nat) : Nat :=
  match (powerOf s p).rising with
  | some (n, _) => n
  | none => (powerOf s p).point

/-! ### Rails (R614) -/

/-- Rail voltage of a partition without its lift, in 0.1 mV. -/
def railBase (s : State) (p : Nat) : Nat := pointVolt (max (pointNow s p) (pointGoal s p)) + 50 * (powerOf s p).margin

/-- The lift that keeps a rail within 200 mV of its neighbours, in 5 mV. -/
def liftOf (s : State) (p : Nat) : Nat :=
  let top := ((neighbours p).filter (fun q => decide ((partition s q).state ≠ .asleep))).foldl (fun a q => max a (railBase s q)) 0
  min 10 (ceilDiv (top - 2000 - railBase s p) 50)

/-- Adjust every lift; one that rises shows that a neighbour limit acted. -/
def adjustLifts (s : State) : State :=
  (List.range 12).foldl (fun a p =>
    let l := liftOf s p
    let b := updPower a p (fun x => { x with lift := l })
    if (powerOf s p).lift < l then raise b (pwrPage p) 2 else b) s

/-! ### Below the floor (R620) -/

/-- The effective clock lies below the clock of the floor. -/
def underFloor (s : State) (p : Nat) : Bool :=
  cored s p && partUp s p && decide (pointMHz (effective s p) * (powerOf s p).duty < pointMHz (clkFloor s p) * 16)

/-- Mark what runs below its floor in this tick. -/
def markFloors (s : State) : State :=
  (List.range 12).foldl (fun a p =>
    if underFloor a p ∧ !(powerOf a p).belowFloor then raise (updPower a p (fun x => { x with belowFloor := true })) (pwrPage p) 0
    else a) s

/-! ### Applying points (R613, R615) -/

/-- A raise of a partition ends k + 1 µs from now, and not before a slower neighbour's that the ratio waits for. -/
def riseEnd (s : State) (p : Nat) : Nat :=
  let own (q : Nat) : Nat := s.now + 2000 * (effective s q - pointNow s q + 1)
  (clockedNeighbours s p).foldl (fun a q =>
    if ratioAllows (pointNow s q) < effective s p then max a (own q) else a) (own p)

/-- One partition takes its effective point: lower at once, higher only at step 2 of an OPEN. -/
def applyPoint (s : State) (atOpen : Bool) (a : State) (p : Nat) : State :=
  let e := effective s p
  let cur := pointNow s p
  let b : State :=
    if e < cur then updPower a p (fun x => { x with point := e, rising := none })
    else if e < pointGoal s p then
      updPower a p (fun x => { x with point := cur, rising := if e = cur then none else x.rising.map (fun r => (e, r.2)) })
    else if atOpen ∧ cur < e then
      updPower a p (fun x => { x with point := cur, rising := if pointGoal s p = e then x.rising else some (e, riseEnd s p) })
    else a
  if cored s p ∧ e < ceiled s p ∧ e < pointGoal s p then raise b (pwrPage p) 2 else b

/-- Every partition takes its effective point, lifts and floor marks follow. -/
def applyPoints (s : State) (atOpen : Bool) : State :=
  markFloors (adjustLifts ((List.range 12).foldl (applyPoint s atOpen) s))

/-! ### Reports and the fast loop (R610, R618) -/

/-- Package power limit of the fast loop, in 0.1 mW: PWR_PKG_LIMIT.inst or VIN × 210 A. -/
def fastLimit (s : State) : Nat := min (getF s F.PWR_PKG_LIMIT_inst 0 * 10000) (getF s F.PWR_PKG_VIN_mv 0 * 2100)

/-- Last reported package power, in 0.1 mW. -/
def pkgPower (s : State) : Nat := getF s F.PWR_PKG_VIN_mv 0 * getF s F.PWR_PKG_VIN_amps 0

/-- A power plus 2 % lies within a limit. -/
def inLimit (power limit : Nat) : Bool := decide (power * 102 ≤ limit * 100)

/-- The reported power of a partition scaled to full duty, in sixteenths of 10 mW. -/
def fullDraw (s : State) (p : Nat) : Nat := (powerOf s p).report * 16 * 16 / (powerOf s p).duty

/-- The limit of a partition in 10 mW. -/
def partLimit (s : State) (p : Nat) : Nat := getF s F.PWR_PART_LIMIT_watts p * 100

/-- The highest duty whose draw a test admits, at least 1. -/
def fitDuty (ok : Nat → Bool) : Nat := ((List.range 16).reverse.map (· + 1)).find? ok |>.getD 1

/-- Duty that a partition's own limit admits. -/
def partDuty (s : State) (p : Nat) : Nat := fitDuty (fun d => inLimit (fullDraw s p * d / 16) (partLimit s p * 16))

/-- Duty that the package limit admits, the same for every cored partition. -/
def pkgDuty (s : State) : Nat :=
  let ps := coredUp s
  let now := ps.foldl (fun a p => a + (powerOf s p).report) 0
  fitDuty (fun d =>
    let cores := ps.foldl (fun a p => a + fullDraw s p * min d (partDuty s p) / 16) 0
    inLimit ((pkgPower s - now * 100) * 16 + cores * 100) (fastLimit s * 16))

/-- The fast loop meets a report: it lowers duty, and notes since when a lowered duty's limits have held with margin. -/
def fastLoop (s : State) : State :=
  let pk := pkgDuty s
  let pkgOver := !inLimit (pkgPower s) (fastLimit s)
  let s1 := (coredUp s).foldl (fun a p =>
    let x := powerOf s p
    let own := partDuty s p
    let ownOver := !inLimit x.report (partLimit s p)
    let want := min (if ownOver then own else 16) (if pkgOver then pk else 16)
    let duty := min x.duty want
    let ok := (!bit x.dutyBy 1 || own == 16) && (!bit x.dutyBy 0 || pk == 16)
    updPower a p (fun y => { y with
      duty := duty
      dutySince := if x.duty = 16 ∧ duty < 16 then s.now else y.dutySince
      dutyBy := if duty < x.duty then y.dutyBy ||| ((if pkgOver ∧ pk ≤ duty then 1 else 0) + (if ownOver ∧ own ≤ duty then 2 else 0)) else y.dutyBy
      marginSince := if duty < x.duty then none else if duty < 16 ∧ ok then (if y.marginSince.isSome then y.marginSince else some s.now) else none }))
    s
  let acted := (coredUp s).any (fun p => (powerOf s1 p).duty < (powerOf s p).duty && pkgOver && decide (pk ≤ (powerOf s1 p).duty))
  markFloors (if acted then raise s1 pkgPage 3 else s1)

/-- The replacement of a duty by a point (R618): the highest point whose clock lies at or below the effective clock. Below the
clock of point 0 there is none, and the duty stays. -/
def replaceDuty (s : State) (p : Nat) : State :=
  let x := powerOf s p
  let clk := pointMHz (pointNow s p) * x.duty / 16
  if 12 ≤ p ∨ 16 ≤ x.duty ∨ s.now < x.dutySince + 200000 ∨ clk < 800 then s
  else
    let n := (clk - 800) / 50
    let s1 := setCeiling s p .power (min n (ceiling s p .power))
    applyPoints (updPower s1 p (fun y => { y with duty := 16, marginSince := none, dutyBy := 0 })) false

/-- The duty recovers once its limits have held with margin for 10 µs (R618). -/
def recoverDuty (s : State) (p : Nat) : State :=
  match (powerOf s p).marginSince with
  | some t =>
    if (powerOf s p).duty < 16 ∧ t + 20000 ≤ s.now then
      updPower s p (fun y => { y with duty := 16, marginSince := none, dutyBy := 0 })
    else s
  | none => s

/-- At an OPEN the fast loop raises its ceiling as far as its estimate admits (R618). -/
def raiseFast (s0 : State) (s : State) (p : Nat) : State :=
  let cap := ceiling s p .power
  let scaled (n : Nat) : Nat × Nat :=
    ((powerOf s0 p).report * (pointMHz n * (pointVolt n * pointVolt n)),
      pointMHz (pointNow s0 p) * (pointVolt (pointNow s0 p) * pointVolt (pointNow s0 p)))
  let fits (n : Nat) : Bool :=
    let (num, den) := scaled n
    inLimit num (partLimit s0 p * den) && inLimit ((pkgPower s0 - (powerOf s0 p).report * 100) * den + num * 100) (fastLimit s0 * den)
  match ((range (cap + 1) (requested s0 p - cap)).reverse).find? fits with
  | some n => setCeiling s p .power n
  | none => s

/-! ### The sustained loop (R619) -/

/-- Mean package power of the last second. -/
def sustainedMean (s : State) : Nat :=
  let l := s.pkg.reports.filter (fun r => decide (s.now ≤ r.1 + 2000000000))
  l.foldl (fun a r => a + r.2) 0 / max 1 l.length

/-- The mean 1 ms ahead at the present draw. -/
def projectedMean (s : State) : Nat :=
  let l := s.pkg.reports.filter (fun r => decide (s.now ≤ r.1 + 1998000000))
  (l.foldl (fun a r => a + r.2) 0 + 1000 * pkgPower s) / (l.length + 1000)

/-- The first element of greatest weight. -/
def argMax (w : Nat → Int) : List Nat → Option Nat
  | [] => none
  | p :: t => some (t.foldl (fun a q => if w a < w q then q else a) p)

/-- Lower the ceiling of a limit by one point. -/
def lowerCeiling (l : Limit) (s : State) (p : Nat) : State := setCeiling s p l (ceiling s p l - 1)

/-- The sustained loop runs: over the limit it lowers ceilings; at an OPEN 50 W below it, it raises one. -/
def sustainedLoop (s : State) (atOpen : Bool) : State :=
  let lim := getF s F.PWR_PKG_LIMIT_sustained 0 * 10000
  let ps := coredUp s
  if !inLimit (projectedMean s) lim then
    let over_ := ps.filter (fun p => clkFloor s p < effective s p)
    let s1 := match argMax (fun p => (effective s p : Int) - clkFloor s p) over_ with
      | some p => lowerCeiling .sustained s p
      | none => ps.foldl (lowerCeiling .sustained) s
    raise s1 pkgPage 2
  else if atOpen ∧ sustainedMean s * 102 + 500000 * 100 ≤ lim * 100 then
    match argMax (fun p => -(effective s p : Int)) (ps.filter (fun p => ceiling s p .sustained < requested s p)) with
    | some p => setCeiling s p .sustained (ceiling s p .sustained + 1)
    | none => s
  else s

/-! ### Temperature (R616, R621, R623) -/

/-- Throttle points of a partition in quarter degrees: core and stack. -/
def throttle (s : State) (p : Nat) : Int × Int :=
  (4 * (getF s F.PWR_PART_TCFG_t_throttle p : Int), 4 * (getF s F.PWR_PART_TCFG_hbm_throttle p : Int))

/-- Both sensors lie a number of quarter degrees below their throttle points. -/
def coolBy (s : State) (p : Nat) (d : Int) : Bool :=
  decide ((powerOf s p).coreTemp ≤ (throttle s p).1 - d ∧ (powerOf s p).stackTemp ≤ (throttle s p).2 - d)

/-- The temperature limit of one partition (R621). -/
def throttleStep (s : State) (p : Nat) : State :=
  if (throttle s p).1 ≤ (powerOf s p).coreTemp ∨ (throttle s p).2 ≤ (powerOf s p).stackTemp then
    raise (setCeiling s p .temperature (min (ceiling s p .temperature) (effective s p - 1))) (pwrPage p) 1
  else s

/-- How much hotter a partition's cores are than those of its coolest up neighbour. -/
def hotterBy (s : State) (p : Nat) : Int :=
  ((neighbours p).filter (partUp s)).foldl (fun a q => max a ((powerOf s p).coreTemp - (powerOf s q).coreTemp)) 0

/-- The neighbour-temperature limit of one partition (R616). -/
def neighbourStep (s : State) (p : Nat) : State :=
  let d := hotterBy s p
  let acting := decide (128 ≤ d) || ((powerOf s p).neighbourHeld && decide (120 < d))
  let s1 := updPower s p (fun x => { x with neighbourHeld := acting })
  if acting then
    raise (setCeiling s1 p .neighbour (min (ceiling s1 p .neighbour) (effective s p - 1))) (pwrPage p) 2
  else s1

/-- A die sensor reaches a temperature. -/
def dieAt (s : State) (t : Int) : Bool := s.pkg.dieTemp.any (fun x => decide (t ≤ x))

/-- The limits that act every 100 µs. -/
def thermalLimits (s : State) : State :=
  let ps := coredUp s
  let s1 := ps.foldl throttleStep s
  let s2 := ps.foldl neighbourStep s1
  let s3 := if dieAt s 420 then ps.foldl (lowerCeiling .dieSensor) s2 else s2
  applyPoints s3 false

/-! ### Step 2 of OPEN (R613, R616, R618, R619, R621, R623) -/

/-- A ceiling that may rise at an OPEN rises. -/
def relaxCeilings (s : State) (p : Nat) : State :=
  let s1 := if coolBy s p 12 then setCeiling s p .temperature (topPoint s) else s
  let s2 := if !(powerOf s1 p).neighbourHeld ∧ hotterBy s1 p < 108 then setCeiling s1 p .neighbour (topPoint s) else s1
  if dieAt s2 409 then s2 else setCeiling s2 p .dieSensor (ceiling s2 p .dieSensor + 1)

/-- Points at step 2 of OPEN: the ceilings that may rise do, then the raises begin. -/
def powerAtOpen (s : State) : State :=
  let s0 := (List.range 12).foldl (fun a p => updPower a p (fun x => { x with belowFloor := false })) s
  let s1 := (coredUp s0).foldl relaxCeilings s0
  let s2 := (coredUp s1).foldl (raiseFast s1) s1
  applyPoints (sustainedLoop s2 true) true

/-! ### Droop margin and calibration (R625, R626) -/

/-- A droop of a partition's rail. -/
def droop (s : State) (p : Nat) : State :=
  if 12 ≤ p ∨ !partUp s p then s
  else
    let x := powerOf s p
    let recent := s.now :: x.droops.filter (fun t => decide (s.now < t + 2000000))
    let rises := decide (getF s F.PWR_PART_DROOP_thresh p ≤ recent.length)
    let s1 := addSatF s F.PWR_PART_DROOP_events p 1
    let s2 := updPower s1 p (fun y => { y with
      droops := if rises then [] else recent, lastDroop := s.now, margin := if rises then min 10 (y.margin + 1) else y.margin })
    if rises ∧ x.margin < 10 then adjustLifts (raise s2 (pwrPage p) 3) else s2

/-- After 1 s without a droop the margin falls by 5 mV. -/
def marginDecay (s : State) (p : Nat) : State :=
  let x := powerOf s p
  if 12 ≤ p ∨ x.margin = 0 ∨ s.now < x.lastDroop + 2000000000 then s
  else adjustLifts (updPower s p (fun y => { y with margin := y.margin - 1, lastDroop := s.now }))

/-- When the current tick began. -/
def tickBegan (s : State) : Nat := s.now - s.tick.phase

/-- A partition uses its calibration slot, when the tick is one that uses it and the slot begins now. -/
def calibrate (s : State) (p : Nat) : State :=
  let x := powerOf s p
  let due := (match x.slotDue with | some t => decide (t ≤ tickBegan s) | none => false) ||
    decide (x.slotTime + 2000 * getF s F.PWR_PART_CAL_interval_us p ≤ tickBegan s)
  if 12 ≤ p ∨ !partUp s p ∨ s.tick.phase ≠ 2 * (1000 + 2000 * (p % 3)) ∨ !due then s
  else
    let s1 := updPower s p (fun y => { y with slotDue := none, slotTemp := y.stackTemp, slotTime := s.now })
    setF (addWrapF s1 F.PWR_PART_CAL_slots p 1) F.PWR_PART_CAL_last_tick p (tickNumber s)

/-- A stack has moved 5 °C since its last slot: the next tick uses the slot. -/
def noteStackTemp (s : State) (p : Nat) : State :=
  let x := powerOf s p
  if x.slotDue.isNone ∧ (20 ≤ x.stackTemp - x.slotTemp ∨ 20 ≤ x.slotTemp - x.stackTemp) then
    updPower s p (fun y => { y with slotDue := some (s.now + 1) })
  else s

end Sys2Proof.Machine
end

