-- ==== Sys2Proof/Machine/TickSource.lean ====
section
/-! DEFINITION. Where tick edges come from (R51 to R66, R95, R471, R472, R655): phase positions, the edge as a source places
it, lock and holdover, ring frames and in-band marks. Times are in half-nanoseconds. -/

namespace Sys2Proof.Machine

/-! ### Phase positions (Inside one tick, R67) -/

/-- The TICK page. -/
def tickPage : Nat := F.TICK_CTRL_role.page

/-- The period P in ns. -/
def period (s : State) : Nat := getF s F.TICK_PERIOD_period_ns 0
/-- The recovery headroom H in ns. -/
def headroomNs (s : State) : Nat := period s * getF s F.TICK_PHASE_headroom 0 / 256
/-- The WATCH point A in ns. -/
def watchNs (s : State) : Nat := period s * getF s F.TICK_PHASE_watch 0 / 256
/-- The deadline D in ns. -/
def deadlineNs (s : State) : Nat := period s - headroomNs s - 1000
/-- The ordinary window W in ns. -/
def windowNs (s : State) : Nat := period s - headroomNs s - 2000

/-- The number of ns since the hub's own edge has reached a position. -/
def reached (s : State) (ns : Nat) : Bool := decide (2 * ns ≤ s.tick.phase)

/-! ### Roles and lock (Table 2.1, R63 to R66) -/

/-- TICK_CTRL.role: 0 STANDALONE, 1 FOLLOWER, 2 RING_MASTER, 3 DOMAIN_MASTER. -/
def role (s : State) : Nat := getF s F.TICK_CTRL_role 0

/-- The hub's edges come from its own timer. -/
def ownTimer (s : State) : Bool := role s == 0 || role s == 3

/-- TICK_STATUS.lock: 0 UNLOCKED, 1 LOCKED, 2 HOLDOVER. -/
def lockOf (s : State) : Nat := getF s F.TICK_STATUS_lock 0

/-- TICK_STATUS.source: 0 none, 1 ring, 2 in-band, 3 own timer. -/
def sourceOf (s : State) : Nat := getF s F.TICK_STATUS_source 0

/-- Change the tick unit. -/
def updTick (s : State) (f : TickUnit → TickUnit) : State := { s with tick := f s.tick }

/-- Enter a lock state; entering HOLDOVER or UNLOCKED is an interrupt (Table 2.10). -/
def setLock (s : State) (l : Nat) : State :=
  if lockOf s = l then s
  else
    let s1 := setF s F.TICK_STATUS_lock 0 l
    if l = 1 then updTick s1 (fun t => { t with holdSince := none })
    else raise (updTick s1 (fun t => { t with holdSince := some (t.holdSince.getD s.now) })) tickPage (if l = 2 then 0 else 1)

/-- An edge has been measured against a source: the offset, the lock it gives, the source (R64). -/
def measured (s : State) (src : Nat) (off : Int) : State :=
  let s1 := setF (setF s F.TICK_OFFSET_offset 0 (unsigned 32 off)) F.TICK_STATUS_source 0 src
  setLock (updTick s1 (fun t => { t with noSource := none })) (if -50 ≤ off ∧ off ≤ 50 then 1 else 2)

/-- The hub has lost its source: HOLDOVER on the steered timer, and edges follow its own period (R65, R95). -/
def sourceLost (s : State) : State :=
  let s1 := setF (setF s F.TICK_STATUS_source 0 0) F.TICK_STATUS_period_mismatch 0 0
  let s2 := updTick s1 (fun t => { t with noSource := some (t.noSource.getD s.now), due := none })
  if lockOf s2 = 0 then s2 else setLock s2 2

/-- What a write of TICK_CTRL does to the source: a role with its own timer has it, another has none until it finds one. -/
def roleWritten (s : State) : State :=
  if ownTimer s then
    let s1 := setF (setF s F.TICK_STATUS_source 0 3) F.TICK_STATUS_period_mismatch 0 0
    setLock (updTick s1 (fun t => { t with noSource := none, due := none })) 1
  else if sourceOf s = 3 then sourceLost s
  else s

/-! ### Stalling a run (R89, R92) -/

/-- A record of the tick unit (Table 15.4). -/
def tickFault (s : State) (detail context : Nat) : State :=
  fault s { cls := 2, cause := 0x0020, page := tickPage, detail := detail, context := context }

/-- Partitions that a stream has entries for. -/
def partsOf (b : Budget) : List Nat := (b.entries.filter (fun e => e.kind == 0)).map Reservation.unit

/-- The cause of a stall: the first row of Table 2.9 whose condition held in the tick. When no row's condition held, the cause
is OVERSUB. -/
def stallCause (s : State) (x : Stream) (r : StreamRun) : Nat :=
  let ps := partsOf x.budget
  if r.recovery || ps.any (fun p => decide ((partition s p).state = .inReset)) then 5
  else if ps.any (fun p => (powerOf s p).belowFloor) then 4
  else if r.exceeded then 6
  else if r.farWait = 0 ∧ r.fabricWait = 0 ∧ r.hostWait = 0 then 6
  else if r.fabricWait ≤ r.farWait ∧ r.hostWait ≤ r.farWait then 1
  else if r.hostWait ≤ r.fabricWait then 2 else 3

/-- A thread of a stalled run issues no further word; what it waits for stays open (R105). -/
def stallThread (t : Thread) : Thread :=
  match t.state with
  | .run | .waitSync | .waitQueue | .waitDrain => { t with state := .stalled }
  | _ => t

/-- The run of a stream stalls. One that stalls again keeps the cause that made it late. -/
def stallRun (s : State) (h : Nat) : State :=
  match streamOf s h with
  | none => s
  | some x =>
    match x.run with
    | none => s
    | some r =>
      if r.state.over_ then s
      else
        let c := stallCause s x r
        let s1 := updRun s h (fun r => { r with
          late := true, cause := if r.late then r.cause else c, recomputing := false
          state := if r.state = .running then .stalled else r.state })
        tallyStream (x.threads.foldl (fun a k => updThread a (keyCore k) (keyCtx k) stallThread) s1) h 0x20 c

/-- The tick ends at a source's edge before its CLOSE: what is not complete stalls with OVERSUB (R95). -/
def cutTick (s : State) : State :=
  if s.tick.stage = 4 then s
  else
    let s1 := s.tick.streams.foldl (fun a e => stallRun (updRun a e.1 (fun r => { r with exceeded := true })) e.1) s
    updTick s1 (fun t => { t with stage := 4 })

/-! ### An edge as a source places it (R61, R62, R95, R633) -/

/-- The number that a source gives differs from the hub's own: the source's wins, with a record but for the first correction
after JOIN (R62, R633). -/
def corrected (s : State) : State := if s.startup.firstSource then s else raise (tickFault s 1 0xFFFF) tickPage 4

/-- A source places an edge of number n at time e. `good` is false for a ring frame whose number cannot be trusted. -/
def sourceEdge (s : State) (src e n : Nat) (good : Bool) : State :=
  let base : Int := (s.now : Int) - s.tick.phase
  let off : Int := base - e
  let next : Int := base + 2 * period s - e
  let seen (s : State) : State := if good then { s with startup := { s.startup with firstSource := false } } else s
  if -200 ≤ off ∧ off ≤ 200 then
    let s1 := if good ∧ n ≠ tickNumber s then setReg (corrected s) tickPage 0x118 (BitVec.ofNat 64 n) else s
    let s2 := setF (updTick (seen s1) (fun t => { t with phase := s.now - e })) F.TICK_STATUS_period_mismatch 0 0
    measured s2 src off
  else
    let agree : Bool := decide (-200 ≤ next ∧ next ≤ 200)
    let s1 := if good ∧ n ≠ tickNumber s + 1 then corrected s else s
    let s2 := if agree then setF s1 F.TICK_STATUS_period_mismatch 0 0
              else cutTick (raise (setF s1 F.TICK_STATUS_period_mismatch 0 1) tickPage 2)
    measured (updTick (seen s2) (fun t => { t with due := some (if good then n else tickNumber s + 1, e) })) src next

/-- A source places a point `ns` after its last edge at time e: the timer is steered on it (R57). -/
def sourceBeat (s : State) (src e ns : Nat) : State :=
  let off : Int := ((s.now : Int) - s.tick.phase) - ((e : Int) - 2 * ns)
  measured (updTick s (fun t => { t with phase := s.now + 2 * ns - e })) src off

/-! ### Ring frames (R56, R57, R61) -/

/-- One bit of CRC-16/IBM-3740. -/
def crcBit (c : Nat) : Nat := if bit c 15 then (c * 2 % 2 ^ 16) ^^^ 0x1021 else c * 2 % 2 ^ 16

/-- CRC-16/IBM-3740 of a string of bytes. -/
def crc16 (bs : List Byte) : Nat :=
  bs.foldl (fun c b => (List.range 8).foldl (fun x _ => crcBit x) (c ^^^ (b.toNat * 256))) 0xFFFF

/-- A number most significant byte first. -/
def beBytes (n v : Nat) : List Byte := (leBytes n v).reverse

/-- A frame without its start delimiter, whose pattern the spec does not give: number, flags, CRC (R56). -/
def ringFrame (number flags : Nat) : List Byte :=
  let body := beBytes 8 number ++ beBytes 2 flags
  body ++ beBytes 2 (crc16 body)

/-- The fields of a frame: number, flags, and whether its CRC is good. -/
def frameNumber (f : List Byte) : Nat := leValue (f.take 8).reverse
def frameFlags (f : List Byte) : Nat := leValue ((f.drop 8).take 2).reverse
def frameGood (f : List Byte) : Bool := f.length == 12 && leValue (f.drop 10).reverse == crc16 (f.take 10)

/-- The hub drives its tray ring (R55, R57). -/
def drivesRing (s : State) : Bool :=
  (role s == 2 || role s == 3) && getF s F.TICK_CTRL_ring_en 0 == 1 && !s.tick.bypassClosed

/-- Send a frame around the ring, and remember it until it returns (R655). -/
def sendRing (s : State) (number flags : Nat) : State :=
  if drivesRing s then
    emit (updTick s (fun t => { t with ringSent := t.ringSent ++ [2 * number + flags % 2] })) (.ring (ringFrame number flags))
  else s

/-- The ring is lost: a hub that used it has no source until the next mark (R63). -/
def ringLost (s : State) : State :=
  let s1 := updTick s (fun t => { t with badCrc := 0 })
  if sourceOf s1 = 1 then sourceLost s1 else s1

/-- The hub times edges from its ring. -/
def usesRing (s : State) : Bool := role s == 1 && !s.tick.bypassClosed

/-- When a frame that arrives now began, by the corrected tap (R58). -/
def tapTime (s : State) : Nat := s.now - getF s F.TICK_RING_DELAY_delay 0 / 4

/-- A frame with a bad CRC is taken as a tick frame near the next edge (R61). -/
def nearEdge (s : State) : Bool :=
  let next : Int := ((s.now : Int) - s.tick.phase) + 2 * period s - tapTime s
  decide (-200 ≤ next ∧ next ≤ 200)

/-- A frame is taken as a tick frame, not as a beat. -/
def tickFrameOf (s : State) (f : List Byte) : Bool := if frameGood f then !bit (frameFlags f) 0 else nearEdge s

/-- What every frame does: it is passed on, and a second bad CRC in a row loses the ring (R58, R61). -/
def framePassed (s : State) (f : List Byte) : State :=
  let s1 := if drivesRing s then s else emit s (.ring f)
  if !usesRing s then s1
  else if frameGood f then updTick s1 (fun t => { t with badCrc := 0 })
  else if 1 ≤ s.tick.badCrc then ringLost s1 else updTick s1 (fun t => { t with badCrc := 1 })

/-! ### In-band marks (R471, R472) -/

/-- The child ports of the mark tree. -/
def markChildren (s : State) : List Nat :=
  (List.range 48).filter (fun n => bit (getF s F.NFAB_MARK_children (sliceOf n)) n && portReady s n)

/-- Send a Mark on each child port. -/
def sendMarks (s : State) (word3 : Nat) (payload : List Byte) : State :=
  (markChildren s).foldl (fun a n =>
    enqueue a n (mkPacket a ptMark (port a n).partnerHub 0 0 word3 15 payload)) s

/-- The domain master's own Mark: at an edge with the tick number, at a beat with its offset (R472). -/
def masterMarks (s : State) (beat : Bool) (n : Nat) : State :=
  if role s = 3 ∧ getF s F.TICK_CTRL_inband_en 0 = 1 then
    sendMarks s (if beat then 1 else s.tick.phase * 2 ^ 32) (leBytes 16 n ++ leBytes 16 (s.fabric.dtime - s.tick.phase / 2))
  else s

/-- Marks of this port are accepted. -/
def acceptsMarks (s : State) (port : Nat) : Bool :=
  getF s F.NFAB_MARK_parent (sliceOf port) == port && decide (port < 48) && !ownTimer s && getF s F.TICK_CTRL_inband_en 0 == 1

/-- A Mark arrives (R472): domain time follows the master's, the timer follows its edges unless the ring is in use, and the
Mark goes on to the child ports with the corrections of this hop. -/
def markArrives (s : State) (port arr : Nat) (p : Packet) : State :=
  if !acceptsMarks s port then s
  else
    let corr := bits p.word3 32 32
    let delay := getF s F.NLK_DELAY_delay port
    let e := arr - delay - corr
    let beat := bit p.word3 0
    let n := bits (p.unit 2) 0 64
    let since := (s.now - e) / 2 + (if beat then n else 0)
    let s1 := updFabric s (fun f => { f with dtime := (bits (p.unit 3) 0 64 + since) % 2 ^ 64 })
    let s2 := if sourceOf s1 = 1 then s1
      else if beat then sourceBeat s1 2 e n else sourceEdge s1 2 e n true
    sendMarks s2 (b2n beat + (corr + delay + (s.now - arr)) % 2 ^ 32 * 2 ^ 32) (p.payload.take 32)

end Sys2Proof.Machine
end

