-- ==== Sys2Proof/Machine/Admission.lean ====
section
/-! DEFINITION. Streams at OPEN (R72 to R85, R94, R98, R99, R106, R483, R489, R529): budget records, capacities, placement,
admission, withdrawal, suspension, and the completion records of decisions. -/

namespace Sys2Proof.Machine

/-! ### Completion records (R75, Table 2.7) -/

/-- The bytes of a completion record. -/
def completionRecord (s : State) (tick handle status cause late : Nat) (again : Bool) (atWatch progress : Nat) : List Byte :=
  leBytes 8 tick ++ leBytes 2 handle ++ leBytes 1 status ++ leBytes 1 cause ++ leBytes 2 (min 65535 late) ++
    leBytes 1 (b2n (lockOf s == 0) + 2 * b2n again) ++ leBytes 1 0 ++ leBytes 4 atWatch ++ leBytes 4 progress ++ leBytes 8 (tickNumber s)

/-- Write a record at the next index of a completion ring. -/
def writeRing (s : State) (context ring entries : Nat) (rec_ : List Byte) : State :=
  let k := context * 2 ^ 57 + ring
  let i := Tab.getC 0 s.tick.rings k
  let s1 := (ctxWrite s context (ring + 32 * i) rec_).getD s
  updTick s1 (fun t => { t with rings := Tab.setC 0 t.rings k ((i + 1) % entries) })

/-- Write a record of a stream. -/
def streamRecord (s : State) (h tick status cause late : Nat) (again : Bool) (atWatch progress : Nat) : State :=
  match streamOf s h with
  | none => s
  | some x => writeRing s x.budget.context x.budget.ring x.budget.ringEntries (completionRecord s tick h status cause late again atWatch progress)

/-! ### Budget records (Tables 2.5 and 2.6) -/

/-- A reservation entry as read. -/
def reservationOf (d : List Byte) : Reservation :=
  { kind := field d 0 1, unit := field d 1 1, slots := field d 2 2, a := field d 8 8, b := field d 0x10 8, c := field d 0x18 8 }

/-- An entry obeys Table 2.6. -/
def reservationOk (s : State) (d : List Byte) : Bool :=
  let e := reservationOf d
  field d 4 4 == 0 && (match e.kind with
    | 0 => decide (e.unit < 12)
    | 1 => decide (e.unit < 48) && e.slots == 0 && e.c == 0
    | 2 => linkExists s e.unit && e.slots == 0 && e.c == 0
    | _ => false)

/-- The header and entries of a record. -/
def budgetOf (d : List Byte) : Budget :=
  { multiHub := bit (field d 3 1) 0, dropOnStall := bit (field d 3 1) 1, deterministic := bit (field d 3 1) 2,
    context := field d 4 2, stride := field d 6 2, job := field d 8 4, watchThreshold := field d 0x0C 4,
    primary := field d 0x10 8, cheaper := field d 0x18 8, firstTick := field d 0x20 8, ring := field d 0x28 8,
    ringEntries := field d 0x30 4, progressTotal := field d 0x34 4,
    entries := (List.range (field d 2 1)).map (fun i => reservationOf (d.drop (64 + 32 * i))) }

/-- The ring field, without which a decision has no ring to be written to (R82): the ring's address, its size, its context. -/
def ringOk (d : List Byte) : Bool :=
  let n := field d 0x30 4
  field d 0x28 8 % 4096 == 0 && decide (field d 0x28 8 < 2 ^ 57) && isPow2 n && decide (16 ≤ n) && decide (n ≤ 65536) &&
    decide (field d 4 2 < 4096)

/-- No partition and no port has two entries (R73). -/
def entriesDistinct (b : Budget) : Bool :=
  (b.entries.map (fun e => e.kind * 64 + e.unit)).eraseDups.length == b.entries.length

/-- The whole record obeys Tables 2.5 and 2.6 at the admitting tick. -/
def budgetOk (s : State) (d : List Byte) : Bool :=
  let b := budgetOf d
  field d 0 2 == 1 && decide (1 ≤ field d 2 1) && decide (field d 2 1 ≤ 64) && decide (field d 3 1 < 8) &&
    decide (1 ≤ b.stride) && decide (b.stride ≤ 256) && b.primary % 32 == 0 && decide (b.primary < 2 ^ 57) &&
    b.cheaper % 32 == 0 && decide (b.cheaper < 2 ^ 57) && (b.firstTick == 0 || decide (tickNumber s ≤ b.firstTick)) &&
    decide (b.watchThreshold ≤ b.progressTotal) && field d 0x38 8 == 0 && ringOk d &&
    (List.range (field d 2 1)).all (fun i => reservationOk s (d.drop (64 + 32 * i))) && entriesDistinct b

/-! ### Capacities (the pseudocode of Admission, R79, R344) -/

/-- Lanes up of a Nelpin port (R430). -/
def lanesUp (s : State) (n : Nat) : Nat :=
  match (port s n).state with
  | .active | .retrain => (port s n).width
  | _ => 0

/-- Payload bytes per ns of a host link, times 128 (R344). -/
def hostRate (s : State) (l : Nat) : Nat :=
  if getL s F.HPORT_LINK_STATUS_state l = 2 then
    13 * getL s F.HPORT_LINK_STATUS_width l * (match getL s F.HPORT_LINK_STATUS_rate l with | 0 => 0 | r => 8 * 2 ^ r)
  else 0

/-- Cores of a partition in service (R529). -/
def coresInService (s : State) (p : Nat) : Nat :=
  if memOnly s p then 0 else ((range (32 * p) 32).filter (fun c => !(coreOf s c).fenced)).length

/-- Capacity of a resource, by its code in TICK_ADM_RESULT: 0 slots, 1 TE, 2 HBM, 3 far of a partition; 4 egress, 5 ingress of
a Nelpin port; 6 toward, 7 from the host on a link. -/
def capacity (s : State) (res unit : Nat) : Nat :=
  let w := windowNs s
  let wm := w - 2000
  match res with
  | 4 | 5 => 96 * lanesUp s unit / 4 * w
  | 6 | 7 => hostRate s unit * w / 128
  | _ =>
    if !partUp s unit then 0
    else match res with
      | 0 => 64 * coresInService s unit
      | 1 => coresInService s unit * pointMHz (clkFloor s unit) * w / 1000
      | 2 => 2560 * wm
      | _ => 704 * wm / 5

/-- What an entry reserves: resource codes and amounts. -/
def amounts (e : Reservation) : List (Nat × Nat) :=
  match e.kind with
  | 0 => [(0, e.slots), (1, e.a), (2, e.b), (3, e.c)]
  | 1 => [(4, e.a), (5, e.b)]
  | _ => [(6, e.a), (7, e.b)]

/-- What a budget reserves of a unit's resource. -/
def reserves (b : Budget) (res unit : Nat) : Nat :=
  b.entries.foldl (fun a e => if e.unit = unit then a + ((amounts e).filter (fun x => x.1 == res)).foldl (fun n x => n + x.2) 0 else a) 0

/-- The sum of what the streams in force reserve. -/
def reservedSum (s : State) (res unit : Nat) : Nat :=
  s.tick.streams.foldl (fun a e => if e.2.suspended then a else a + reserves e.2.budget res unit) 0

/-- The first resource of a budget that would exceed its capacity: unit and resource (Table 2.8). -/
def oversub (s : State) (b : Budget) : Option (Nat × Nat) :=
  b.entries.findSome? (fun e => ((amounts e).find? (fun x => decide (capacity s x.1 e.unit < reservedSum s x.1 e.unit + x.2))).map
    (fun x => (e.unit, x.1)))

/-- A stream in force reserves some of a resource whose sum exceeds its capacity. -/
def overfull (s : State) (b : Budget) : Bool :=
  b.entries.any (fun e => (amounts e).any (fun x => decide (0 < x.2 ∧ capacity s x.1 e.unit < reservedSum s x.1 e.unit)))

/-! ### Placement (R98, R99, R489, R511) -/

/-- Free contexts of a core. -/
def freeContexts (s : State) (core : Nat) : List Nat := (List.range 64).filter (fun c => decide ((thread s core c).state = .free))

/-- Debug is open on a partition, or its fence stands for an opening or closing reset (R510 to R512). -/
def debugged (s : State) (p : Nat) : Bool :=
  decide (Tab.getC 0 s.eloan.debugOpen p ≠ 0) || decide (Tab.getC 0 s.eloan.debugOpening p ≠ 0)

/-- A cluster takes threads of a tenant: held by it or by nobody, and not barred by an open debug. -/
def clusterOpen (s : State) (cluster tid : Nat) : Bool :=
  (Tab.getC 0 s.eloan.clusterTid cluster == 0 || Tab.getC 0 s.eloan.clusterTid cluster == tid + 1) &&
    !s.eloan.scrubbing.contains cluster && !s.eloan.scrubbed.contains cluster &&
    (tid == 0 || !debugged s (cluster / 2))

/-- Cores of a partition that take threads of a tenant. -/
def openCores (s : State) (p tid : Nat) : List Nat :=
  if memOnly s p then [] else (range (32 * p) 32).filter (fun c =>
    !(coreOf s c).fenced && clusterOpen s (clusterOf c) tid && !(freeContexts s c).isEmpty)

/-- Place one thread: the core with the most free contexts, the lowest of them, its lowest free context. -/
def placeThread (s : State) (p tid handle ordinal : Nat) : Option (Nat × State) :=
  match openCores s p tid with
  | [] => none
  | c :: t =>
    let core := t.foldl (fun a x => if (freeContexts s a).length < (freeContexts s x).length then x else a) c
    match freeContexts s core with
    | [] => none
    | ctx :: _ =>
      let s1 := updThread s core ctx (fun _ => { Thread.empty with state := .placed, handle := handle, ordinal := ordinal })
      some (thrKey core ctx, { s1 with eloan := { s1.eloan with clusterTid := Tab.setC 0 s1.eloan.clusterTid (clusterOf core) (tid + 1) } })

/-- Place every thread of a budget in ordinal order, or none of them. -/
def placeAll (s : State) (b : Budget) (tid handle : Nat) : Option (List Nat × State) :=
  (b.entries.filter (fun e => e.kind == 0)).foldl (fun acc e =>
    (List.range e.slots).foldl (fun acc _ =>
      acc.bind (fun a => (placeThread a.2 e.unit tid handle a.1.length).map (fun r => (a.1 ++ [r.1], r.2)))) acc) (some ([], s))

/-- A cluster that a tenant's last stream has left waits for its scrub (R489). -/
def leftCluster (s : State) (cluster : Nat) : State :=
  let used := s.threads.any (fun e => keyCore e.1 / 16 == cluster && decide (e.2.state ≠ .free))
  if used ∨ Tab.getC 0 s.eloan.clusterTid cluster = 0 ∨ s.eloan.scrubbing.contains cluster ∨ s.eloan.scrubbed.contains cluster then s
  else { s with eloan := { s.eloan with scrubbing := s.eloan.scrubbing ++ [cluster] } }

/-- The contexts of a stream's threads become FREE (R106). -/
def freeThreads (s : State) (ks : List Nat) : State :=
  let s1 := ks.foldl (fun a k =>
    let b := orphanHeld (leaveRun a (keyCore k) (keyCtx k)) (keyCore k) (keyCtx k)
    updThread b (keyCore k) (keyCtx k) (fun _ => Thread.empty)) s
  ((ks.map (fun k => keyCore k / 16)).eraseDups).foldl leftCluster s1

/-! ### Suspension and resumption (R84, R85, R94, R529) -/

/-- Suspend a stream, with its record. -/
def suspend (s : State) (h cause : Nat) : State :=
  streamRecord (updStream s h (fun x => { x with suspended := true })) h (tickNumber s) 7 cause 0 false 0 0

/-- The streams in force that satisfy a test, latest admitted first. -/
def latestFirst (s : State) (p : Stream → Bool) : List Nat :=
  ((s.tick.streams.filter (fun e => !e.2.suspended && p e.2)).mergeSort (fun a b => decide (b.2.order ≤ a.2.order))).map Prod.fst

/-- The streams, earliest admitted first. -/
def earliestFirst (s : State) : List Nat :=
  (s.tick.streams.mergeSort (fun a b => decide (a.2.order ≤ b.2.order))).map Prod.fst

/-- Suspend streams that hold some of an overfull resource, latest first, until the sums fit (R84). -/
def shed : Nat → State → State
  | 0, s => s
  | fuel + 1, s =>
    match latestFirst s (fun x => overfull s x.budget) with
    | [] => s
    | h :: _ =>
      let reset : Bool := match streamOf s h with
        | some x => (partsOf x.budget).any (fun p => decide ((partition s p).state = .inReset))
        | none => false
      shed fuel (suspend s h (if reset then 5 else 6))

/-- Threads of a stream on fenced cores are placed again; when one fits nowhere, none stays placed (R529). -/
def rePlace (s : State) (h : Nat) : Option State :=
  match streamOf s h with
  | none => some s
  | some x =>
    let tid := tidOf s x.budget.context
    if x.threads.length ≠ slotsOf x.budget then
      (placeAll s x.budget tid h).map (fun r => updStream r.2 h (fun y => { y with threads := r.1 }))
    else
      let moved := (List.range x.threads.length).foldl (fun (acc : Option (List Nat × State)) i =>
        acc.bind (fun a =>
          let k := nth 0 x.threads i
          if (coreOf a.2 (keyCore k)).fenced then
            (placeThread a.2 (partOfCore (keyCore k)) tid h i).map (fun r => (a.1 ++ [r.1], freeThreads r.2 [k]))
          else some (a.1 ++ [k], a.2))) (some ([], s))
      moved.map (fun r => updStream r.2 h (fun y => { y with threads := r.1 }))

/-- A stream whose threads do not fit loses them all and is suspended. -/
def replaceOrSuspend (s : State) (h : Nat) : State :=
  match streamOf s h with
  | none => s
  | some x =>
    if x.suspended then s
    else match rePlace s h with
      | some t => t
      | none => suspend (updStream (freeThreads s x.threads) h (fun y => { y with threads := [] })) h 6

/-- Capacity is evaluated anew, before withdrawals (R84, R94, R529). -/
def reevaluate (s : State) : State :=
  let s1 := shed s.tick.streams.length s
  let s2 := if headroomNs s1 < 6000 then (latestFirst s1 (fun x => x.budget.multiHub)).foldl (fun a h => suspend a h 6) s1 else s1
  (earliestFirst s2).foldl replaceOrSuspend s2

/-- One suspended stream resumes if it fits (R85). -/
def tryResume (s : State) (h : Nat) : State :=
  match streamOf s h with
  | none => s
  | some x =>
    if !x.suspended ∨ (x.budget.multiHub ∧ headroomNs s < 6000) ∨ (partsOf x.budget).any (fun p => !partUp s p) ∨ (oversub s x.budget).isSome then s
    else match rePlace s h with
      | some t => updStream t h (fun y => { y with suspended := false })
      | none => s

/-! ### Requests (R76 to R82, R483) -/

/-- TICK_ADM_RESULT reports the management road only. -/
def admResult (s : State) (road : AdmRoad) (code unit res handle : Nat) : State :=
  match road with
  | .management =>
    setF (setF (setF (setF (setF s F.TICK_ADM_RESULT_code 0 code) F.TICK_ADM_RESULT_unit 0 unit) F.TICK_ADM_RESULT_resource 0 res)
      F.TICK_ADM_RESULT_handle 0 handle) F.TICK_ADM_RESULT_tick 0 (tickNumber s % 2 ^ 32)
  | _ => s

/-- BAD_RECORD with no ring to write it to (R82). -/
def ringless (s : State) (road : AdmRoad) (context : Nat) : State :=
  raise (tickFault (admResult s road 1 0 0 0) 3 context) tickPage 6

/-- The lines of a record are readable now and bound to a tenant (R483). -/
def linesBound (s : State) (pa n tid : Nat) : Bool :=
  isLocal s pa && (linesOf (paOff pa) n).all (fun l =>
    match regionOf s (l * 64), homePart s (l * 64) with
    | some r, some h =>
      let k := keyOf s (rgnKey (regionEntry s r))
      decide (k.state = .keyed) && k.tid == tid && !linePoisoned s l && decide (roadTo s h (l * 64) = .open_) && !leaseRefuses s .rd (l * 64)
    | _, _ => false)

/-- The requester itself may read the record: the tenant of its context, on the roads that have one (R475, R482). -/
def requesterReads (s : State) (road : AdmRoad) (context pa n : Nat) : Bool :=
  match road with
  | .management => true
  | _ => (linesOf (paOff pa) n).all (fun l => !refuses s (.tenant (tidOf s context) false) .rd (l * 64))

/-- The lowest free handle (R78). -/
def freeHandle (s : State) : Option Nat := (List.range 8192).find? (fun h => (streamOf s h).isNone)

/-- A guarded range of a context: its pages translate to this hub's guarded rows, under regions with guard. -/
def guardedRange (s : State) (c va n : Nat) : Bool :=
  (List.range (ceilDiv n 4096)).all (fun i => match (xlate s (fun _ => false) noCore c (va + 4096 * i) .rd).1 with
    | .ok pa _ _ => isLocal s pa && (match farSlot s (paOff pa), regionOf s (paOff pa) with
      | some f, some r => f.guarded && rgnGuard (regionEntry s r)
      | _, _ => false)
    | _ => false)

/-- The input-log entry that logs a stream (R548). -/
def logOf (s : State) (b : Budget) : Option LogEntry := s.ras.logs.find? (fun e => e.context == b.context && e.primary == b.primary)

/-- The first check that refuses a readable record with a good ring: code, unit and resource. -/
def refusal (s : State) (d : List Byte) : Option (Nat × Nat × Nat) :=
  let b := budgetOf d
  let badLog : Bool := match logOf s b with
    | some e => !guardedRange s b.context e.ring (e.depth * e.slotBytes)
    | none => false
  if !budgetOk s d ∨ badLog then some (1, 0, 0)
  else if getF s F.TICK_STATUS_period_mismatch 0 = 1 then some (6, 0, 0)
  else if b.multiHub ∧ headroomNs s < 6000 then some (5, 0, 0)
  else if b.multiHub ∧ lockOf s ≠ 1 then some (8, 0, 0)
  else if (freeHandle s).isNone then some (4, 0, 0)
  else if (partsOf b).any (fun p => !partUp s p) ∨ s.pkg.state = .quiescing ∨ s.pkg.state = .quiesced then some (3, 0, 0)
  else (oversub s b).map (fun x => (2, x.1, x.2))

/-- Admit a record that no check refused, when its threads find room (R77, R98, R489). -/
def admitBudget (s : State) (road : AdmRoad) (b : Budget) : State :=
  match freeHandle s with
  | none => s
  | some h =>
    match placeAll s b (tidOf s b.context) h with
    | none =>
      let unit := match b.entries.find? (fun e => e.kind == 0 && e.slots != 0) with | some e => e.unit | none => 0
      admResult (writeRing s b.context b.ring b.ringEntries (completionRecord s (tickNumber s) 0xFFFF 6 2 0 false unit 0)) road 2 unit 0 0
    | some (ks, s1) =>
      let x : Stream := { budget := b, order := s.tick.nextOrder, startTick := if b.firstTick = 0 then tickNumber s else b.firstTick,
                          suspended := false, threads := ks, run := none, done := [], redo := [], pendingTicks := [], lastStart := 0, used := [] }
      let s2 := updTick s1 (fun t => { t with streams := Tab.insert t.streams h x, nextOrder := t.nextOrder + 1 })
      admResult (streamRecord s2 h (tickNumber s) 5 0 0 false 0 0) road 0 0 0 h

/-- One admission request. -/
def admitOne (s : State) (road : AdmRoad) (context : Nat) (addr : Option Nat) : State :=
  match addr with
  | none => ringless s road context
  | some pa =>
    let head := storeBytes s (paOff pa) 64
    let c := field head 4 2
    let n := 64 + 32 * field head 2 1
    if pa % 64 ≠ 0 ∨ !isLocal s pa ∨ (boundTid s c).isNone ∨ !linesBound s pa 64 (tidOf s c) ∨ !ringOk head ∨
        !linesBound s pa n (tidOf s c) ∨ !requesterReads s road context pa n then ringless s road context
    else
      let d := storeBytes s (paOff pa) n
      match refusal s d with
      | some (code, unit, res) =>
        let s1 := writeRing s c (field d 0x28 8) (field d 0x30 4)
          (completionRecord s (tickNumber s) 0xFFFF 6 code 0 false (if code = 2 then unit else 0) (if code = 2 then res else 0))
        admResult s1 road code unit res 0
      | none => admitBudget s road (budgetOf d)

/-- A withdrawal (R78, R106). A handle that is not admitted, or is another tenant's on a road that has a tenant, has nothing
to withdraw. -/
def withdrawOne (s : State) (road : AdmRoad) (context h : Nat) : State :=
  match streamOf s h with
  | none => s
  | some x =>
    let mine : Bool := match road with | .management => true | _ => tidOf s context == tidOf s x.budget.context
    if !mine then s
    else
      let s1 := dropHauls (freeThreads (streamRecord s h (tickNumber s) 4 0 0 false 0 0) x.threads) h true
      admResult (updTick s1 (fun t => { t with streams := Tab.erase t.streams h })) road 0 0 0 h

/-- Apply one request of the queue when it is of the kind asked for. -/
def takeRequest (withdrawals : Bool) (s : State) (q : AdmRequest) : State :=
  match q with
  | .withdraw road context h => if withdrawals then withdrawOne s road context h else s
  | .enter road context addr => if withdrawals then s else admitOne s road context addr

/-- Clusters whose scrub is complete become eligible (R489). -/
def freeScrubbed (s : State) : State :=
  { s with eloan := { s.eloan with
      clusterTid := s.eloan.scrubbed.foldl (fun t c => Tab.erase t c) s.eloan.clusterTid
      scrubbed := [] } }

/-- Steps 3 and 4 of OPEN (R68, R76, R85): up to 256 requests, withdrawals first; suspended streams resume before new
admissions. -/
def requestsAtOpen (s : State) : State :=
  let batch := s.tick.queue.take 256
  let s1 := updTick s (fun t => { t with queue := t.queue.drop 256 })
  let s2 := batch.foldl (takeRequest true) s1
  let s3 := (earliestFirst s2).foldl tryResume s2
  batch.foldl (takeRequest false) s3

end Sys2Proof.Machine
end

