-- ==== Sys2Proof/Machine/PoolBase.lean ====
section
/-! DEFINITION. Pools and frames (R270 to R283, R666, R667): what is free, how a placement request takes frames, and how a place
or free request ends; the warm record that such requests write (R638). Frames are numbered by hub-local offset ÷ 2 MiB. -/

namespace Sys2Proof.Machine

/-! ### Regions and hints -/

/-- A region has placed frames. -/
def hasFrames (s : State) (r : Nat) : Bool := s.pools.placed.any (fun e => e.2 == r + 1)

/-- A hint is reserved, or does not go with the guard mode (Table 8.2). -/
def badHint (hint : Nat) (guard : Bool) : Bool := decide (4 ≤ hint % 8) || (guard && hint % 8 != 2)

/-! ### The warm record (R638) -/

/-- The valid contexts, in rising order. -/
def validContexts (s : State) : List Nat := (s.xlt.contexts.filter (fun e => e.2.valid)).map Prod.fst

/-- What the record holds now. -/
def warmRecord (s : State) (seq : Nat) : WarmRecord :=
  { sequence := seq, hubId := hubId s, domain := s.startup.domain, guardRows := guardRows s, regions := s.regions.entries,
    shgBase := getF s F.HUB_SHG_BASE_addr 0, frames := s.pools.placed, faceReserve := getF s F.HUB_POOL_FACE_RSV_frames 0,
    ctxBase := getF s F.XLT_CTX_BASE_addr 0, contexts := validContexts s }

/-- Sequence number of a copy. -/
def recordSeq (r : Option WarmRecord) : Nat := match r with | some x => x.sequence | none => 0

/-- A region operation or pool request writes copy A and then copy B, when an area is designated. -/
def saveWarm (s : State) : State :=
  if s.startup.warmArea.isNone then s
  else
    let r := warmRecord s (max (recordSeq s.startup.warmA) (recordSeq s.startup.warmB) + 1)
    { s with startup := { s.startup with warmA := some r, warmB := some r } }

/-- A frame belongs to the designated area. -/
def inWarmArea (s : State) (f : Nat) : Bool :=
  match s.startup.warmArea with | some (first, _) => decide (first ≤ f) && decide (f < first + 16) | none => false

/-! ### Free frames (R270, R271, R277, R543) -/

/-- Frames of the HBM pool. -/
def hbmFrames : Nat := 389120

/-- A frame of the HBM stacks. -/
def isHbmFrame (f : Nat) : Bool := decide (f < hbmEnd / twoMiB)

/-- A frame is in its pool: neither placed nor retired. -/
def frameFree (s : State) (f : Nat) : Bool := Tab.getC 0 s.pools.placed f == 0 && !s.ras.retired.contains f

/-- The first number of a span that satisfies a test. -/
def firstFrom (ok : Nat → Bool) : Nat → Nat → Option Nat
  | 0, _ => none
  | n + 1, x => if ok x then some x else firstFrom ok n (x + 1)

/-- Frames of the HBM pool that are placed or retired. -/
def hbmGone (s : State) : Nat :=
  (s.pools.placed.filter (fun e => isHbmFrame e.1)).length +
    (s.ras.retired.filter (fun f => isHbmFrame f && Tab.getC 0 s.pools.placed f == 0)).length

/-- Free frames of the Face reserve. -/
def faceFree (s : State) : Nat := getF s F.HUB_POOL_FACE_RSV_frames 0 - s.pools.faceTaken.length

/-- Free frames of the HBM pool outside the Face reserve. -/
def hbmFree (s : State) : Nat := hbmFrames - hbmGone s - faceFree s

/-- Row f of a far channel as a frame number. -/
def farFrame (f ch : Nat) : Nat := farBase / twoMiB + f * 24 + ch

/-- Row and channel of a far frame. -/
def farRow (fr : Nat) : Nat × Nat := ((fr - farBase / twoMiB) / 24, (fr - farBase / twoMiB) % 24)

/-- A frame of the plain far pool: it lies above the guarded rows. -/
def isPlainFar (s : State) (fr : Nat) : Bool := decide (farBase / twoMiB ≤ fr) && decide (guardRows s ≤ (farRow fr).1)

/-- Free frames of the plain far pool. -/
def plainFree (s : State) : Nat :=
  s.board.channelFrames.foldl (fun a n => a + (n - guardRows s)) 0 -
    ((s.pools.placed.filter (fun e => isPlainFar s e.1)).length +
      (s.ras.retired.filter (fun f => isPlainFar s f && Tab.getC 0 s.pools.placed f == 0)).length)

/-- A frame of the guarded far pool. -/
def isGuardFar (s : State) (fr : Nat) : Bool := decide (farBase / twoMiB ≤ fr) && decide ((farRow fr).1 < guardRows s)

/-- Free data frames of the guarded far pool. -/
def guardFree (s : State) : Nat :=
  22 * guardRows s -
    ((s.pools.placed.filter (fun e => isGuardFar s e.1)).length +
      (s.ras.retired.filter (fun f => isGuardFar s f && Tab.getC 0 s.pools.placed f == 0)).length)

/-- The free HBM frame of lowest address of a partition. -/
def hbmNext (s : State) (p : Nat) : Option Nat := firstFrom (frameFree s) (32768 - reserveFrames p) (p * 32768)

/-- The free plain frame of lowest address of a channel. -/
def plainNext (s : State) (ch : Nat) : Option Nat :=
  (firstFrom (fun f => frameFree s (farFrame f ch)) (nth 0 s.board.channelFrames ch - guardRows s) (guardRows s)).map (farFrame · ch)

/-- The free guarded data frame of lowest far-tier offset. -/
def guardNext (s : State) : Option Nat :=
  (firstFrom (fun i => frameFree s (farFrame (i / 22) (i % 22))) (22 * guardRows s) 0).map (fun i => farFrame (i / 22) (i % 22))

/-! ### Taking frames (R275, R277) -/

/-- A placement under way: the state with its frames placed, and each frame with whether it came from a fallback pool, the
latest first. -/
structure Taking where
  st : State
  got : List (Nat × Bool)

/-- A frame joins the region. -/
def Taking.take (x : Taking) (region f : Nat) (fallback reserve : Bool) : Taking :=
  { st := { x.st with pools := { x.st.pools with
      placed := Tab.insert x.st.pools.placed f (region + 1)
      faceTaken := if reserve then x.st.pools.faceTaken ++ [f] else x.st.pools.faceTaken } }
    got := (f, fallback) :: x.got }

/-- The first partition in turn that has a frame, the frame, and the partitions in the order of the turns after it. -/
def nextTurn (find : Nat → Option Nat) (skipped : List Nat) : List Nat → Option (Nat × Nat × List Nat)
  | [] => none
  | p :: rest => match find p with
    | some f => some (p, f, rest ++ skipped.reverse ++ [p])
    | none => nextTurn find (p :: skipped) rest

/-- Up to n frames of the HBM pool. -/
def fillHbm (region : Nat) (face : Bool) : Nat → List Nat → Taking → Taking
  | 0, _, x => x
  | n + 1, turns, x =>
    if !face && hbmFree x.st == 0 then x
    else match nextTurn (hbmNext x.st) [] turns with
      | none => x
      | some (_, f, rest) =>
        let reserve := face && decide (0 < faceFree x.st)
        fillHbm region face n rest (x.take region f (face && !reserve) reserve)

/-- The plain frame that partition p gives next, its channels in the order of its turn. -/
def plainOf (s : State) (odd : List Nat) (p : Nat) : Option Nat :=
  let k := if odd.contains p then 1 else 0
  match plainNext s (2 * p + k) with
  | some f => some f
  | none => plainNext s (2 * p + (1 - k))

/-- Up to n frames of the plain far pool; `odd` lists the partitions whose channel 2p + 1 has the turn. -/
def fillPlain (region : Nat) (fallback : Bool) : Nat → List Nat → List Nat → Taking → Taking
  | 0, _, _, x => x
  | n + 1, odd, turns, x =>
    match nextTurn (plainOf x.st odd) [] turns with
    | none => x
    | some (p, f, rest) =>
      fillPlain region fallback n (if odd.contains p then odd.filter (fun q => q != p) else p :: odd) rest (x.take region f fallback false)

/-- Up to n frames of the guarded far pool. -/
def fillGuard (region : Nat) : Nat → Taking → Taking
  | 0, x => x
  | n + 1, x => match guardNext x.st with
    | none => x
    | some f => fillGuard region n (x.take region f false false)

/-- Partitions that a mask lets give frames: those that are up. -/
def givers (s : State) (pmask : Nat) : List Nat :=
  (List.range 12).filter (fun p => (pmask % 4096 == 0 || bit pmask p) && partUp s p)

/-- The request is filled from the pools of its hint, in order (Table 8.2). -/
def fillFor (s : State) (q : PoolReq) (hint : Nat) (guard : Bool) : Taking :=
  let x : Taking := { st := s, got := [] }
  let ps := givers s q.pmask
  match hint % 8 with
  | 0 =>
    let y := fillHbm q.region false q.frames ps x
    fillPlain q.region true (q.frames - y.got.length) [] ps y
  | 1 => fillHbm q.region false q.frames ps x
  | 2 => if guard then fillGuard q.region q.frames x else fillPlain q.region false q.frames [] ps x
  | _ => fillHbm q.region true q.frames ps x

/-! ### The frame list (R276, R279, R667) -/

/-- Physical address of the list's buffer. -/
def poolList (s : State) : Nat := getF s F.HUB_POOL_LIST_addr 0 * 64

/-- How the list's buffer can be reached for a kind of access. -/
inductive ListRoad where
  | ok | waits | bad
  deriving DecidableEq, Repr

/-- A line of the buffer. A write of a whole line clears its poison (R400), a smaller one meets it. -/
def listLine (s : State) (k : Kindm) (off n l : Nat) : ListRoad :=
  let whole := decide (off ≤ l * 64) && decide (l * 64 + 64 ≤ off + n)
  match homePart s (l * 64) with
  | none => .bad
  | some h =>
    if refuses s (.tenant 0 false) k (l * 64) || (linePoisoned s l && !(k.writes && whole)) then .bad
    else match roadTo s h (l * 64) with
      | .open_ => .ok
      | .held => .waits
      | _ => .bad

/-- The buffer lies wholly in this hub's HBM or far-tier window and every line of it can be reached. -/
def listRoad (s : State) (k : Kindm) (n : Nat) : ListRoad :=
  let pa := poolList s
  let off := paOff pa
  let inside := decide (off + n ≤ hbmEnd) || (decide (farBase ≤ off) && decide (off + n ≤ farBase + 12 * 2 ^ 40))
  if !isLocal s pa || !inside then .bad
  else
    let rs := (linesOf off n).map (listLine s k off n)
    if rs.contains .bad then .bad else if rs.contains .waits then .waits else .ok

/-- Write the list, a line at a time; its first line begins at an offset. -/
def writeList (s : State) (off : Nat) (data : List Byte) : State :=
  (List.range ((data.length + 63) / 64)).foldl (fun a i =>
    (hubWriteLine a 0 (localPa a (off + 64 * i)) ((data.drop (64 * i)).take 64)).getD a) s

/-! ### How a request ends -/

/-- The HUB_POOL page. -/
def poolPage : Nat := F.HUB_POOL_RESULT_code.page

/-- A pool request ends: HUB_POOL_RESULT is written last, then INT_RAW bit 0 is set. -/
def endPool (s : State) (code hbm far : Nat) : State :=
  let s1 := saveWarm { s with pools := { s.pools with waiting := none } }
  let s2 := setF (setF (setF s1 F.HUB_POOL_RESULT_code 0 code) F.HUB_POOL_RESULT_placed_hbm 0 hbm) F.HUB_POOL_RESULT_placed_far 0 far
  let s3 := raise (setF s2 F.HUB_POOL_RESULT_busy 0 0) poolPage 0
  if code = 1 then raise s3 poolPage 2 else s3

/-- The request waits until its list can be reached. -/
def waitPool (s : State) (q : PoolReq) : State := { s with pools := { s.pools with waiting := some q } }

/-- Every byte of a frame is written 0: its contents, its poison, and the resync mark of a guarded row. -/
def zeroFrame (s : State) (f : Nat) : State :=
  let off := f * twoMiB
  markResync { s with
    store := zeroSpan s.store off twoMiB
    ras := { s.ras with poison := s.ras.poison.filter (fun e => decide (e.1 < off / 64) || decide ((off + twoMiB) / 64 ≤ e.1)) } } off

/-- A request with a fallback placement is counted (R280). -/
def noteFallback (s : State) (region : Nat) : State :=
  let s1 := setF (addSatF s F.HUB_POOL_FALLBACK_count 0 1) F.HUB_POOL_FALLBACK_region 0 region
  tally (raise s1 poolPage 1) { part := 0, code := 0x24, tids := [(keyOf s (rgnKey (regionEntry s region))).tid] }

/-- A frame has a line whose home is a partition with debug open: every guarded frame, when there is one (R511). -/
def onDebugged (s : State) (f : Nat) : Bool :=
  if isGuardFar s f then (List.range 12).any (debugged s)
  else match homePart s (f * twoMiB) with | some p => debugged s p | none => false

/-- A place request. -/
def placePool (s : State) (q : PoolReq) : State :=
  let e := regionEntry s q.region
  if !rgnValid e || decide ((keyOf s (rgnKey e)).state ≠ .keyed) then endPool s 3 0 0
  else if badHint (rgnHint e) (rgnGuard e) then endPool s 2 0 0
  else
    let x := fillFor s q (rgnHint e) (rgnGuard e)
    let short := decide (x.got.length < q.frames)
    if (keyOf s (rgnKey e)).tid != 0 && x.got.any (fun f => onDebugged s f.1) then endPool s 3 0 0
    else if short && rgnHint e / 8 == 0 then endPool s 1 0 0
    else
      let fs := (x.got.map Prod.fst).reverse
      match listRoad x.st .wr (8 * fs.length) with
      | .bad => endPool s 5 0 0
      | .waits => waitPool s q
      | .ok =>
        let s1 := fs.foldl zeroFrame x.st
        let s2 := writeList s1 (paOff (poolList s1)) (fs.flatMap (fun f => leBytes 8 (localPa s1 (f * twoMiB))))
        let s3 := if x.got.any Prod.snd then noteFallback s2 q.region else s2
        let hbm := (fs.filter isHbmFrame).length
        endPool s3 (b2n short) hbm (fs.length - hbm)

/-- A frame may be freed from a region: it is placed there, the region has no grants outstanding (R492), the frame holds no
leased page (R353) and no part of the warm area (R638). -/
def mayFree (s : State) (region pa : Nat) : Bool :=
  isLocal s pa && paOff pa % twoMiB == 0 && regionOf s (paOff pa) == some region && !inWarmArea s (paOff pa / twoMiB) &&
    !s.eloan.grants.any (fun g => g.region == region) &&
    !(s.seam.flatMap SeamDie.leases ++ s.regions.leaseReqs.map LeaseReq.lease).any (fun l => l.page / twoMiB == paOff pa / twoMiB)

/-- A frame returns to its pool. -/
def freeFrame (s : State) (f : Nat) : State :=
  { s with pools := { s.pools with placed := Tab.erase s.pools.placed f, faceTaken := s.pools.faceTaken.filter (fun x => x != f) } }

/-- A free request. -/
def freePool (s : State) (q : PoolReq) : State :=
  match listRoad s .rd (8 * q.frames) with
  | .bad => endPool s 5 0 0
  | .waits => waitPool s q
  | .ok =>
    let off := paOff (poolList s)
    let pas := (List.range q.frames).map (fun i => storeValue s (off + 8 * i) 8)
    if pas.all (mayFree s q.region) then endPool ((pas.map (fun pa => paOff pa / twoMiB)).foldl freeFrame s) 0 0 0
    else endPool s 4 0 0

/-- A request is served. -/
def servePool (s : State) (q : PoolReq) : State := if q.place then placePool s q else freePool s q

/-- A write of HUB_POOL_REQ (R278). -/
def poolRequest (s : State) (q : PoolReq) : State :=
  if getF s F.HUB_POOL_RESULT_busy 0 = 1 then raise (setF s F.HUB_POOL_RESULT_lost 0 1) poolPage 3
  else servePool (setF s F.HUB_POOL_RESULT_busy 0 1) q

/-- The request that waits is taken up again. -/
def resumePool (s : State) : State := match s.pools.waiting with | some q => servePool s q | none => s

end Sys2Proof.Machine
end

