-- ==== Sys2Proof/Machine/Update.lean ====
section
/-! DEFINITION. Live update (R585 to R591): images of the four classes, the swaps at OPEN, and the hand-over between the Henyen
controllers. Classes: 0 Henyen, 1 Eloan runtime, 2 sequencer microcode, 3 stock SE images. -/

namespace Sys2Proof.Machine

/-- Change the controller pair. -/
def updHen (s : State) (f : Henyen → Henyen) : State := { s with henyen := f s.henyen }

/-- The image that a controller runs, from its flash slot. -/
def henImage (s : State) (c : Nat) : Image :=
  let i := nth (false, 0, 0) s.board.images (nth 0 s.henyen.slot c)
  { cls := 0, version := i.2.1, svn := i.2.2 }

/-- The image of a class that runs hub-wide. -/
def runningImage (s : State) (cls : Nat) : Image :=
  match cls with
  | 0 => henImage s s.henyen.active
  | 1 => s.henyen.eloan
  | 2 => s.henyen.micro
  | _ => s.henyen.stock

/-- The fused minimum of a class (R504); microcode and stock images share one. -/
def fusedMin (s : State) (cls : Nat) : Nat :=
  match cls with
  | 0 => s.eloan.minHenyen
  | 1 => s.eloan.minEloan
  | _ => s.eloan.minUcode

/-- The class that HEN_UPD_CTRL names. -/
def updClassOf (s : State) : Nat := getF s F.HEN_UPD_CTRL_class s.henyen.active

/-- The tick at which the next swap of the update is due. -/
def swapTick (s : State) : Nat := s.henyen.updFirst + s.henyen.updNext * s.henyen.updSpacing

/-- An update swap for a partition is pending (R643). -/
def swapPending (s : State) (p : Nat) : Bool :=
  decide (s.henyen.updState = 3) && (s.henyen.updOrder.drop s.henyen.updNext).contains p

/-- An update operation ends in a failure. -/
def updFails (s : State) (code : Nat) : State := raise (updHen s (fun h => { h with updState := 5, updCode := code })) (henPage s) 3

/-- The standby takes over the duties: it answers and performs what is logged in its turn (R583). -/
def switchActive (s : State) : State :=
  let next := 1 - s.henyen.active
  raise (updHen s (fun h => { h with
    active := next
    cells := h.cells.map (fun c => c % 2 ^ 32 + next * 2 ^ 32)
    lastRenew := s.now })) (1 + next) 0

/-- The target image of the update in progress. -/
def updTarget (s : State) : Option Image := if s.henyen.updBack then s.henyen.previous else s.henyen.loaded

/-- The last step of an update: the image runs hub-wide, and the one it replaced can be rolled back to. -/
def updDone (s : State) (i : Image) : State :=
  let old := runningImage s i.cls
  let s1 := updHen s (fun h => { h with
    updState := 4
    previous := if h.updBack then none else some old
    eloan := if i.cls = 1 then i else h.eloan
    micro := if i.cls = 2 then i else h.micro
    stock := if i.cls = 3 then i else h.stock })
  raise s1 (henPage s1) 2

/-- One partition swaps its banks: a partition that is not up loads the image as it comes up (R588). -/
def swapPartition (s : State) (i : Image) (p : Nat) : State :=
  let s1 := updHen s (fun h => { h with
    updNext := h.updNext + 1
    microVer := if i.cls = 2 then Tab.insert h.microVer p i.version else h.microVer
    stockVer := if i.cls = 3 then Tab.insert h.stockVer p i.version else h.stockVer })
  let s2 := raise s1 (henPage s1) 2
  if s2.henyen.updOrder.length ≤ s2.henyen.updNext then updDone s2 i else s2

/-- The swaps that are due at this OPEN. -/
def swapDue (i : Image) : Nat → State → State
  | 0, s => s
  | n + 1, s =>
    match s.henyen.updOrder[s.henyen.updNext]? with
    | some p => if s.henyen.updState = 3 ∧ swapTick s ≤ tickNumber s then swapDue i n (swapPartition s i p) else s
    | none => s

/-- The hand-over to a controller that runs the new image; the former active one restarts on it as standby (R590). -/
def handOver (s : State) : State :=
  let old := henImage s s.henyen.active
  let s1 := switchActive s
  let slot := nth 0 s1.henyen.slot s1.henyen.active
  let s2 := updHen s1 (fun h => { h with slot := [slot, slot], mirrorOk := true, mirrorAt := s.now, updState := 4,
                                         previous := if h.updBack then none else some old })
  raise s2 (henPage s2) 2

/-- Step 2 of OPEN: what the update in progress does at this tick (R586, R590). -/
def updateAtOpen (s : State) : State :=
  if s.henyen.updState ≠ 3 then s
  else match updTarget s with
    | none => s
    | some i =>
      if i.cls = 0 then (if s.henyen.updFirst ≤ tickNumber s then handOver s else s)
      else swapDue i 12 s

/-- A list of order entries, up to the first 15. -/
def orderList (v : Nat) : List Nat := ((List.range 12).map (fun k => bits v (4 * k) 4)).takeWhile (fun e => e != 15)

/-- The order names every partition with cores once, and only partitions. -/
def orderOk (s : State) (l : List Nat) : Bool :=
  l.all (fun e => decide (e ≤ 11)) && (List.range 12).all (fun p => memOnly s p || l.countP (fun e => e == p) == 1)

/-- A swap starts toward an image, forward or back. A first tick that is past is the next OPEN. -/
def updBegin (s : State) (i : Image) (back : Bool) : State :=
  let a := s.henyen.active
  let order := orderList (getF s F.HEN_UPD_ORDER_order a)
  if decide (2 ≤ i.cls) && !orderOk s order then updFails s 3
  else
    let first := getF s F.HEN_UPD_FIRST_tick a
    let past := decide (first ≤ tickNumber s)
    let s1 := updHen s (fun h => { h with
      updState := 3, updCode := 0, updNext := 0, updOrder := order, updBack := back
      updFirst := if past then tickNumber s + 1 else first, updSpacing := max 1 (getF s F.HEN_UPD_ORDER_spacing a) })
    let s2 := if past then raise s1 (henPage s1) 2 else s1
    match i.cls with
    | 0 =>
      let other := 1 - nth 0 s.henyen.slot a
      updHen s2 (fun h => { h with slot := setNth h.slot (1 - a) other, mirrorOk := true, mirrorAt := s.now })
    | 1 => updDone s2 i
    | _ => s2

/-- An update operation is written: one written while another is in progress is lost. -/
def updOperation (s : State) (f : State → State) : State :=
  if s.henyen.updState = 1 ∨ s.henyen.updState = 3 then setF s F.HEN_UPD_STATUS_lost s.henyen.active 1 else f s

/-- LOAD (R585): an image of the class named that verifies, declares the mirror's format compatible and is new enough is
placed. -/
def updLoad (s : State) (good compatible : Bool) (version svn : Nat) : State :=
  updOperation s (fun s =>
    let cls := updClassOf s
    let readable := (hubRead s (getF s F.HEN_UPD_SRC_addr s.henyen.active * 4096) 4096).isSome
    if !good || !readable || (cls == 0 && !compatible) then updFails s 1
    else if svn < fusedMin s cls then updFails s 2
    else
      let i : Image := { cls := cls, version := version % 2 ^ 32, svn := svn % 2 ^ 16 }
      let s1 := updHen s (fun h => { h with updState := 2, updCode := 0, loaded := some i })
      if cls = 0 then
        { s1 with board := { s1.board with images := setNth s1.board.images (1 - nth 0 s.henyen.slot s.henyen.active) (true, i.version, i.svn) } }
      else s1)

/-- START (R586, R590, R591). -/
def updStart (s : State) : State :=
  updOperation s (fun s => match s.henyen.loaded with
    | some i => if i.cls = updClassOf s then updBegin s i false else updFails s 1
    | none => updFails s 1)

/-- ROLLBACK (R589). -/
def updRollback (s : State) : State :=
  updOperation s (fun s => match s.henyen.previous with
    | some i =>
      if i.cls ≠ updClassOf s then updFails s 1
      else if i.svn < fusedMin s i.cls then updFails s 2
      else updBegin s i true
    | none => updFails s 1)

end Sys2Proof.Machine
end

