-- ==== Sys2Proof/Machine/TickOpen.lean ====
section
/-! DEFINITION. The phases of a tick (ch. 2): commits and the tables they make the hub read, resumption and starts at OPEN,
the WATCH sample and the cheaper-path switch, the deadline, publication at CLOSE, and input logs (R548, R549). -/

namespace Sys2Proof.Machine

/-! ### Tables read at a commit -/

/-- A trigger table entry as read (Table 3.12); one that breaks the table has no ring and is invalid (R137). -/
def triggerOf (s : State) (d : List Byte) : TriggerEntry :=
  let n := field d 0x10 4
  let ok := field d 2 1 == 1 && decide (1 ≤ field d 3 1) && decide (field d 3 1 ≤ 64) && (streamOf s (field d 0 2)).isSome &&
    field d 8 8 % 4096 == 0 && decide (field d 8 8 < 2 ^ 57) && isPow2 n && decide (16 ≤ n) && decide (n ≤ 4096) &&
    field d 0x14 8 == 0 && field d 0x1C 4 == 0
  { handle := field d 0 2, maxTake := field d 3 1, callerSet := field d 4 4, ring := field d 8 8,
    ringEntries := if ok then n else 0, nextSeq := 0, taken := 0, freed := 0 }

/-- The bytes of a table that the hub reads at a commit; what it cannot read is zeros. -/
def tableBytes (s : State) (pa n : Nat) : List Byte := (hubRead s pa n).getD (List.replicate n 0)

/-- Read the trigger table (R137). -/
def readTriggers (s : State) : State :=
  let n := getF s F.HUB_RPT_COUNT_entries 0
  let d := tableBytes s (getF s F.HUB_RPT_BASE_addr 0 * 4096) (32 * n)
  { s with triggers := (List.range n).map (fun i => triggerOf s ((d.drop (32 * i)).take 32)) }

/-- A table of entries of a size, as a table of numbers. -/
def numbersOf (d : List Byte) (size n : Nat) : Tab Nat :=
  (List.range n).foldl (fun t i => Tab.setC 0 t i (field d (size * i) size)) []

/-- Read the route table (R439) of an NFAB instance. -/
def readRoutes (s : State) (k : Nat) : State :=
  updFabric s (fun f => { f with routes := numbersOf (tableBytes s (getF s F.NFAB_RT_BASE_addr k * 2 ^ 13) 8192) 8 1024 })

/-- Read the agent table (R442). -/
def readAgents (s : State) (k : Nat) : State :=
  updFabric s (fun f => { f with agents := numbersOf (tableBytes s (getF s F.NFAB_AT_BASE_addr k * 2 ^ 13) 6144) 2 3072 })

/-- Read the job table (R466). -/
def readJobs (s : State) (k : Nat) : State :=
  let n := getF s F.NFAB_JOB_COUNT_slots k
  let d := tableBytes s (getF s F.NFAB_JOB_BASE_addr k * 2 ^ 18) (256 * n)
  updFabric s (fun f => { f with jobs := (List.range n).map (fun i =>
    { job := field d (256 * i) 4, valid := bit (field d (256 * i + 4) 1) 0, hubs := field d (256 * i + 128) 128 }) })

/-- An input-log entry obeys Table 15.9 and is valid. -/
def logOk (d : List Byte) : Bool :=
  field d 0 2 == 1 && field d 2 1 == 1 && decide (2 ≤ field d 3 1) && decide (field d 3 1 ≤ 64) && decide (field d 4 2 < 4096) &&
    field d 6 2 == 0 && decide (field d 8 8 < 2 ^ 57) && field d 0x10 8 % 2 ^ 21 == 0 && decide (field d 0x10 8 < 2 ^ 57) &&
    field d 0x18 8 % 4096 == 0 && decide (4096 ≤ field d 0x18 8) && decide (field d 0x18 8 ≤ 2 ^ 36) && field d 0x20 8 % 64 == 0 &&
    decide (field d 0x20 8 < 2 ^ 57) && field d 0x28 24 == 0

/-- An input-log entry as read; an entry that stands as before keeps the state of its slots. -/
def logEntryOf (s : State) (d : List Byte) : LogEntry :=
  let e : LogEntry := { context := field d 4 2, primary := field d 8 8, ring := field d 0x10 8, slotBytes := field d 0x18 8,
                        depth := field d 3 1, seals := field d 0x20 8, slots := [] }
  match s.ras.logs.find? (fun o => decide ({ o with slots := [] } = e)) with
  | some o => o
  | none => e

/-- Read the input log table (R548). -/
def readLogs (s : State) : State :=
  let n := getF s F.RAS_ILOG_COUNT_entries 0
  let d := tableBytes s (getF s F.RAS_ILOG_BASE_addr 0 * 4096) (64 * n)
  { s with ras := { s.ras with logs :=
      ((List.range n).map (fun i => (d.drop (64 * i)).take 64)).filterMap (fun e => if logOk e then some (logEntryOf s e) else none) } }

/-- Commit the armed pages (R93, R566), and read the tables whose registers have committed. -/
def commitTables (s : State) : State :=
  let had (page off : Nat) : Bool := armed s page && !pageDown s page && (Tab.find? s.staged (regKey page off)).isSome
  let either (r q : FRef) (k : Nat) : Bool := had (r.page + k) r.off || had (q.page + k) q.off
  let s1 := commitAll s
  let s2 := if either F.HUB_RPT_BASE_addr F.HUB_RPT_COUNT_entries 0 then readTriggers s1 else s1
  let s3 := [0, 1].foldl (fun a k =>
    let b := if had (F.NFAB_RT_BASE_addr.page + k) F.NFAB_RT_BASE_addr.off then reroute (readRoutes a k) else a
    let c := if had (F.NFAB_AT_BASE_addr.page + k) F.NFAB_AT_BASE_addr.off then readAgents b k else b
    if either F.NFAB_JOB_BASE_addr F.NFAB_JOB_COUNT_slots k then readJobs c k else c) s2
  if either F.RAS_ILOG_BASE_addr F.RAS_ILOG_COUNT_entries 0 then readLogs s3 else s3

/-- Step 2 of OPEN (R93): TICK_COMMIT_TICK holds armed pages back to its tick, and is cleared once that has come. -/
def commitStep (s : State) : State :=
  let n := getF s F.TICK_COMMIT_TICK_tick 0
  let t := tickNumber s
  if t < n then s
  else
    let s1 := commitTables s
    if n = 0 then s1
    else
      let s2 := setF s1 F.TICK_COMMIT_TICK_tick 0 0
      if n < t then raise (tickFault s2 2 0xFFFF) tickPage 4 else s2

/-! ### Input logs (R549) -/

/-- Write a seal record: a tick and the state of its slot, 1 open, 2 sealed (the codes are the model's). -/
def writeSeal (s : State) (e : LogEntry) (slot tick code : Nat) : State :=
  (ctxWrite s e.context (e.seals + 16 * slot) (leBytes 8 tick ++ leBytes 8 code)).getD s

/-- The 4 KiB pages of this hub's store that a slot maps. -/
def slotPages (s : State) (e : LogEntry) (slot : Nat) : List Nat :=
  (List.range (e.slotBytes / 4096)).filterMap (fun i =>
    match (xlate s (fun _ => false) noCore e.context (e.ring + slot * e.slotBytes + 4096 * i) .rd).1 with
    | .ok pa _ _ => if isLocal s pa then some (paOff pa / 4096) else none
    | _ => none)

/-- Replace an entry of the log table. -/
def setLog (s : State) (i : Nat) (e : LogEntry) : State := { s with ras := { s.ras with logs := setNth s.ras.logs i e } }

/-- At OPEN the slot of the new tick opens; one still sealed for an admitted stream stays sealed, with a record. -/
def openSlot (s : State) (i : Nat) : State :=
  match s.ras.logs[i]? with
  | none => s
  | some e =>
    let t := tickNumber s
    let k := t % e.depth
    let kept : Bool := match Tab.find? e.slots k with
      | some x => x.isSealed && s.tick.streams.any (fun h => h.2.budget.context == e.context && h.2.budget.primary == e.primary)
      | none => false
    if kept then fault s { cls := 2, cause := 0x0021, page := rasPage, context := e.context }
    else setLog (writeSeal s e k t 1) i { e with slots := Tab.insert e.slots k { tick := t, isSealed := false, pages := [] } }

/-- At CLOSE the slot of the tick is sealed. -/
def sealSlot (s : State) (i : Nat) : State :=
  match s.ras.logs[i]? with
  | none => s
  | some e =>
    let t := tickNumber s
    let k := t % e.depth
    match Tab.find? e.slots k with
    | some x =>
      if x.tick = t ∧ !x.isSealed then
        setLog (writeSeal s e k t 2) i { e with slots := Tab.insert e.slots k { x with isSealed := true, pages := slotPages s e k } }
      else s
    | none => s

/-- Publishing a run releases the sealed slots of earlier ticks. -/
def releaseSlots (s : State) (b : Budget) (tick : Nat) : State :=
  { s with ras := { s.ras with logs := s.ras.logs.map (fun e =>
      if e.context = b.context ∧ e.primary = b.primary then { e with slots := e.slots.filter (fun x => !(x.2.isSealed && decide (x.2.tick < tick))) } else e) } }

/-! ### Steps 5 and 6 of OPEN (R68, R89, R100, R105, R665) -/

/-- A stalled thread goes on where it stood (R105). -/
def resumeThread (s : State) (core ctx : Nat) : State :=
  updThread s core ctx (fun t =>
    if t.state ≠ .stalled then t
    else if t.sync.isSome then { t with state := if t.switching.isSome then .waitDrain else .waitSync }
    else if t.switching.isSome ∨ !drained s core ctx t.drain then { t with state := .waitDrain }
    else if t.pushing.isSome then { t with state := .waitQueue }
    else { t with state := .run, drain := 0 })

/-- Step 5: a stalled run goes on, its conditions counted anew. -/
def resumeRun (s : State) (h : Nat) : State :=
  match streamOf s h with
  | none => s
  | some x =>
    match x.run with
    | none => s
    | some r =>
      if r.state = .stalled ∧ !x.suspended ∧ threadsReady s x then
        x.threads.foldl (fun a k => resumeThread a (keyCore k) (keyCtx k)) (updRun s h (fun r => { r with state := .running }))
      else s

/-- What counts per tick begins anew: reservations used, service counts, the conditions of Table 2.9. -/
def clearTick (s : State) : State :=
  let s1 := updTick s (fun t => { t with streams := t.streams.map (fun e => (e.1, { e.2 with
    used := []
    run := e.2.run.map (fun r => { r with farWait := 0, fabricWait := 0, hostWait := 0, exceeded := false, recovery := false }) })) })
  { s1 with cores := s1.cores.map (fun e => (e.1, { e.2 with engines := e.2.engines.map (fun g =>
      { g with service := g.service.map (fun v => { v with count := 0 }) }) })) }

/-- The stream is scheduled in the tick that begins: its run waits for its threads. -/
def schedule (s : State) (h : Nat) : State :=
  match streamOf s h with
  | none => s
  | some x =>
    let n := tickNumber s
    if x.startTick ≤ n ∧ (n - x.startTick) % x.budget.stride = 0 ∧ untaken s h ≠ some 0 then
      updStream s h (fun y => { y with pendingTicks := y.pendingTicks ++ [n] })
    else s

/-- Steps 5 and 6. -/
def startStep (s : State) : State :=
  let hs := earliestFirst s
  let s1 := hs.foldl resumeRun (clearTick s)
  let s2 := hs.foldl schedule s1
  hs.foldl startWaiting s2

/-! ### OPEN -/

/-- The hub is started and its package supplied: it ticks. -/
def ticks (s : State) : Bool := decide (s.startup.phase ≠ .starting) && decide (s.pkg.state ≠ .quiesced)

/-- An edge is due: a source has placed it, or the hub's own timer has run for a period. -/
def edgeDue (s : State) : Bool :=
  ticks s && s.tick.stage == 4 && (s.tick.due.isSome || (sourceOf s != 1 && reached s (period s)))

/-- Step 1: the number is latched and the timer counts from the edge. -/
def latchEdge (s : State) : State :=
  let d := s.tick.due.getD (tickNumber s + 1, s.now)
  let s1 := setReg s tickPage 0x118 (BitVec.ofNat 64 d.1)
  updTick s1 (fun t => { t with phase := s.now - d.2, stage := 0, due := none })

/-- TICK_PART_CAP_TE shows the TE capacity of the tick that begins (Table 2.15). -/
def showCaps (s : State) : State :=
  (List.range 12).foldl (fun a p => setF a F.TICK_PART_CAP_TE_cap p (capacity s 1 p)) s

/-- OPEN (R68). The driving hub sends its tick frame, the domain master its Marks. -/
def openTick (s : State) : State :=
  if !edgeDue s then s
  else
    let s1 := latchEdge s
    let s2 := masterMarks (sendRing s1 (tickNumber s1) 0) false (tickNumber s1)
    let s3 := powerAtOpen (updateAtOpen (commitStep s2))
    let s4 := reevaluate (freeScrubbed (showCaps s3))
    let s5 := requestsAtOpen s4
    let s6 := (List.range s5.ras.logs.length).foldl openSlot s5
    startStep s6

/-! ### WATCH (R86 to R88, R299, R300) -/

/-- A running HAUL of a stream issues no further copy (R300). -/
def stopHauls (s : State) (h : Nat) : State :=
  { s with haulRuns := s.haulRuns.map (fun r => if (thread s r.core r.ctx).handle = h then { r with stopping := true } else r) }

/-- A thread leaves its primary list (R102): it stops fetching, cancels an open WAIT, and drains. -/
def switchThread (s : State) (core ctx sample : Nat) : State :=
  let t := thread s core ctx
  if t.state = .faulted then s
  else
    let s1 := updThread s core ctx (fun t => { t with state := .waitDrain, switching := some sample, drain := 15, fetched := none, pushing := none })
    match t.sync with
    | some o => if o.op = 0x0A ∧ o.answer.isNone ∧ !o.cancelled then cancelWait s1 core ctx o else s1
    | none => s1

/-- The WATCH sample of one stream, and its switch (R87). -/
def watchRun (s : State) (h : Nat) : State :=
  match streamOf s h with
  | none => s
  | some x =>
    match x.run with
    | none => s
    | some r =>
      let late := s.haul.any (fun e => e.2.handle == h && e.2.late)
      let s1 := if r.path ∨ x.suspended then s else updRun s h (fun r => { r with atWatch := r.progress })
      if r.state = .running ∧ !r.path ∧ !x.suspended ∧ x.budget.cheaper ≠ 0 ∧ (r.progress < x.budget.watchThreshold ∨ late) then
        let s2 := stopHauls (tallyStream (updRun s1 h (fun r => { r with path := true })) h 0x22 0) h
        x.threads.foldl (fun a k => switchThread a (keyCore k) (keyCtx k) r.progress) s2
      else s1

/-- WATCH: when A lies before D, each running run on its primary path is sampled once. -/
def watchTick (s : State) : State :=
  if s.tick.stage = 0 ∧ watchNs s < deadlineNs s ∧ reached s (watchNs s) then
    updTick (s.tick.streams.foldl (fun a e => watchRun a e.1) s) (fun t => { t with stage := 2 })
  else s

/-! ### The deadline (R89, R97) -/

/-- A run that D finds incomplete: neither complete nor recovering. -/
def misses (x : Stream) : Bool :=
  match x.run with
  | some r => !x.suspended && decide (r.state = .running) && !r.recomputing
  | none => false

/-- DEADLINE: what is not complete stalls. -/
def deadlineTick (s : State) : State :=
  if (s.tick.stage = 2 ∨ (s.tick.stage = 0 ∧ deadlineNs s ≤ watchNs s)) ∧ reached s (deadlineNs s) then
    let hs := (s.tick.streams.filter (fun e => misses e.2)).map Prod.fst
    let s1 := updTick (hs.foldl stallRun s) (fun t => { t with stage := 3 })
    if hs.isEmpty then s1 else raise s1 tickPage 5
  else s

/-! ### CLOSE (R71, R75, R90, R91, R97, R140, R294, R549) -/

/-- Publish one run: its record, the slots of its triggers, of its input log and of its Haul entries. -/
def publishRun (s : State) (h : Nat) (b : Budget) (r : StreamRun) : State :=
  let n := tickNumber s
  let dropped := decide (r.state = .dropped)
  let status := if dropped then 3 else if r.late then 2 else b2n r.path
  let s1 := streamRecord s h r.tick status (if status < 2 then 0 else r.cause) (if status < 2 then 0 else n - r.tick) r.recovered r.atWatch r.progress
  let s2 := if dropped then tallyStream s1 h 0x21 r.cause else s1
  let s3 := match gateOf s2 h with
    | some i => (match s2.triggers[i]? with
      | some e => { s2 with triggers := setNth s2.triggers i { e with freed := max e.freed (min e.taken (r.trigFirst + r.trigTaken)) } }
      | none => s2)
    | none => s2
  releaseSlots s3 b r.tick

/-- Publish what a stream has complete or dropped, in tick order; a recovering run that is not complete stalls (R97). -/
def closeStream (s : State) (h : Nat) : State :=
  match streamOf s h with
  | none => s
  | some x =>
    let unfinished : Bool := match x.run with
      | some r => decide (r.state = .recovering) || (decide (r.state = .running) && r.recomputing)
      | none => false
    if unfinished then stallRun (updRun s h (fun r => { r with recovery := true })) h
    else s

/-- The publication of one stream. -/
def publishStream (s : State) (h : Nat) : State :=
  match streamOf s h with
  | none => s
  | some x =>
    let runs := (x.done ++ (if x.rests then x.run.toList else [])).mergeSort (fun a b => decide (a.tick ≤ b.tick))
    if runs.isEmpty then s
    else
      let s1 := runs.foldl (fun a r => publishRun a h x.budget r) s
      let s2 := updStream s1 h (fun y => { y with done := [], run := if y.rests then none else y.run })
      if x.rests then dropHauls s2 h false else s2

/-- CLOSE: the Tally units that ask for it take their snapshot first (R602). -/
def closeTick (s : State) : State :=
  if s.tick.stage = 3 ∧ reached s (period s - 1000) then
    let s0 := (List.range 12).foldl (fun (a : State) p => if getF a F.TALLY_CTRL_snap_close p = 1 then snapshotAll a p else a) s
    let hs := s0.tick.streams.map Prod.fst
    let s1 := hs.foldl publishStream (hs.foldl closeStream s0)
    updTick ((List.range s1.ras.logs.length).foldl sealSlot s1) (fun t => { t with stage := 4 })
  else s

/-! ### The recompute of an aborted run (R97, R547) -/

/-- The aborted run of a stream that is recomputed next: the earliest tick. -/
def nextRedo (x : Stream) : Option StreamRun :=
  let all := x.redo ++ (match x.run with | some r => if r.state = .recovering then [r] else [] | none => [])
  match all with
  | [] => none
  | r :: t => some (t.foldl (fun a q => if q.tick < a.tick then q else a) r)

/-- RECOMPUTE_START: the run restarts at the first word of the path it held, with the sampled progress. -/
def recompute (s : State) (h : Nat) : State :=
  match streamOf s h with
  | none => s
  | some x =>
    match nextRedo x with
    | none => s
    | some r =>
      let holds : Bool := match x.run with | some q => decide (q.state = .running ∨ q.state = .stalled) | none => false
      if holds ∨ x.suspended ∨ !threadsReady s x ∨ s.tick.stage = 4 then s
      else
        let p := if r.path then r.atWatch else 0
        let r1 := { r with state := if x.threads.isEmpty then RunState.complete else .running, recovered := true, recomputing := !x.threads.isEmpty, progress := p }
        let s1 := updStream s h (fun y => { y with
          run := some r1
          redo := (y.redo.filter (fun q => q.tick != r.tick)) ++ (y.run.toList.filter (fun q => q.state == .recovering && q.tick != r.tick))
          done := y.done ++ y.run.toList.filter (fun q => q.state.over_) })
        launchThreads s1 x (if r.path then x.budget.cheaper else x.budget.primary) p r.path

end Sys2Proof.Machine
end

