-- ==== Sys2Proof/Machine/Faults.lean ====
section
/-! DEFINITION. Faults, resets and recovery (ch. 15): partition resets and returns, core fences, manager aborts, resync,
sparing and retirement. The self-tests and detectors of the hub are events: each command here is one of them, or a write of
its RAS register. -/

namespace Sys2Proof.Machine

/-! ### Sleep and wake (R643 to R645) -/

/-- An answer to a domain message (Table 19.2). -/
def domainAnswer (s : State) (code : Nat) : State := emit s (.domainAnswer code [])

/-- An admitted stream has an entry that names a partition, or an update swap waits for it (R643). -/
def partBusy (s : State) (p : Nat) : Bool :=
  s.tick.streams.any (fun e => e.2.budget.entries.any (fun r => r.kind == 0 && r.unit == p)) ||
    swapPending s p

/-- A partition that is up goes to sleep. -/
def sleepNow (s : State) (p : Nat) : State :=
  if partBusy s p then domainAnswer s 0x80
  else if !partUp s p then domainAnswer s 0
  else domainAnswer (updPart (leaveUp s p) p (fun x => { x with state := .asleep })) 0

/-- A sleeping or failed partition starts its return; its WAKE is answered when that has ended. -/
def wakeNow (s : State) (p : Nat) : State :=
  if partUp s p then domainAnswer s 0x81
  else
    { updPart s p (fun x => { x with state := .inReset }) with
      startup := { s.startup with waitingPower := (p, 2) :: s.startup.waitingPower } }

/-- The messages that waited for a partition's reset are served in their order, until one starts another return. -/
def serveWaiting : Nat → State → Nat → State
  | 0, s, _ => s
  | n + 1, s, p =>
    match takeFirst (fun w => w.1 == p) s.startup.waitingPower with
    | none => s
    | some ((_, 0), rest) => serveWaiting n (sleepNow { s with startup := { s.startup with waitingPower := rest } } p) p
    | some (_, rest) =>
      let s1 := wakeNow { s with startup := { s.startup with waitingPower := rest } } p
      if partUp s p then serveWaiting n s1 p else s1

/-- A return ends: the WAKE that asked for it is answered, then the messages that waited are served. -/
def endReturn (s : State) (p : Nat) : State :=
  let s1 := match takeFirst (fun w => w == (p, 2)) s.startup.waitingPower with
    | some (_, rest) => domainAnswer { s with startup := { s.startup with waitingPower := rest } } 0
    | none => s
  serveWaiting (s1.startup.waitingPower.length + 1) s1 p

/-! ### The end of a reset (R530, R535) -/

/-- The requests that waited for a line are taken up again, and a pool request that waited for its list. -/
def drainDies (s : State) : State :=
  resumePool ((List.range 2).foldl (fun a d => drainDie d (2 * (seamDie a d).waiting.length + 8) a) s)

/-- The pages of a partition's blocks (R565). -/
def partPages (p : Nat) : List Nat :=
  (range (32 * p) 32).flatMap (fun c => [corePage c, enginePage c 1, enginePage c 2, enginePage c 3]) ++
    [F.SE_BMC_LINES_in_use.page + 2 * p, F.SE_BMC_LINES_in_use.page + 2 * p + 1, F.SYNC_WAITERS_in_use.page + p]

/-- A partition comes up: its pages take their reset values, cores to unfence return, waiting fences act, debug opens or its
restrictions end, its sampler is seeded from the DRBG (R604), and what the stand-in held goes on. -/
def comeUp (s : State) (p : Nat) : State :=
  let x := partition s p
  let s1 := updPart s p (fun y => { y with state := .up, failed := false, standin := y.lost, unfence := [], fenceAtUp := [] })
  let s2 := x.unfence.foldl (fun a c => updCore a c (fun k => { k with fenced := false })) s1
  let s3 := (partPages p).foldl resetPage s2
  let level := Tab.getC 0 s3.eloan.debugOpening p
  let s4 : State := if level = 1 ∨ level = 2 then
      elnRaise (emit { s3 with eloan := { s3.eloan with debugOpen := Tab.insert s3.eloan.debugOpen p level } } (.eloanAnswer 0 [])) 1
    else if level = 4 then emit s3 (.eloanAnswer 0 [])
    else s3
  let s5 := { s4 with eloan := { s4.eloan with debugOpening := Tab.erase s4.eloan.debugOpening p } }
  let seed := freeBelow s5 (2 ^ 32 - 1)
  let s6 := updPower (updSampler seed.2 p (fun y => { y with lfsr := seed.1 + 1 })) p (fun y => { y with slotDue := some s.now })
  let s7 := x.fenceAtUp.foldl (fun a c => fenceCore a c 0) s6
  drainDies s7

/-- PARTITION_UP: a reset, or a return from sleep, ends with the self-test passed. A partition whose sensors hold it asleep
sleeps on (R622, R645). -/
def partitionUp (s : State) (p : Nat) : State :=
  let x := partition s p
  if 12 ≤ p ∨ x.state ≠ .inReset ∨ (x.failed && !s.startup.waitingPower.contains (p, 2)) then s
  else if (powerOf s p).tripped then endReturn (updPart s p (fun y => { y with state := .asleep })) p
  else endReturn (comeUp s p) p

def execPartitionUp (part : Nat) (s : State) : Host.Outcome State Fault Refusal := .next (settle (partitionUp s part))

/-- PARTITION_FAIL: the self-test fails, or the partition does not come up in time (R535). -/
def partitionFail (s : State) (p : Nat) : State :=
  let x := partition s p
  if 12 ≤ p ∨ x.state ≠ .inReset ∨ (x.failed && !s.startup.waitingPower.contains (p, 2)) then s
  else
    let s1 := updPart s p (fun y => { y with failed := true, lost := true, standin := true })
    let s2 := raise (fault s1 { cls := 2, cause := 0x001A, page := rasPage }) rasPage 10
    endReturn (drainDies s2) p

def execPartitionFail (part : Nat) (s : State) : Host.Outcome State Fault Refusal := .next (settle (partitionFail s part))

/-! ### Triggers of a reset (R522, R530) -/

def execHeartbeatLoss (part : Nat) (s : State) : Host.Outcome State Fault Refusal :=
  .next (settle (beginReset s part 0x0017))

def execPartitionReset (part : Nat) (s : State) : Host.Outcome State Fault Refusal := .next (settle (beginReset s part 0))

/-! ### Resync (R541) -/

/-- The lines of a guarded row that lie on a partition's channels. -/
def rowLines (p row : Nat) : List Nat :=
  (List.range (22 * 512)).flatMap (fun b =>
    let q := b / 22 % 12
    let i := b % 22
    if (if i < 2 * q then i else i + 2) / 2 = p then range ((farBase + row * (48 * 2 ^ 20) + b * 4096) / 64) 64 else [])

/-- One marked row of a partition that is up is rewritten from the others; lines that three erasures or more put beyond
rebuilding become poison. -/
def resyncRow (s : State) (p : Nat) : State :=
  match (partition s p).resync with
  | [] => s
  | r :: rest =>
    if 12 ≤ p ∨ !partUp s p then s
    else
      let row := rest.foldl min r
      let s1 : State := if 3 ≤ erasedCount s row then
          fault (poisonLines s (rowLines p row)) { cls := 2, cause := 0x0002, page := rasPage, actions := 16, pa := localPa s (farBase + row * (48 * 2 ^ 20)) }
        else s
      let left := (r :: rest).filter (fun x => x != row)
      let s2 := updPart s1 p (fun y => { y with resync := left })
      if left.isEmpty then raise s2 rasPage 9 else s2

def execResync (part : Nat) (s : State) : Host.Outcome State Fault Refusal := .next (settle (resyncRow s part))

/-! ### Fences (R529) -/

/-- RAS_FENCE fence: at once, or when the core's partition comes up. -/
def coreFence (s : State) (core : Nat) : State :=
  let p := partOfCore core
  if 384 ≤ core ∨ memOnly s p then s
  else if partUp s p then fenceCore s core 0
  else updPart s p (fun x => { x with fenceAtUp := if x.fenceAtUp.contains core then x.fenceAtUp else x.fenceAtUp ++ [core] })

def execCoreFence (core : Nat) (s : State) : Host.Outcome State Fault Refusal := .next (settle (coreFence s core))

/-- RAS_FENCE unfence: at the next reset of the core's partition. -/
def coreUnfence (s : State) (core : Nat) : State :=
  if 384 ≤ core ∨ !(coreOf s core).fenced then s
  else updPart s (partOfCore core) (fun x => { x with unfence := if x.unfence.contains core then x.unfence else x.unfence ++ [core] })

def execCoreUnfence (core : Nat) (s : State) : Host.Outcome State Fault Refusal := .next (settle (coreUnfence s core))

/-! ### Manager aborts (R545) -/

/-- RAS_WEDGE.go: every unpublished run of a job is aborted with cause MANAGER. -/
def managerAbort (s : State) (job : Nat) : State :=
  let hs := s.tick.streams.filterMap (fun e =>
    if e.2.budget.job = job ∧ e.2.ended.any StreamRun.abortable = true then some e.1 else none)
  if hs.isEmpty then s
  else
    hs.foldl (fun a h => abortFor a h 5 (fun _ => true))
      (fault s { cls := 2, cause := 0x001E, page := tickPage, actions := 1, detail := 5, job := job })

def execManagerAbort (job : Nat) (s : State) : Host.Outcome State Fault Refusal := .next (settle (managerAbort s job))

/-! ### Sparing and retirement (R542 to R544) -/

/-- A unit that has spare rows: a DDR5 channel, or 32 + p for the stack of a partition. -/
def spareUnit (u : Nat) : Bool := decide (u < 24) || (decide (32 ≤ u) && decide (u < 44))

/-- ROW_SPARE: a row is repaired from the spares of its unit. -/
def rowSpare (s : State) (u : Nat) : State :=
  if !spareUnit u || Tab.getC 0 s.ras.spareLeft u == 0 then s
  else
    let s1 := { s with ras := { s.ras with
      spareLeft := Tab.upd 0 s.ras.spareLeft u (fun n => n - 1)
      spareUsed := Tab.upd 0 s.ras.spareUsed u (fun n => min 65535 (n + 1)) } }
    raise (writeRecord s1 { cls := 1, cause := 0x001C, page := rasPage, actions := 64, detail := b2n (decide (32 ≤ u)) }) rasPage 4

def execRowSpare (unit : Nat) (s : State) : Host.Outcome State Fault Refusal := .next (settle (rowSpare s unit))

/-- Frames are retired: listed once each, while the list has room for 1,024. -/
def retireFrames (s : State) (fs : List Nat) : State :=
  fs.foldl (fun a f =>
    if a.ras.retired.contains f then a
    else { a with ras := { a.ras with
      retired := a.ras.retired ++ [f]
      retireList := if a.ras.retireList.length < 1024 then a.ras.retireList ++ [f] else a.ras.retireList } }) s

/-- A hub-local frame of the store's memory. -/
def isFrame (s : State) (f : Nat) : Bool := (homePart s (f * twoMiB)).isSome

/-- FRAME_RETIRE: the frames that hold a row with no spare left are retired. -/
def frameRetire (s : State) (frames : List Nat) : State :=
  match frames.filter (fun f => isFrame s f && !s.ras.retired.contains f) with
  | [] => s
  | f :: fs =>
    raise (fault (retireFrames s (f :: fs)) { cls := 2, cause := 0x001D, page := rasPage, pa := localPa s (f * twoMiB) }) rasPage 5

def execFrameRetire (frames : List Nat) (s : State) : Host.Outcome State Fault Refusal := .next (settle (frameRetire s frames))

/-- The plain frames of a DDR5 channel. -/
def plainFrames (s : State) (ch : Nat) : List Nat :=
  (range (guardRows s) (nth 0 s.board.channelFrames ch - guardRows s)).map (fun f => farBase / twoMiB + f * 24 + ch)

/-- CHANNEL_RETIRE: every plain frame of the channel is listed, its blocks in guarded rows become erasures. -/
def channelRetire (s : State) (ch : Nat) : State :=
  if 24 ≤ ch ∨ s.ras.retiredChannels.contains ch then s
  else
    let s1 := { s with ras := { s.ras with retiredChannels := s.ras.retiredChannels ++ [ch] } }
    raise (fault (retireFrames s1 (plainFrames s1 ch)) { cls := 2, cause := 0x001D, page := rasPage, detail := 1 }) rasPage 5

def execChannelRetire (channel : Nat) (s : State) : Host.Outcome State Fault Refusal := .next (settle (channelRetire s channel))

/-- RAS_RETIRE.next: the head leaves the list. -/
def retireNext (s : State) : State := { s with ras := { s.ras with retireList := s.ras.retireList.drop 1 } }

def execRetireNext (s : State) : Host.Outcome State Fault Refusal := .next (settle (retireNext s))

end Sys2Proof.Machine
end

