-- ==== Sys2Proof/Machine/LinkBase.lean ====
section
/-! DEFINITION. A Nelpin port (ch. 12): its flits and groups, acknowledgement and replay, training, width, and what happens
when its link goes down (R434, R462 to R464). Times are in half-nanoseconds. -/

namespace Sys2Proof.Machine

/-! ### Names -/

/-- The NLK page of a port. -/
def nlkPage (n : Nat) : Nat := F.NLK_CTRL_enable.page + n

/-- Causes of going down (Table 12.9). -/
def causeSilent : Nat := 1
def causeProtocol : Nat := 2
def causeReplay : Nat := 3
def causeSeal : Nat := 4
def causeRetrain : Nat := 5
def causeLanes : Nat := 6
def causePartner : Nat := 7
def causeSoftware : Nat := 8

/-- The link carries flits: its port is in DELAY or ACTIVE. -/
def Port.live (p : Port) : Bool := decide (p.state = .active) || decide (p.state = .delay)

/-- The link has a session that R434 ends: ACTIVE or RETRAIN. -/
def Port.inSession (p : Port) : Bool := decide (p.state = .active) || decide (p.state = .retrain)

/-- Slots of each virtual channel (R414). -/
def slotsOfChannel : List Nat := [320, 320, 192, 192, 960, 64]

/-! ### Width (R430) -/

/-- Healthy lane indices. -/
def lanesIn (h : Nat) : List Nat := (List.range 4).filter (fun i => bit h i)

/-- The width of a set of healthy lanes. -/
def widthOf (h : Nat) : Nat :=
  match (lanesIn h).length with
  | 0 => 0
  | 1 => 1
  | 2 | 3 => 2
  | _ => 4

/-- The lanes in use. -/
def lanesUsed (h : Nat) : List Nat := (lanesIn h).take (widthOf h)

/-- Lanes without those marked failed by NLK_CTRL.lane_off. -/
def allowedLanes (s : State) (n h : Nat) : Nat :=
  (lanesIn h).foldl (fun a i => if bit (getF s F.NLK_CTRL_lane_off n) i then a else a + 2 ^ i) 0

/-! ### Flits that a port sends -/

/-- A link-control frame kind of this model beside the flit kinds: a retrain request, a retrain frame. -/
def ctlRetrainRequest : Nat := 16
def ctlRetrainFrame : Nat := 17

/-- An unsequenced flit of a port: idle, with its trailer. -/
def idleOf (p : Port) (nak : Bool) : Flit :=
  { kind := 2, seq := p.txSeq, ack := p.verified, nak := nak, phase := false, timed := false, channel := 0, start := 0,
    units := [], first := 0, count := 0, credits := [] }

/-- Send a probe (R435): T1 is its departure. -/
def sendProbe (s : State) (n : Nat) : State := emit s (.control n 3 [s.now])

/-! ### Acknowledgement and replay (R422 to R426) -/

/-- The transmitter takes an ack: entries through it are freed. One that is not newer changes nothing. -/
def takeAck (s : State) (n a : Nat) : State :=
  let p := port s n
  match (List.range p.replay.length).find? (fun i => match p.replay[i]? with | some f => f.seq == a | none => false) with
  | none => s
  | some i =>
    let left := p.replay.drop (i + 1)
    updPort s n (fun q => { q with
      replay := left, txAck := a, ackAt := s.now, replayTimeouts := 0
      inFlight := q.inFlight.filter (fun e => decide (e.1 = 4096) || left.any (fun f => f.seq == e.1)) })

/-- Replay every entry, in order, with the ack of now. -/
def replayAll (s : State) (n : Nat) : State :=
  let p := port s n
  p.replay.foldl (fun a f => emit a (.flit n { f with ack := p.verified })) (addSatF s F.NLK_RETRY_replays n 1)

/-- A nak with an ack arrives (R425). A nak older than an ack already applied is ignored. -/
def takeNak (s : State) (n a : Nat) : State :=
  let p := port s n
  if !p.inSession ∨ !(decide (a = p.txAck) || p.replay.any (fun f => f.seq == a)) then s
  else
    let s1 := takeAck (addSatF s F.NLK_RETRY_nak_recv n 1) n a
    if (port s1 n).replay.isEmpty then s1 else replayAll s1 n

/-! ### The link goes down (R434, R462 to R464) -/

/-- The mark of a port's reconcile on the flows it holds. -/
def reconMark (n : Nat) : Nat := 65536 + n

/-- A reconcile fails: what was handed back is discarded, sources of requests are told, the flows go on (R464). -/
def reconFail (s : State) (n : Nat) : State :=
  let p := port s n
  let s1 := raise (addSatF s F.NFAB_RECON_failed (sliceOf n) 1) (F.NFAB_RECON_failed.page + sliceOf n) 2
  let s2 := updPort s1 n (fun q => { q with handed := [], reconciling := none })
  let s3 := updFabric s2 (fun f => { f with
    unreconciled := if f.unreconciled.contains p.partnerHub then f.unreconciled else f.unreconciled ++ [p.partnerHub] })
  let s4 := p.handed.foldl (fun a e =>
    match dropNak a (sliceOf n) e.2 with
    | (some q, b) => route b q
    | (none, b) => b) s3
  freeFlows s4 (reconMark n)

/-- The packets that wait in a port's egress queues, of every class, each class in order. -/
def queuedAt (s : State) (n : Nat) : List Packet :=
  (List.range 6).flatMap (fun c => (Tab.getC [] s.fabric.egress (egressKey n c)).map Queued.packet)

/-- Take every packet out of a port's egress queues. -/
def emptyQueues (s : State) (n : Nat) : State :=
  updFabric s (fun f => { f with egress := f.egress.filter (fun e => e.1 / 8 != n) })

/-- What waited at a port that is not ready moves: a flow that is held keeps it, any other flow takes its next path at once. -/
def shiftQueues (s : State) (n : Nat) : State := (queuedAt s n).foldl route (emptyQueues s n)

/-- A port in RETRAIN keeps the flows that have a packet unacknowledged on it (R465). -/
def shiftIdleFlows (s : State) (n : Nat) : State :=
  let stays (p : Packet) : Bool := (port s n).inFlight.any (fun e => e.2.cls == p.cls && e.2.dst == p.dst && e.2.xfer == p.xfer)
  let moving := (queuedAt s n).filter (fun p => !stays p)
  let s1 := updFabric s (fun f => { f with egress := f.egress.filterMap (fun e =>
    if e.1 / 8 = n then
      (match e.2.filter (fun q => stays q.packet) with
      | [] => none
      | l => some (e.1, l))
    else some e) })
  moving.foldl route s1

/-- The Reconcile that a port sends, in its own number as tag (R463). -/
def reconcileFor (s : State) (n : Nat) : Packet :=
  mkPacket s ptReconcile (port s n).partnerHub n 0 (n + (port s n).partnerPort * 2 ^ 6) 15 []

/-- A session has ended (steps 3 and 4 of R434): its release record is held, its unacknowledged packets are handed back and
held at the head of their flows while the partner is asked. -/
def endSession (s : State) (n : Nat) : State :=
  let p := port s n
  let back := p.inFlight
  let s1 := updPort s n (fun q => { q with
    replay := [], group := [], inFlight := [], partialUnits := [], rest := [], keyed := false, nakPending := false
    release := some (q.verified, s.now), handed := back })
  let s2 := back.foldl (fun a e => holdFlow a e.2 (reconMark n)) s1
  let s3 := shiftQueues s2 n
  if !p.partnerJoined ∨ !joined s then updPort s3 n (fun q => { q with handed := [] })
  else match place s3 (reconcileFor s3 n) with
    | some s4 => updPort s4 n (fun q => { q with reconciling := some s.now })
    | none => reconFail s3 n

/-- A port begins DETECT, or ends in a state that attempts nothing. The next session starts from nothing (R427). -/
def restPort (s : State) (n : Nat) (st : LinkState) (since : Nat) : State :=
  updPort s n (fun q => { q with
    state := st, since := since, width := 0, healthy := 0, txSeq := 0, replay := [], txAck := 4095, credit := slotsOfChannel,
    replayTimeouts := 0, counted := [0, 0, 0, 0, 0, 0], turn := 0, inFlight := [], expected := 0, group := [], verified := 4095,
    freed := [0, 0, 0, 0, 0, 0], told := [0, 0, 0, 0, 0, 0], rest := [], nakPending := false, naksInRow := 0, sealRetry := false,
    partialUnits := [], txGen := 0, txCount := 0, rxGen := 0, rxCount := 0, keyed := false, delays := [] })

/-- A cause that is an error the hub detects. -/
def errorCause (c : Nat) : Bool := decide (1 ≤ c) && decide (c ≤ 6)

/-- The link goes down (R434). -/
def portDown (s : State) (n cause : Nat) : State :=
  let p := port s n
  let s1 := updPort (raise s (nlkPage n) 1) n (fun q => { q with cause := cause, state := .down })
  let s2 := if errorCause cause then fault s1 { cls := 2, cause := 0x0016, page := nlkPage n, detail := cause, agent := p.partnerHub } else s1
  let s3 := if p.inSession then endSession s2 n else s2
  restPort s3 n (if 8 ≤ cause then .down else .detect) s.now

/-- A protocol error (R421). -/
def protocolError (s : State) (n : Nat) : State := portDown s n causeProtocol

/-! ### Naks and replays that a port asks for (R424) -/

/-- A nak leaves; the last one that the limit allows takes the link down. -/
def sendNak (s : State) (n : Nat) : State :=
  let s1 := updPort (addSatF s F.NLK_RETRY_nak_sent n 1) n (fun q => { q with nakPending := true, nakAt := s.now, naksInRow := q.naksInRow + 1 })
  let s2 := emit s1 (.flit n (idleOf (port s1 n) true))
  if getF s F.NLK_CFG_nak_limit n ≤ (port s2 n).naksInRow then portDown s2 n causeReplay else s2

/-- A replay is requested; one already asked for is not asked for again before its time. -/
def askReplay (s : State) (n : Nat) : State := if (port s n).nakPending then s else sendNak s n

/-- E advances: a receiver that waited for it waits no longer. -/
def acceptSeq (s : State) (n : Nat) : State :=
  updPort s n (fun q => { q with expected := (q.expected + 1) % 4096, nakPending := false, naksInRow := 0 })

/-! ### Receiving -/

/-- What every flit with a good CRC brings: it was heard, its ack is applied first, then its nak. -/
def heardFlit (s : State) (n : Nat) (f : Flit) : State :=
  let s1 := takeAck (updPort s n (fun q => { q with lastGood := s.now })) n f.ack
  if f.nak then takeNak s1 n f.ack else s1

/-- The distance of a sequence number from the expected one (R420). -/
def seqGap (s : State) (n seq : Nat) : Nat := (seq + 4096 - (port s n).expected) % 4096

/-- A sequenced flit is met as R420 lays down; `accept` is what the expected one does. -/
def sequenced (s : State) (n : Nat) (f : Flit) (accept : State → State) : State :=
  let d := seqGap s n f.seq
  if d = 0 then accept s
  else if d < 1024 then askReplay s n
  else if d < 3072 then protocolError s n
  else s

/-- A data flit arrives. -/
def dataFlit (s : State) (n : Nat) (f : Flit) : State :=
  if 48 ≤ n ∨ (port s n).state ≠ .active then s
  else
    let s1 := heardFlit s n f
    if (port s1 n).state ≠ .active then s1
    else if f.kind ≠ 0 ∨ 6 ≤ f.channel ∨ 15 < f.start then protocolError s1 n
    else sequenced s1 n f (fun a => acceptSeq (updPort a n (fun q => { q with group := q.group ++ [(f, s.now)] })) n)

/-! ### Packets out of a group (R446) -/

/-- Packets that begin in a list of units, and the units of one that the next flit continues. The fuel is the list's
length. -/
def cutPackets : Nat → List Nat → List (List Nat) × List Nat
  | 0, _ => ([], [])
  | _ + 1, [] => ([], [])
  | fuel + 1, u :: us =>
    let len := bits u 6 6
    if bits u 0 6 = 0 then ([], [])
    else if len < 2 then ([u :: us], [])
    else if us.length + 1 < len then ([], u :: us)
    else
      let r := cutPackets fuel (us.drop (len - 1))
      ((u :: us.take (len - 1)) :: r.1, r.2)

/-- One flit of a verified group: the packets that end in it, and what the channel's next flit continues. -/
def openFlit (rest : List Nat) (f : Flit) : List (List Nat) × List Nat :=
  let us := f.units.take 15
  if f.start = 15 then
    let whole := rest ++ us
    match whole with
    | [] => ([], [])
    | u :: _ => if bits u 6 6 ≤ whole.length then ([whole.take (bits u 6 6)], []) else ([], whole)
  else
    let head := if rest.isEmpty then [] else [rest ++ us.take f.start]
    let r := cutPackets (us.length + 1) (us.drop f.start)
    (head ++ r.1, r.2)

/-- A packet enters the switch from a port: one that breaks Tables 13.3 and 13.4 is discarded (R448), others wait to be
routed or taken. -/
def enterSwitch (n : Nat) (s : State) (e : List Nat × Nat) : State :=
  match Packet.ofUnits e.1 with
  | some p => updFabric s (fun f => { f with incoming := f.incoming ++ [(n, e.2, p)] })
  | none => fault (addSatF s F.NFAB_DROP_bad (sliceOf n) 1) { cls := 2, cause := 0x0015, page := F.NFAB_DROP_bad.page + sliceOf n, agent := (port s n).partnerHub }

/-- A verified group is released: its packets enter the switch in order, its slots are free. -/
def releaseGroup (s : State) (n : Nat) : State :=
  (port s n).group.foldl (fun a e =>
    let c := e.1.channel
    let r := openFlit (nth [] (port a n).rest c) e.1
    let b := updPort a n (fun q => { q with
      rest := setNth (if q.rest.isEmpty then List.replicate 6 [] else q.rest) c r.2
      freed := setNth q.freed c ((nth 0 q.freed c + 1) % 65536) })
    (r.1.map (fun us => (us, e.2))).foldl (enterSwitch n) (bwBytes b (n / 24) (n % 24) 1 248)) s

/-- Credit counts are cumulative (R415). -/
def takeCredit (q : Port) (counts : List Nat) : Port :=
  { q with
    credit := (List.range 6).map (fun c => nth 0 q.credit c + (nth 0 counts c + 65536 - nth 0 q.counted c) % 65536)
    counted := (List.range 6).map (fun c => nth 0 counts c) }

/-- A seal verifies: its group is released, its credit taken, its key generation noted (R416 to R418). -/
def sealGood (s : State) (n : Nat) (f : Flit) : State :=
  let k := (port s n).group.length
  let s1 := updPort (releaseGroup s n) n (fun q =>
    let turns := decide (b2n f.phase ≠ q.rxGen % 2)
    { takeCredit q f.credits with
      group := [], verified := f.seq, sealRetry := false
      rxGen := if turns then q.rxGen + 1 else q.rxGen
      rxCount := (if turns then 0 else q.rxCount) + k + 1 })
  acceptSeq s1 n

/-- A seal fails (R419): its group is discarded and asked for again; the second failure takes the link down. -/
def sealBad (s : State) (n : Nat) : State :=
  let s1 := raise (addSatF s F.NLK_RETRY_seal_fail n 1) (nlkPage n) 4
  let p := port s1 n
  if p.sealRetry then portDown s1 n causeSeal
  else askReplay (updPort s1 n (fun q => { q with
    sealRetry := true, group := [], expected := (q.expected + 4096 - q.group.length % 4096) % 4096 })) n

/-- A seal flit arrives. Its header names the group it closes. -/
def sealFlit (s : State) (n : Nat) (f : Flit) (verified : Bool) : State :=
  if 48 ≤ n ∨ (port s n).state ≠ .active then s
  else
    let s1 := heardFlit s n f
    if (port s1 n).state ≠ .active then s1
    else if f.kind ≠ 1 ∨ 127 < f.count then protocolError s1 n
    else sequenced s1 n f (fun a =>
      let k := (port a n).group.length
      if verified && f.count == k && (f.first + k) % 4096 == f.seq then sealGood a n f else sealBad a n)

/-! ### Sending (R414 to R418, R422, R438) -/

/-- A class has something for a flit and credit for it. -/
def mayFill (s : State) (n c : Nat) : Bool :=
  let p := port s n
  decide (0 < nth 0 p.credit c) && (!(nth [] p.partialUnits c).isEmpty || !(Tab.getC [] s.fabric.egress (egressKey n c)).isEmpty)

/-- The class that the arbiter serves next: control first, then round-robin. -/
def nextClass (s : State) (n : Nat) : Option Nat :=
  if mayFill s n 5 then some 5
  else ((range (port s n).turn 5).map (· % 5)).find? (mayFill s n)

/-- A Mark leaves with the time it stood in this hub added to its corrections (R437, R472). -/
def departing (s : State) (q : Queued) : Packet :=
  if q.packet.ptype = ptMark then
    { q.packet with word3 := setBits q.packet.word3 32 32 (bits q.packet.word3 32 32 + (s.now - q.arrived)) }
  else q.packet

/-- Fill a flit of a class with packets, back to back, while units and packets last: the units, what remains of the last
packet, the queue, and the packets taken with whether each has ended. -/
def fillUnits (s : State) : Nat → Nat → List Queued → List Nat × List Nat × List Queued × List (Packet × Bool)
  | _, _, [] => ([], [], [], [])
  | 0, _, q => ([], [], q, [])
  | fuel + 1, room, e :: es =>
    if room = 0 then ([], [], e :: es, [])
    else
      let p := departing s e
      let us := p.toUnits
      if us.length ≤ room then
        let r := fillUnits s fuel (room - us.length) es
        (us ++ r.1, r.2.1, r.2.2.1, (p, true) :: r.2.2.2)
      else (us.take room, us.drop room, es, [(p, false)])

/-- Note the last flit of packets that have left: the open one of the class, then those taken. -/
def noteLeft (l : List (Nat × Packet)) (c seq : Nat) (closes : Bool) (took : List (Packet × Bool)) : List (Nat × Packet) :=
  (if closes then l.map (fun e => if e.1 = 4096 ∧ e.2.cls = c then (seq, e.2) else e) else l) ++
    took.map (fun t => (if t.2 then seq else 4096, t.1))

/-- One data flit of a class joins the group in hand. -/
def sendFlit (s : State) (n c : Nat) : State × Flit :=
  let p := port s n
  let part := nth [] p.partialUnits c
  let head := part.take 15
  let q := Tab.getC [] s.fabric.egress (egressKey n c)
  let r := fillUnits s 16 (15 - head.length) q
  let us := head ++ r.1
  let f : Flit :=
    { kind := 0, seq := p.txSeq, ack := p.verified, nak := false, phase := bit p.txGen 0
      timed := r.2.2.2.any (fun t => t.1.ptype == ptMark), channel := c, start := head.length
      units := us ++ List.replicate (15 - us.length) 0, first := 0, count := 0, credits := [] }
  let s1 := updFabric s (fun x => { x with egress := Tab.setC [] x.egress (egressKey n c) r.2.2.1 })
  let s2 := updPort s1 n (fun y => { y with
    txSeq := (y.txSeq + 1) % 4096
    replay := y.replay ++ [f]
    ackAt := if y.replay.isEmpty then s.now else y.ackAt
    credit := setNth y.credit c (nth 0 y.credit c - 1)
    turn := if c = 5 then y.turn else (c + 1) % 5
    partialUnits := setNth (if y.partialUnits.isEmpty then List.replicate 6 [] else y.partialUnits) c
      (if 15 < part.length then part.drop 15 else r.2.1)
    inFlight := noteLeft y.inFlight c p.txSeq (!part.isEmpty && decide (part.length ≤ 15)) r.2.2.2 })
  (bwBytes (emit s2 (.flit n f)) (n / 24) (n % 24) 0 248, f)

/-- Data flits leave while the group, the replay buffer and the credit allow it: how many. -/
def sendGroup (n : Nat) : Nat → State → State × Nat
  | 0, s => (s, 0)
  | fuel + 1, s =>
    if 1023 ≤ (port s n).replay.length then (s, 0)
    else match nextClass s n with
      | none => (s, 0)
      | some c =>
        let r := sendGroup n fuel (sendFlit s n c).1
        (r.1, r.2 + 1)

/-- SEAL_SEND: the data flits that are ready leave as a group, and the seal closes it; an empty group only to return
credit. -/
def sealSend (s : State) (n : Nat) : State :=
  let p := port s n
  if 48 ≤ n ∨ p.state ≠ .active ∨ 1024 ≤ p.replay.length then s
  else
    let s0 := updPort s n (fun q => if 2 ^ 32 < q.txCount + 128 then { q with txGen := q.txGen + 1, txCount := 0 } else q)
    let r := if portReady s n then sendGroup n 127 s0 else (s0, 0)
    let q := port r.1 n
    if r.2 = 0 ∧ q.freed = q.told then s
    else
      let f : Flit :=
        { kind := 1, seq := q.txSeq, ack := q.verified, nak := false, phase := bit q.txGen 0, timed := false, channel := 0, start := 0,
          units := [], first := (q.txSeq + 4096 - r.2) % 4096, count := r.2, credits := q.freed }
      emit (updPort r.1 n (fun y => { y with
        txSeq := (y.txSeq + 1) % 4096, replay := y.replay ++ [f], ackAt := if y.replay.isEmpty then s.now else y.ackAt
        txCount := y.txCount + r.2 + 1, told := y.freed })) (.flit n f)

/-! ### RETRAIN (R431, R432) -/

/-- The port enters RETRAIN with a set of healthy lanes; with none the link goes down. -/
def enterRetrain (s : State) (n healthy : Nat) (request : Bool) : State :=
  if healthy = 0 then portDown (updPort s n (fun q => { q with healthy := 0 })) n causeLanes
  else
    let fresh := decide ((port s n).state = .active)
    let s1 := updPort s n (fun q => { q with state := .retrain, healthy := healthy, since := if fresh then s.now else q.since })
    let s2 := if request then emit s1 (.control n ctlRetrainRequest [healthy]) else s1
    if fresh then shiftIdleFlows (emit s2 (.control n ctlRetrainFrame ((port s2 n).verified :: (port s2 n).freed))) n else s2

/-! ### Delay (R435, R436) -/

/-- Insert into a rising list. -/
def insertRising (x : Nat) : List Nat → List Nat
  | [] => [x]
  | y :: l => if x ≤ y then x :: y :: l else y :: insertRising x l

/-- The median of results: the lower of the two in the middle of an even number. -/
def medianOf (l : List Nat) : Nat := nth 0 (l.foldr insertRising []) ((l.length - 1) / 2)

/-- A probe exchange ends with a delay result. -/
def delayResult (s : State) (n d : Nat) : State :=
  let old := getF s F.NLK_DELAY_delay n
  let had := !(port s n).delays.isEmpty
  let s1 := updPort s n (fun q => { q with delays := d :: q.delays.take 7, probes := q.probes + 1, lastGood := s.now })
  let new := medianOf (port s1 n).delays % 2 ^ 20
  let s2 := addWrapF (setF s1 F.NLK_DELAY_delay n new) F.NLK_DELAY_probes n 1
  if had ∧ (old + 4 < new ∨ new + 4 < old) then raise s2 (nlkPage n) 7 else s2

/-! ### ACTIVE and back to DETECT (R427) -/

/-- The hub's epoch notice, before any other packet, when its first link to a joined partner comes up (R634). -/
def firstNotice (s : State) (n : Nat) : State :=
  if portReady s n ∧ !s.startup.noticeSent then sendNotice { s with startup := { s.startup with noticeSent := true } } 15 else s

/-- The link enters ACTIVE from DELAY. -/
def enterActive (s : State) (n : Nat) : State :=
  let s1 := updPort s n (fun q => { q with state := .active, since := s.now, timeouts := 0, lastGood := s.now, release := none, ackAt := s.now })
  let s2 := raise (addWrapF s1 F.NLK_STATUS_ups n 1) (nlkPage n) 0
  firstNotice (updFabric s2 (fun f => { f with unreconciled := f.unreconciled.filter (fun h => h != (port s n).partnerHub) })) n

/-- A training attempt ends in a timeout: DETECT again, after a wait of its own from DETECT (R427). -/
def trainingFails (s : State) (n wait : Nat) : State :=
  let k := (port s n).timeouts + 1
  let s1 := updPort (restPort s n .detect (s.now + wait)) n (fun q => { q with timeouts := k })
  if k = 3 then raise s1 (nlkPage n) 3 else s1

/-- The timeout of a state (Table 12.6). -/
def stateTimeout : LinkState → Option Nat
  | .detect => some 4000000
  | .equalize => some 100000000
  | .align => some 2000000
  | .params => some 2000000
  | .secure => some 200000000
  | .delay => some 2000000
  | .retrain => some 20000
  | _ => none

end Sys2Proof.Machine
end

