-- ==== Sys2Proof/Machine/FabricIn.lean ====
section
/-! DEFINITION. Answers to this hub's requests (ch. 13): how each kind of request ends, with its data, its status, or an error
of Table 13.9; combined requests split to their members; resends and timeouts. -/

namespace Sys2Proof.Machine

/-! ### Refusals that a host meets (R348) -/

/-- A refusal advances HPORT_LINK_ERR and records its code. -/
def hostRefused (s : State) (l cause : Nat) : State :=
  let s1 := setL s F.HPORT_LINK_ERR_count l (min (2 ^ 32 - 1) (getL s F.HPORT_LINK_ERR_count l + 1))
  raise (setL s1 F.HPORT_LINK_ERR_cause l cause) (F.HPORT_CFG_split.page + l / 2) 5

/-- A host agent meets the access error, whatever refused it: a read is answered with poison, a write is completed. -/
def hostAccessError (s : State) (agent tag cause : Nat) (read : Bool) : State :=
  let s1 := match linkOfAgent s agent with | some l => hostRefused s l cause | none => s
  emit s1 (.grant agent tag 0 (if read then zeroBytes 64 else []) read)

/-! ### Ends of requests -/

/-- Close every request of the same purpose: a wait and its cancel end together. -/
def closeSame (s : State) (w : ReqFor) : State :=
  updFabric s (fun f => { f with requests := f.requests.filter (fun r => decide (r.purpose ≠ w)) })

/-- A record that a request has ended (Table 15.4, FABRIC). -/
def fabricRecord (s : State) (agent detail : Nat) : State :=
  fault s { cls := 2, cause := 0x0015, page := F.NFAB_CTRL_comb_rd.page, detail := detail, agent := agent }

/-- The command of a core that waits for a request fails with FABRIC; one that the engine no longer holds leaves a record. -/
def fabricFails (s : State) (core unit seq detail : Nat) : State :=
  match heldCmd s core unit seq with
  | some h => if h.error = 0 then failCommand s core unit h errFabric 0 0 .rd else s
  | none => fabricRecord s 0xFFFF detail

/-- The home may have applied a send of the request. -/
def Request.mayBeApplied (r : Request) : Bool := decide (r.refused < r.sends)

/-- A request is one that a host waits for an answer with bytes of. -/
def Request.reads (r : Request) : Bool := r.packet.ptype == ptRdCur || r.packet.ptype == ptRdS

/-- An event of a requester of this hub (Table 17.1): a command's stream, or a thread's. -/
def noteRequest (s : State) (w : ReqFor) (code : Nat) : State :=
  let ev (core handle : Nat) : State :=
    tally s { part := partOfCore core, code := code, tids := [tidOf s (streamCtx s handle)], master := some 3, core := some (core % 32) }
  match w with
  | .element core seq _ _ => ev core ((heldCmd s core 4 seq).map Held.handle |>.getD 0)
  | .sync core ctx _ | .signal core ctx _ => ev core (thread s core ctx).handle
  | .haul core _ => ev core 0
  | _ => s

/-- A request ends without an answer (R454); `detail` is 1 at its limit, 2 on NakPath. -/
def endRequest (s0 : State) (r : Request) (detail : Nat) : State :=
  let s := closeRequest s0 r.packet.tag
  let unsure := r.mayBeApplied && r.packet.once
  let s1 := if unsure then raise (addSatF (noteRequest s r.purpose 0x33) F.NFAB_XO_indeterminate 0 1) (F.NFAB_CTRL_comb_rd.page) 3 else s
  match r.purpose with
  | .line core unit seq _ _ =>
    if unit = 0 ∧ 64 ≤ seq then
      updFabric s1 (fun f => { f with inbox := f.inbox ++ [(readerKey core 0 seq, r.packet.addr, [], false)] })
    else if unit = 0 then threadFault s1 core seq 2 (thread s1 core seq).pc 0x000A 2 (corePage core) 0 (thread s1 core seq).pc
    else fabricFails s1 core unit seq detail
  | .write core unit _ seq => fabricFails s1 core unit seq detail
  | .descriptor core id => endDescriptor s1 core id errFabric 0
  | .element core seq index _ => finishElement s1 core 4 seq index (if unsure then 13 else 12) 0
  | .sync core ctx tag => answerThread (closeSame s1 r.purpose) core ctx tag (if unsure then stIndeterminate else stUnreachable) 0
  | .signal core ctx pc => signalRecord s1 core ctx pc
  | .haul core _ => answerHaul s1 core r.packet.tag (if unsure then stIndeterminate else stUnreachable)
  | .nobody => fabricRecord s1 0xFFFF detail
  | .host agent tag =>
    if r.packet.ptype = ptSyncOp then answerQueue (closeSame s1 r.purpose) agent tag (if unsure then stIndeterminate else stUnreachable)
    else fabricRecord (emit s1 (.grant agent tag 0 (if r.reads then zeroBytes 64 else []) r.reads)) agent detail
  | .combined => s1

/-! ### Data and Cmp (R374, R392, R445) -/

/-- A line, or a refusal, reaches the one that asked for it. -/
def lineArrives (s0 : State) (r : Request) (p : Packet) : State :=
  let s := closeRequest s0 r.packet.tag
  let bad := bit p.word3 1 && p.ptype == ptData
  match r.purpose with
  | .line core unit seq context proxy =>
    let refused := decide (p.status ≠ 0) || p.payload.isEmpty
    let key := r.packet.addr
    let stale := s.fabric.invFirst.contains key
    let part := proxyPart key
    let s1 := updFabric s (fun f => { f with
      inbox := f.inbox ++ [(readerKey core unit seq, key, (if refused then [] else p.payload.take 64), bad)]
      invFirst := f.invFirst.filter (fun a => a != key)
      proxies := if proxy && bit p.word3 0 && !refused && !bad && !stale && partUp s part then
          f.proxies.filter (fun q => !(q.1 == key && q.2.2.1 == context)) ++ [(key, part, context, p.payload.take 64)]
        else f.proxies })
    s1
  | .write core unit _ seq =>
    if p.status = 0 then s
    else match heldCmd s core unit seq with
      | some h => if h.error = 0 then failCommand s core unit h errXlate xlAccess 0 .wr else s
      | none => fabricRecord s p.src 1
  | .host agent tag =>
    if p.status = 0 then emit s (.grant agent tag (b2n (bit p.word3 0)) (p.payload.take 64) bad)
    else hostAccessError s agent tag 9 r.reads
  | _ => s

/-! ### Results of exactly-once requests (R131, R453, R454) -/

/-- NO_ROOM or BUSY_RETRY: the request may be repeated after 2 µs. -/
def repeatLater (s : State) (r : Request) : State :=
  updFabric s (fun f => { f with requests := f.requests.map (fun q =>
    if q.packet.tag = r.packet.tag then { q with again := true, againAt := s.now + 4000, refused := q.refused + 1 } else q) })

/-- NO_ROOM is counted. -/
def noRoom (s : State) (r : Request) : State := repeatLater (addSatF s F.NFAB_XO_no_room 0 1) r

/-- The final status of an element of a FATOM or FTRIG. -/
def elementArrives (s : State) (r : Request) (p : Packet) : State :=
  if p.status = 5 then noRoom s r
  else match r.purpose with
    | .element core seq index _ =>
      finishElement (closeRequest s r.packet.tag) core 4 seq index p.status (leValue (p.payload.take 32))
    | _ => s

/-- The home has queued a wait: its grant is awaited without limit. -/
def parkRequest (s : State) (r : Request) : State :=
  updFabric s (fun f => { f with requests := f.requests.map (fun q =>
    if q.packet.tag = r.packet.tag then { q with parked := true, again := false } else q) })

/-- A synchronisation result. -/
def syncArrives (s : State) (r : Request) (p : Packet) : State :=
  let st := p.word3 % 256
  let word := bits (p.unit 2) 0 64
  if p.status = 5 then noRoom s r
  else if st = stQueued then parkRequest s r
  else match r.purpose with
    | .sync core ctx tag => answerThread (if st = stBusyRetry then closeRequest s r.packet.tag else closeSame s r.purpose) core ctx tag st word
    | .signal core ctx pc =>
      if st = stBusyRetry then repeatLater s r
      else
        let s1 := closeRequest s r.packet.tag
        if st = stOk then s1 else if word % 4 = 2 then badSignal s1 core ctx pc else signalRecord s1 core ctx pc
    | .haul core _ => answerHaul (closeRequest s r.packet.tag) core r.packet.tag st
    | .host agent tag => if st = stBusyRetry then repeatLater s r else answerQueue (closeSame s r.purpose) agent tag st
    | _ => if st = stBusyRetry then repeatLater s r else closeRequest s r.packet.tag

/-! ### Combined requests (R459, R461) -/

/-- What an answer does at a request that is not a combined one. -/
def serveRequest (s : State) (r : Request) (p : Packet) : State :=
  if p.ptype = ptData ∨ p.ptype = ptCmp then lineArrives s r p
  else if p.ptype = ptSyncRes then syncArrives s r p
  else elementArrives s r p

/-- A member of a combined request is answered: a request of this hub, or a packet that another hub waits for. -/
def answerMember (s : State) (m : Packet) (p : Packet) : State :=
  if m.src = hubId s then
    match findRequest s m.tag with
    | some r => serveRequest s r { p with tag := m.tag }
    | none => s
  else match hubOfAgent s m.src with
    | some h => if h = hubId s then s else send s { p with dst := h, tag := m.tag, hops := 0 }
    | none => s

/-- A member is sent again alone (R461). -/
def sendAlone (s : State) (m : Packet) : State := route s { m with nocomb := true }

/-- The answer of a combined request is split to its members. -/
def splitAnswer (s0 : State) (r : Request) (p : Packet) : State :=
  let s := closeRequest s0 r.packet.tag
  let q := { p with src := hubId s, stamp := stampNow s, sepoch := epochOf s 15, spart := 15 }
  if p.ptype = ptAtomRes ∧ p.status = 4 then
    r.members.foldl (fun a m => sendAlone a m.1) (raise (addSatF s F.NFAB_XO_split 0 1) F.NFAB_CTRL_comb_rd.page 7)
  else if p.ptype = ptAtomRes ∧ bit r.packet.word3 7 = true ∧ p.status = 0 then
    let v := leValue (p.payload.take 32)
    r.members.foldl (fun a m => answerMember a m.1 { q with
      payload := leBytes 32 (combineVal (bits r.packet.word3 0 4) (bits r.packet.word3 4 3) v m.2) }) s
  else r.members.foldl (fun a m => answerMember a m.1 q) s

/-- An answer arrives for the open request that its tag names (R458). -/
def answerArrives (s : State) (p : Packet) : State :=
  match findRequest s p.tag with
  | none => s
  | some r =>
    if r.packet.dst ≠ p.src then s
    else if r.purpose = .combined then splitAnswer s r p
    else serveRequest s r p

/-! ### Resends and limits (R454) -/

/-- A request that is sent once only. -/
def Request.single (r : Request) : Bool := r.packet.ptype == ptWrCur || r.packet.ptype == ptPlace

/-- When a request ends: 100 µs for exactly-once requests, 50 µs for the others. -/
def Request.limit (r : Request) : Nat := r.firstSend + (if r.packet.once then 200000 else 100000)

/-- A request is sent again: in its own tag and stamp, with resend and nocomb set. -/
def resend (s : State) (tag : Nat) : State :=
  match findRequest s tag with
  | none => s
  | some r =>
    let due := (r.again && decide (r.againAt ≤ s.now)) || decide (r.lastSend + 40000 ≤ s.now)
    if r.single ∨ r.parked ∨ r.purpose = .combined ∨ !due ∨ r.limit ≤ s.now then s
    else
      let p := { r.packet with resend := true, nocomb := true, sepoch := epochOf s r.packet.spart }
      let s1 := updFabric s (fun f => { f with requests := f.requests.map (fun q =>
        if q.packet.tag = tag then { q with packet := p, lastSend := s.now, sends := q.sends + 1, again := false } else q) })
      send (if p.once then addSatF (noteRequest s1 r.purpose 0x32) F.NFAB_XO_resends 0 1 else s1) p

/-- A request has reached its limit. -/
def requestTimeout (s : State) (tag : Nat) : State :=
  match findRequest s tag with
  | none => s
  | some r =>
    if r.parked ∨ (s.now < r.limit ∧ !(r.single && r.again)) then s else endRequest s r (if r.single && r.again then 2 else 1)

/-- NakPath: a request sent once only ends; another may be repeated at once. -/
def nakPath (s : State) (p : Packet) : State :=
  match findRequest s p.tag with
  | none => s
  | some r =>
    if r.packet.ptype ≠ p.word3 % 64 then s
    else if r.purpose = .combined then
      r.members.foldl (fun a m => sendAlone a m.1) (closeRequest s p.tag)
    else if r.single then endRequest s r 2
    else updFabric s (fun f => { f with requests := f.requests.map (fun q =>
      if q.packet.tag = p.tag then { q with again := true, againAt := s.now, refused := q.refused + 1 } else q) })

/-! ### The commands -/

def execData (packet : Packet) (s : State) : Host.Outcome State Fault Refusal :=
  .next (settle (delivered s packet ptData (fun s => answerArrives s packet)))

def execCmp (packet : Packet) (s : State) : Host.Outcome State Fault Refusal :=
  .next (settle (delivered s packet ptCmp (fun s => answerArrives s packet)))

def execAtomres (packet : Packet) (s : State) : Host.Outcome State Fault Refusal :=
  .next (settle (delivered s packet ptAtomRes (fun s => answerArrives s packet)))

def execSyncres (packet : Packet) (s : State) : Host.Outcome State Fault Refusal :=
  .next (settle (delivered s packet ptSyncRes (fun s => answerArrives s packet)))

def execTrigres (packet : Packet) (s : State) : Host.Outcome State Fault Refusal :=
  .next (settle (delivered s packet ptTrigRes (fun s => answerArrives s packet)))

def execNakpath (packet : Packet) (s : State) : Host.Outcome State Fault Refusal :=
  .next (settle (delivered s packet ptNakPath (fun s => nakPath s packet)))

def execRequestResend (tag : Nat) (s : State) : Host.Outcome State Fault Refusal := .next (settle (resend s tag))

def execRequestTimeout (tag : Nat) (s : State) : Host.Outcome State Fault Refusal := .next (settle (requestTimeout s tag))

/-! ### The switch: PACKET_ROUTE, Fence and Echo (R440 to R443) -/

/-- A packet in the switch is routed: one that came from a port counts a hop, one of a unit of this hub is sent, one for this
hub waits for its unit. -/
def packetRoute (s : State) (entry : Nat) (p : Packet) : State :=
  if p.dst = hubId s then s
  else if entry < 48 then
    transit (match takeFirst (fun e => e.1 == entry && decide (e.2.2 = p)) s.fabric.incoming with
      | some (_, rest) => updFabric s (fun f => { f with incoming := rest })
      | none => s) p
  else send s p

def execPacketRoute (entry : Nat) (packet : Packet) (s : State) : Host.Outcome State Fault Refusal :=
  .next (settle (packetRoute s entry packet))

/-- A Fence is answered with an Echo of its class, in its tag. -/
def fenceArrives (s : State) (p : Packet) : State :=
  if p.src < 1024 then send s (mkPacket s ptEcho p.src p.tag 0 (p.word3 % 8) 15 []) else s

def execFence (packet : Packet) (s : State) : Host.Outcome State Fault Refusal :=
  .next (settle (delivered s packet ptFence (fun s => fenceArrives s packet)))

/-- An Echo frees the flow that its Fence holds. -/
def execEcho (packet : Packet) (s : State) : Host.Outcome State Fault Refusal :=
  .next (settle (delivered s packet ptEcho (fun s => freeFlows s packet.tag)))

/-! ### Reconciles (R462 to R464) -/

/-- A Reconcile names the asker's port and this hub's; the answer is that port's release record. -/
def reconcileArrives (s : State) (p : Packet) : State :=
  let n := bits p.word3 6 6
  let word := match (port s n).release with | some (v, _) => v % 4096 + 2 ^ 12 | none => 0
  if p.src < 1024 then send s (mkPacket s ptReconAns p.src p.tag 0 word 15 []) else s

def execReconcile (packet : Packet) (s : State) : Host.Outcome State Fault Refusal :=
  .next (settle (delivered s packet ptReconcile (fun s => reconcileArrives s packet)))

/-- A flit lies in a group up to a released seal. -/
def releasedBy (v seq : Nat) : Bool := decide (seq < 4096) && decide ((v + 4096 - seq) % 4096 < 2048)

/-- A ReconAns settles a port's reconcile: what was released is discarded, the rest goes first on its flow's next path. -/
def reconAnswered (s : State) (p : Packet) : State :=
  let n := p.tag
  let q := port s n
  if q.reconciling.isNone ∨ q.partnerHub ≠ p.src then s
  else if !bit p.word3 12 then reconFail s n
  else
    let left := q.handed.filter (fun e => !releasedBy (p.word3 % 4096) e.1)
    let s1 := updPort (addSatF s F.NFAB_RECON_settled (sliceOf n) 1) n (fun y => { y with handed := [], reconciling := none })
    let hit := s1.fabric.flows.filter (fun g => g.fenced == some (reconMark n))
    let s2 := updFabric s1 (fun f => { f with flows := f.flows.filter (fun g => g.fenced != some (reconMark n)) })
    (hit.flatMap Flow.held).foldl route ((left.map Prod.snd).foldl route s2)

def execReconans (packet : Packet) (s : State) : Host.Outcome State Fault Refusal :=
  .next (settle (delivered s packet ptReconAns (fun s => reconAnswered s packet)))

/-- No ReconAns within rec_us. -/
def reconTimeout (s : State) (n : Nat) : State :=
  match (port s n).reconciling with
  | some t => if t + 2000 * getF s F.NFAB_CFG_rec_us (sliceOf n) ≤ s.now then reconFail s n else s
  | none => s

def execReconcileTimeout (port : Nat) (s : State) : Host.Outcome State Fault Refusal := .next (settle (reconTimeout s port))

/-! ### Result caches (R455) -/

/-- A stored result of a requester of another hub is released 400 µs after it was entered, unless it answers a wait that is
still queued. -/
def resultExpires (s : State) (part agent tag : Nat) : State :=
  let l := resultsOf s part
  let old (r : Stored) : Bool := r.agent == agent && r.tag == tag && decide (r.entered + 800000 ≤ s.now) &&
    !(r.packet.ptype == ptSyncRes && r.packet.word3 % 256 == stQueued)
  if l.any old then updFabric s (fun f => { f with results := Tab.setC [] f.results part (l.filter (fun r => !old r)) }) else s

def execResultCacheExpire (part : Nat) (agent : Nat) (tag : Nat) (s : State) : Host.Outcome State Fault Refusal :=
  .next (settle (resultExpires s part agent tag))

end Sys2Proof.Machine
end

