-- ==== Sys2Proof/Machine/Loss.lean ====
section
/-! DEFINITION. Losses and epoch notices (R361, R371, R404, R523 to R527, R545): what a hub does when a hub, a host link or an old
epoch is gone. -/

namespace Sys2Proof.Machine

/-! ### At the Seam (R403, R404) -/

/-- An agent that a transaction awaits will not answer: a Shared holding is dropped, a Modified line of a host is poisoned, and
the transaction awaits it no longer. -/
def agentGone (s : State) (line a : Nat) : State :=
  let s1 := dropHolder s line a true
  let s2 := updTxn s1 line (fun t => { t with awaits := t.awaits.filter (fun w => w.agent != a) })
  match txnOf s2 line with
  | some t => if t.awaits.isEmpty then closeTxn s2 line else s2
  | none => s2

/-- The lines whose transactions await an agent. -/
def awaiting (s : State) (p : Nat → Bool) : List (Nat × Nat) :=
  s.seam.flatMap (fun d => d.txns.flatMap (fun t => (t.awaits.filter (fun w => p w.agent)).map (fun w => (t.req.line, w.agent))))

/-- The Seam learns that an agent is lost: what waits for it is answered as its timeout would, and it receives a mark. -/
def seamLoses (s : State) (a : Nat) : State :=
  let s1 := (awaiting s (fun x => x == a)).foldl (fun b e => agentGone b e.1 e.2) s
  markAgent (markAgent s1 0 a .lost) 1 a .lost

/-- Forwards through a lost hub end with it (Table 11.9). -/
def forwardsLose (s : State) (h : Nat) : State :=
  (awaiting s (fun x => decide (1024 ≤ x) && decide (hubOfAgent s x = some h))).foldl (fun b e => agentGone b e.1 e.2)
    (updFabric s (fun f => { f with forwards := f.forwards.filter (fun w => w.home != h) }))

/-! ### Leases (R361) -/

/-- The leases of a lost agent end: the pages of read-write ones are poisoned, with a record. -/
def endLeases (s : State) (a : Nat) : State :=
  let ls := ((s.seam.flatMap SeamDie.leases).filter (fun l => l.agent == a)).eraseDups
  let s1 := { s with seam := s.seam.map (fun d => { d with leases := d.leases.filter (fun l => l.agent != a) })
                     regions := { s.regions with leaseReqs := s.regions.leaseReqs.filter (fun r => r.lease.agent != a) } }
  ls.foldl (fun b l =>
    if l.ro then b
    else fault (poisonLines b (linesOf l.page l.size))
      { cls := 2, cause := 0x0014, page := F.SEAM_CTRL_sweep_rate.page, actions := 16, detail := 3, agent := a, pa := localPa b l.page }) s1

/-! ### Jobs (R545) -/

/-- A Loss of a hub aborts every unpublished run of each job whose hub set contains it. -/
def abortJobsOf (s : State) (h : Nat) : State :=
  let hit := s.tick.streams.filter (fun e => e.2.budget.multiHub && (jobHubs s e.2.budget.job).contains h && e.2.ended.any StreamRun.abortable)
  let jobs := (hit.map (fun e => e.2.budget.job)).eraseDups
  let s1 := jobs.foldl (fun a j => fault a { cls := 2, cause := 0x001E, page := F.TICK_CTRL_role.page, actions := 1, detail := 4, agent := h, job := j }) s
  hit.foldl (fun a e => abortWhere a e.1 (fun _ => true)) s1

/-- Every multi-hub run of this hub is aborted (R527). -/
def abortMultiHub (s : State) : State :=
  s.tick.streams.foldl (fun a e => if e.2.budget.multiHub then abortWhere a e.1 (fun _ => true) else a) s

/-! ### A Loss in force (R404, R527) -/

/-- This hub learns that it was declared lost: it leaves its jobs and waits for a JOIN under its own ID (R527, R642). -/
def declaredLost (s : State) : State :=
  if s.startup.phase = .joined then
    abortMultiHub { s with startup := { s.startup with phase := .rejoin } }
  else s

/-- A host agent is lost. -/
def hostLost (s : State) (a : Nat) : State :=
  if (fenceOf s 0 a).mark = .lost ∧ (fenceOf s 1 a).mark = .lost then s
  else scanLocks (fun w => decide (w = .host a)) (seamLoses (endLeases s a) a)

/-- A hub is lost. -/
def hubGone (s : State) (h : Nat) : State :=
  if s.fabric.lostHubs.contains h then s
  else
    let s1 := { updFabric s (fun f => { f with lostHubs := f.lostHubs ++ [h] }) with
      eloan := { s.eloan with windows := s.eloan.windows.filter (fun w => w.hub != h) } }
    scanLocks (threadsOf h 15) (forwardsLose (seamLoses (abortJobsOf s1 h) h) h)

/-- A Loss is in force. -/
def lossInForce (s : State) (a : Nat) : State :=
  if a = hubId s then declaredLost s else if a < 1024 then hubGone s a else hostLost s a

/-- A copy that names a hub set goes on to the other hubs of the set; whether this hub is in it (R468). -/
def passOn (s : State) (p : Packet) : State × Bool :=
  let hubs := setHubs (p.payload.drop 16)
  (spread s p 3 hubs, hubs.contains (hubId s))

/-- The agent that a Loss names. -/
def lossAgent (p : Packet) : Nat := p.unit 2 % 2 ^ 12

/-- LOSS: the copy spreads and takes effect here. -/
def lossArrives (s : State) (p : Packet) : State :=
  if lossAgent p = p.src then s
  else
    let r := passOn s p
    if r.2 then lossInForce r.1 (lossAgent p) else r.1

def execLoss (packet : Packet) (s : State) : Host.Outcome State Fault Refusal :=
  .next (settle (delivered s packet ptLoss (fun s => lossArrives s packet)))

/-! ### Epoch notices (R525 to R527, R635) -/

/-- The recorded epoch of a hub's partition, or of the hub for 15. -/
def recorded (s : State) (hub part : Nat) : Option Nat := Tab.find? s.fabric.epochs (epochKey hub part)

/-- A notice is older than what is recorded. -/
def noticeOld (s : State) (p : Packet) : Bool :=
  match recorded s p.src p.spart with
  | some e => olderEpoch p.sepoch e
  | none => false

/-- A notice in force: epochs, locks, waits, held lists, marks, and for a hub the table-set slots it held (R128, R526). -/
def noticeInForce (s : State) (p : Packet) : State :=
  let s1 := raise (updFabric s (fun f => { f with epochs := Tab.insert f.epochs (epochKey p.src p.spart) p.sepoch })) rasPage 8
  let s2 := dropHeldLocks (resetWaits (scanLocks (threadsOf p.src p.spart) s1) p.src p.spart) p.src p.spart
  let gone (r : Request) : Bool := r.packet.ptype == ptSyncOp && r.parked && objHub (r.packet.word3 % 2 ^ 27) == p.src &&
    (p.spart == 15 || objPart (r.packet.word3 % 2 ^ 27) == p.spart)
  let s3 := updFabric s2 (fun f => { f with requests := f.requests.filter (fun r => !gone r) })
  let s4 := markAgent (markAgent s3 0 p.src .rejoin) 1 p.src .rejoin
  if p.spart = 15 then
    updFabric s4 (fun f => { f with
      lostHubs := f.lostHubs.filter (fun h => h != p.src)
      recvs := (f.recvs.filter (fun x => !(x.peer == p.src && x.reader.isNone))).map (fun x =>
        if x.peer = p.src then { x with slots := 0 } else x) })
  else s4

/-- EPOCH_NOTICE: a Loss that names its own sender. A lost hub is heard only by a newer epoch of its own. -/
def epochNotice (s0 : State) (p : Packet) : State :=
  let s := takeIn s0 p
  if !p.ok ∨ p.ptype ≠ ptLoss then (admitPacket s p ptLoss).2
  else if lossAgent p ≠ p.src ∨ 1024 ≤ p.src ∨ p.src = hubId s then s
  else
    let newer : Bool := match recorded s p.src 15 with | some e => olderEpoch e p.sepoch | none => true
    if s.fabric.lostHubs.contains p.src && !(p.spart == 15 && newer) then s
    else
      let r := passOn s p
      if r.2 && !noticeOld r.1 p then noticeInForce r.1 p else r.1

def execEpochNotice (packet : Packet) (s : State) : Host.Outcome State Fault Refusal := .next (settle (epochNotice s packet))

/-! ### Declaring a hub lost (R523) -/

/-- A hub's loss may be declared: all links to it down, another in ACTIVE, nothing heard for 4 µs, a reconcile failed. -/
def mayDeclare (s : State) (h : Nat) : Bool :=
  let links := s.ports.filter (fun e => e.2.partnerHub == h && (e.2.cause != 0 || e.2.inSession))
  !links.isEmpty && links.all (fun e => !e.2.inSession) && s.ports.any (fun e => decide (e.2.state = .active)) &&
    decide (Tab.getC 0 s.fabric.heard h + 8000 ≤ s.now) && s.fabric.unreconciled.contains h && !s.fabric.lostHubs.contains h

/-- HUB_LOST. -/
def hubLost (s : State) (h : Nat) : State :=
  if 1024 ≤ h ∨ h = hubId s ∨ !mayDeclare s h then s
  else
    let s1 := raise (fault s { cls := 2, cause := 0x001F, page := rasPage, agent := h }) rasPage 7
    hubGone (sendLoss s1 h 15) h

def execHubLost (hub : Nat) (s : State) : Host.Outcome State Fault Refusal := .next (settle (hubLost s hub))

/-! ### Loss of a host link (R371, Table 10.8) -/

/-- The HPORT page of a link's port, and the bits of its link in INT_RAW. -/
def hportPage (l : Nat) : Nat := F.HPORT_CFG_split.page + l / 2

/-- The queues that a link's functions are. -/
def queuesOf (s : State) (l : Nat) : List Nat :=
  range (64 * l) (if l % 2 = 0 ∧ !portSplit s (l / 2) then 128 else 64)

/-- The HPORT_Q page of a queue. -/
def queuePage (q : Nat) : Nat := F.HPORT_Q_BIND_context.page + q

/-- A TDI enters ERROR (R369): its queue stops, and its commands in flight complete with ABORTED. -/
def tdiError (s : State) (q : Nat) : State :=
  raise (updQueue (dropQueueWork s q) q (fun y => { endCommands y s.now 9 with tdisp := .error })) (queuePage q) 0

/-- The queues of a link that is lost: no completion is written; each TDI enters ERROR. -/
def queuesLost (s : State) (l : Nat) : State :=
  (queuesOf s l).foldl (fun a q =>
    let x := Tab.getC HostQueue.empty a.queues q
    if x = HostQueue.empty then a
    else
      let b := updQueue (dropQueueWork a q) q (fun y => { y with cmds := [] })
      if x.tdisp = .unlocked then b else tdiError b q) s

/-- A link is down: what it held ends, and a loss notice for its agent leaves. `state` is what HPORT_LINK_STATUS shows. -/
def hostLinkLost (s : State) (l : Nat) : State :=
  if getL s F.HPORT_LINK_STATUS_state l ≠ 2 ∧ (Tab.getC HostLink.down s.hosts l).outOfL0.isNone then s
  else
    let a := getL s F.HPORT_LINK_AGENT_agent l
    let had := getL s F.HPORT_LINK_AGENT_valid l == 1
    let s1 := setL (setL (setL s F.HPORT_LINK_STATUS_state l 3) F.HPORT_LINK_STATUS_mem l 0) F.HPORT_LINK_STATUS_ide l 0
    let s2 := raise (setL s1 F.HPORT_LINK_AGENT_valid l 0) (hportPage l) (1 + 2 * (l % 2))
    let s3 := queuesLost s2 l
    let s4 := { s3 with
      hosts := Tab.erase s3.hosts l
      coherent := s3.coherent.filter (fun r => match r.who with | .agent x _ => !(had && x == a) | _ => true)
      eloan := { s3.eloan with linkTid := Tab.erase s3.eloan.linkTid l, linkKey := Tab.erase (Tab.erase s3.eloan.linkKey (2 * l)) (2 * l + 1) } }
    let s5 := fault s4 { cls := 2, cause := 0x0014, page := hportPage l, detail := 1, agent := if had then a else 0xFFFF }
    if had then hostLost (sendLoss s5 a 15) a else s5

end Sys2Proof.Machine
end

