-- ==== Sys2Proof/Machine/HostLinks.lean ====
section
/-! DEFINITION. Host links and line mode (R339 to R349, R370 to R372): links that come up and are lost, the host map and its
cache, and what a line-mode request meets before it reaches its line's queue. -/

namespace Sys2Proof.Machine

/-! ### Links (R339, R340, R370 to R372) -/

/-- Change a host link. -/
def updHost (s : State) (l : Nat) (f : HostLink → HostLink) : State :=
  { s with hosts := Tab.upd HostLink.down s.hosts l f }

/-- A link is down, training or lost: no session runs on it. -/
def linkIdle (s : State) (l : Nat) : Bool := getL s F.HPORT_LINK_STATUS_state l != 2 && !linkOut s l

/-- Training from detect takes up HPORT_CFG.split when no link of the port is in a session (R339). -/
def takeSplit (s : State) (q : Nat) : State :=
  if linkIdle s (2 * q) && linkIdle s (2 * q + 1) then
    { s with splits := Tab.setC 0 s.splits q (getF s F.HPORT_CFG_split q) }
  else s

/-- A queue as a reset of it leaves it: nothing in flight, not enabled (Table 10.4). -/
def HostQueue.cleared (y : HostQueue) : HostQueue :=
  { y with enable := false, head := 0, tail := 0, cqHead := 0, cqTail := 0, phase := true, cmds := [] }

/-- The queues of a link that comes up anew: reset, their TDIs CONFIG_UNLOCKED (R372). -/
def queuesFresh (s : State) (l : Nat) : State :=
  (queuesOf s l).foldl (fun a q =>
    if Tab.getC HostQueue.empty a.queues q = HostQueue.empty then a
    else updQueue a q (fun y => { HostQueue.empty with runningOn := y.runningOn, core := y.core, bound := y.bound })) s

/-- A link trains: a partner without FLIT mode leaves it in detect; else it comes up with its width and rate, its CXL.mem with
back-invalidate where the host has enabled it. -/
def hostLinkUp (s0 : State) (l width rate : Nat) (noFlit memBi : Bool) : State :=
  let s := takeSplit s0 (l / 2)
  let most := if portSplit s (l / 2) then 8 else 16
  if !linkExists s l || !linkIdle s l || !([1, 2, 4, 8, 16] : List Nat).contains width || decide (most < width) || decide (3 < rate) then s0
  else if noFlit then setL (setL s F.HPORT_LINK_STATUS_no_flit l 1) F.HPORT_LINK_STATUS_state l 0
  else
    let s1 := setL (setL (setL (setL s F.HPORT_LINK_STATUS_state l 2) F.HPORT_LINK_STATUS_width l width) F.HPORT_LINK_STATUS_rate l rate)
      F.HPORT_LINK_STATUS_no_flit l 0
    let s2 := setL (setL s1 F.HPORT_LINK_STATUS_mem l (b2n (memBi && rate != 0))) F.HPORT_LINK_STATUS_ide l 0
    let s3 := setL s2 F.HPORT_LINK_STATUS_ups l (getL s2 F.HPORT_LINK_STATUS_ups l + 1)
    raise (queuesFresh { s3 with hosts := Tab.erase s3.hosts l } l) (hportPage l) (2 * (l % 2))

def execHostLinkUp (link : Nat) (width : Nat) (rate : Nat) (noFlit : Bool) (memBi : Bool) (s : State) : Host.Outcome State Fault Refusal :=
  .next (settle (hostLinkUp s link width rate noFlit memBi))

/-- A link leaves L0: the count of loss_us starts (R370). -/
def linkLeavesL0 (s : State) (l : Nat) : State :=
  if getL s F.HPORT_LINK_STATUS_state l ≠ 2 ∨ linkOut s l then s else updHost s l (fun x => { x with outOfL0 := some s.now })

def execHostLinkL0Exit (link : Nat) (s : State) : Host.Outcome State Fault Refusal := .next (settle (linkLeavesL0 s link))

/-- A link regains L0 before the limit: it keeps all of its state (R370). -/
def linkRegainsL0 (s : State) (l : Nat) : State :=
  if linkOut s l then setL (updHost s l (fun x => { x with outOfL0 := none })) F.HPORT_LINK_STATUS_state l 2 else s

def execHostLinkL0Return (link : Nat) (s : State) : Host.Outcome State Fault Refusal := .next (settle (linkRegainsL0 s link))

/-- A link out of L0 for loss_us is lost. -/
def hostLossTimeout (s : State) (l : Nat) : State :=
  match (hostLink s l).outOfL0 with
  | some t => if t + 2000 * getF s F.HPORT_CFG_loss_us (l / 2) ≤ s.now then hostLinkLost s l else s
  | none => s

def execHostLinkLossTimeout (link : Nat) (s : State) : Host.Outcome State Fault Refusal := .next (settle (hostLossTimeout s link))

/-- A link that is in a session is lost; one that trains is down. -/
def cutLink (s : State) (l : Nat) : State :=
  if linkIdle s l then (if getL s F.HPORT_LINK_STATUS_state l = 1 then setL s F.HPORT_LINK_STATUS_state l 0 else s)
  else hostLinkLost s l

/-- Presence is lost on a port: both links are lost at once (R370). -/
def execPresenceLost (port : Nat) (s : State) : Host.Outcome State Fault Refusal :=
  .next (settle (if port < 8 then cutLink (cutLink s (2 * port)) (2 * port + 1) else s))

/-- hport_q_perst_n resets both links of a port (R660). -/
def execPerst (port : Nat) (s : State) : Host.Outcome State Fault Refusal :=
  .next (settle (if port < 8 then cutLink (cutLink s (2 * port)) (2 * port + 1) else s))

/-- An IDE integrity failure ends the link (R341). -/
def ideFailure (s : State) (l : Nat) : State :=
  if linkIdle s l || getL s F.HPORT_LINK_STATUS_ide l != 1 then s else hostLinkLost (raise s (hportPage l) 4) l

def execIdeFailure (link : Nat) (s : State) : Host.Outcome State Fault Refusal := .next (settle (ideFailure s link))

/-- HPORT_CFG.retrain takes both links of a port to detect: a link in a session is out of L0 until its training ends. -/
def retrainLink (s : State) (l : Nat) : State :=
  if !linkExists s l then s
  else if linkIdle s l then setL s F.HPORT_LINK_STATUS_state l 1
  else setL (updHost s l (fun x => { x with outOfL0 := some (x.outOfL0.getD s.now) })) F.HPORT_LINK_STATUS_state l 1

def execHostRetrain (port : Nat) (s : State) : Host.Outcome State Fault Refusal :=
  .next (settle (if port < 8 then takeSplit (retrainLink (retrainLink s (2 * port)) (2 * port + 1)) port else s))

/-! ### The host map (R345, R346) -/

/-- Map entries a host complex caches (R346). -/
def mapCacheMax : Nat := 4096

/-- An entry of a link's host map, and the state that has cached it: none where the table cannot be read. -/
def mapEntry (s : State) (l i : Nat) : Option Nat × State :=
  match (hostLink s l).mapCache.find? (fun e => e.1 == i) with
  | some e => (some e.2, s)
  | none =>
    match hubRead s (getL s F.HPORT_LINK_MAP_addr l * 4096 + 8 * i) 8 with
    | none => (none, s)
    | some bs =>
      (some (leValue bs), updHost s l (fun x => { x with mapCache := (x.mapCache ++ [(i, leValue bs)]).drop (x.mapCache.length + 1 - mapCacheMax) }))

/-- The tags of a link's line-mode requests that have not been performed. -/
def openTags (s : State) (a : Nat) : List Nat :=
  ((s.coherent ++ s.seam.flatMap (fun d => d.waiting ++ d.txns.map SeamTxn.req)).filterMap (fun r => match r.who with
    | .agent x t => if x = a then some t else none
    | _ => none)) ++
  s.fabric.requests.filterMap (fun r => match r.purpose with
    | .host x t => if x = a then some t else none
    | _ => none)

/-- The agent of a link. -/
def linkAgent (s : State) (l : Nat) : Nat := getL s F.HPORT_LINK_AGENT_agent l

/-- HPORT_LINK_MAPINV.go removes every cached entry of a link. -/
def mapInvalidate (s : State) (l : Nat) : State :=
  if !linkExists s l || (hostLink s l).invalidating.isSome then s
  else setL (updHost s l (fun x => { x with mapCache := [], invalidating := some (openTags s (linkAgent s l)) })) F.HPORT_LINK_MAPINV_go l 1

def execMapInvalidate (link : Nat) (s : State) : Host.Outcome State Fault Refusal := .next (settle (mapInvalidate s link))

/-- The invalidation completes once the requests translated with a removed entry have been performed. -/
def mapinvDone (s : State) (l : Nat) : State :=
  match (hostLink s l).invalidating with
  | none => s
  | some ts =>
    if (openTags s (linkAgent s l)).any ts.contains then s
    else raise (setL (updHost s l (fun x => { x with invalidating := none })) F.HPORT_LINK_MAPINV_go l 0) (hportPage l) 6

def execMapinvDone (link : Nat) (s : State) : Host.Outcome State Fault Refusal := .next (settle (mapinvDone s link))

/-! ### Refusals (R347, R348) -/

/-- Why the home refuses a line-mode request of an agent, of the causes of HPORT_LINK_ERR: no region, access mode, share group,
tenant or hub rights, a lease. -/
def homeCause (s : State) (a : Nat) (who : MemWho) (write : Bool) (off : Nat) : Option Nat :=
  let k : Kindm := if write then .wr else .rd
  match homePart s off, regionOf s off with
  | some h, some r =>
    let e := regionEntry s r
    if !rgnValid e then some 3
    else if rgnAmode e % 2 = 0 ∧ 1024 ≤ a then some 4
    else if 1024 ≤ a ∧ !inGroup s (rgnGroup e) a then some 5
    else if !rightsOk s who k off || faceRefuses s who k off || (write && (decide (roadTo s h off = .lost) || slotSealed s off)) then some 9
    else match leaseInForce s off with
      | some l => if !l.ro then some 6 else if write then some 7 else none
      | none => none
  | _, _ => some 3

/-- The kind of a CXL.mem request (Table 11.4); none for a MemInv with MetaValue S, which changes nothing, and for the forms
that are refused. -/
def cxlKind (op : CxlOp) : Option SeamKind :=
  match op with
  | .memRd m => some (if m = 2 then .rdM else if m = 3 then .rdS else .rdCur)
  | .memInv m => if m = 2 then some .invM else if m = 3 then none else some .evict
  | .memWr m => some (.wrBk (m == 3))
  | .memClnEvct => some .evict
  | .other => none

/-- A request's bytes go to or come from memory. -/
def cxlMoves : CxlOp → Bool
  | .memRd _ | .memWr _ => true
  | _ => false

/-- A request changes memory. -/
def cxlWrites : CxlOp → Bool
  | .memWr _ => true
  | _ => false

/-- A request is answered with a line. -/
def cxlReads : CxlOp → Bool
  | .memRd _ | .other => true
  | _ => false

/-! ### Traffic (R349, R595) -/

/-- The stream on whose reservations a link's line-mode traffic draws (R349); 8,192 for none. -/
def linkCarrier (s : State) (l : Nat) : Nat :=
  if getL s F.HPORT_LINK_CARRIER_en l = 1 then getL s F.HPORT_LINK_CARRIER_handle l else 8192

/-- One line access of a host or another hub at its home: events of the line (whether it missed the line cache is open) and the
carrier's reserved bytes. A home cannot see the tenant of another hub's requester (R485). -/
def hostLine (s : State) (tid : Option Nat) (a handle off : Nat) (write : Bool) : State :=
  let b := freeBelow s 2
  match homePart s off with
  | none => s
  | some home =>
    let far := decide (farBase ≤ off)
    let tids := (tid.toList ++ (keyTid s off).toList).eraseDups
    let ev (code n : Nat) : TEvent :=
      { part := home, code := code, n := n, tids := tids, master := some (if tid.isSome then 4 else 5), agent := some a, addr := some (localPa s off) }
    if b.1 = 0 then b.2
    else
      let s1 := tally (tally b.2 (ev 0x14 1)) (ev (if far then (if write then 0x13 else 0x12) else (if write then 0x11 else 0x10)) 64)
      charge s1 handle (useKey 0 home (if far then 2 else 1)) 64

/-- A request's 64 bytes cross a link. -/
def crossLink (s : State) (l : Nat) (write : Bool) : State :=
  charge (bwHost s l (if write then 1 else 0) 64) (linkCarrier s l) (useKey 2 l (if write then 1 else 0)) 64

/-! ### A line-mode request (R347, R348, R392) -/

/-- A request for a line of another hub: the window of the link's tenant, then the request packet. RdM and InvM have no message
between hubs (Table 11.6), and are sent as RdS: the home may grant less than was asked (R395). -/
def remoteLine (s : State) (l : Nat) (k : SeamKind) (op : CxlOp) (pa tag : Nat) (data : List Byte) (mask : Nat) : State :=
  let a := linkAgent s l
  if !windowCovers s (linkTenant s l) (paHub pa) (paOff pa) (if cxlWrites op then .wr else .rd) then hostAccessError s a tag 9 (cxlReads op)
  else
    let t := match k with
      | .rdCur => ptRdCur
      | .wrCur | .wrBk _ => ptWrCur
      | .evict => ptEvictS
      | _ => ptRdS
    (request s (fun x => { mkPacket s t (paHub pa) x pa (if cxlWrites op then mask % 2 ^ 64 else 0) 15
        (if cxlWrites op then data.take 64 else []) with src := a }) (.host a tag)).1

/-- A request that its map entry lets pass, at its physical address. -/
def mappedLine (s : State) (l : Nat) (op : CxlOp) (pa tag : Nat) (data : List Byte) (mask : Nat) (poison : Bool) : State :=
  let a := linkAgent s l
  let go (s : State) : State := if cxlMoves op then crossLink s l (cxlWrites op) else s
  match cxlKind op with
  | none => emit s (.grant a tag 0 [] false)
  | some k =>
    if !isLocal s pa then remoteLine (go s) l k op pa tag data mask
    else match homeCause s a (.tenant (linkTenant s l) false) (cxlWrites op) (paOff pa) with
      | some c => hostAccessError s a tag c (cxlReads op)
      | none =>
        let s1 := go s
        let s2 := if cxlMoves op then hostLine s1 (some (linkTenant s l)) a (linkCarrier s l) (paOff pa) (cxlWrites op) else s1
        { s2 with coherent := s2.coherent ++ [{ SeamReq.plain k (.agent a tag) (paOff pa / 64) with
            data := (data ++ zeroBytes 64).take 64, mask := mask % 2 ^ 64, poison := poison }] }

/-- A link carries CXL.mem requests now. -/
def memCarries (s : State) (l : Nat) : Bool := linkExists s l && linkCarries s l && !linkOut s l

/-- CXL_MEM_REQUEST: the host map turns the device address into a store address, and the request is refused or passed on. -/
def cxlRequest (s : State) (l : Nat) (op : CxlOp) (dpa tag : Nat) (data : List Byte) (mask : Nat) (poison : Bool) : State :=
  let a := linkAgent s l
  if !memCarries s l then s
  else if op = .other then hostAccessError s a tag 9 true
  else if getL s F.HPORT_LINK_STATUS_mem l = 0 then hostAccessError s a tag 8 (cxlReads op)
  else if getL s F.HPORT_LINK_DPA_entries l ≤ dpa / twoMiB then hostAccessError s a tag 1 (cxlReads op)
  else
    let m := mapEntry s l (dpa / twoMiB)
    match m.1 with
    | none => hostAccessError s a tag 1 (cxlReads op)
    | some e =>
      if !bit e 0 then hostAccessError m.2 a tag 1 (cxlReads op)
      else if bit e 1 && cxlWrites op then hostAccessError m.2 a tag 2 (cxlReads op)
      else mappedLine m.2 l op (bits e 21 36 * twoMiB + dpa % twoMiB / 64 * 64) tag data mask poison

def execCxlMemRequest (link : Nat) (op : CxlOp) (dpa : Nat) (tag : Nat) (data : List Byte) (mask : Nat) (poison : Bool) (s : State) :
    Host.Outcome State Fault Refusal := .next (settle (cxlRequest s link op dpa tag data mask poison))

end Sys2Proof.Machine
end

