-- ==== Sys2Proof/Machine/Regions.lean ====
section
/-! DEFINITION. The region table (R350 to R354, R407, R480): SET, FREE, READ and SHG_SYNC, with the recalls that the sweeps of
both seam dies carry out. -/

namespace Sys2Proof.Machine

/-- The HUB_RGN page. -/
def rgnPage : Nat := F.HUB_RGN_RESULT_code.page

/-- A region operation ends with a code: 0 OK, 1 BUSY, 2 BAD_ENTRY; the warm record is written first (R638). -/
def endRegionOp (s : State) (code : Nat) : State :=
  raise (setF (setF (saveWarm s) F.HUB_RGN_RESULT_code 0 code) F.HUB_RGN_RESULT_busy 0 0) rgnPage 0

/-- A region operation is written: one written while another is in progress is lost. -/
def regionOp (s : State) (f : State → State) : State :=
  if getF s F.HUB_RGN_RESULT_busy 0 = 1 then raise (setF s F.HUB_RGN_RESULT_lost 0 1) rgnPage 1 else f s

/-- A region has leases outstanding, or on their way. -/
def hasLeases (s : State) (r : Nat) : Bool :=
  (s.seam.flatMap SeamDie.leases ++ s.regions.leaseReqs.map LeaseReq.lease).any (fun l => decide (regionOf s l.page = some r))

/-- An entry with valid 1 breaks Table 10.3, Table 8.2 or R480. -/
def badEntry (s : State) (e : W64) : Bool :=
  badHint (rgnHint e) (rgnGuard e) || decide (e.toNat / 2 ^ 42 ≠ 0) || rgnKey e == 0 || decide ((keyOf s (rgnKey e)).state = .free)

/-- Write a region entry. -/
def setRegion (s : State) (r : Nat) (e : W64) : State :=
  { s with regions := { s.regions with entries := Tab.setC 0 s.regions.entries r e } }

/-- A recall that both sweeps carry; the operation is in progress until both have passed (R406). -/
def startRecall (s : State) (kind : RecallOf) (index newValue : Nat) (leaving : List Nat) : State :=
  setF (addRecall s kind index newValue leaving) F.HUB_RGN_RESULT_busy 0 1

/-- FREE (R353): an entry without placed frames becomes invalid. -/
def freeRegion (s : State) (r : Nat) : State :=
  if hasFrames s r then endRegionOp s 1
  else
    let e := (regionEntry s r).toNat
    endRegionOp (setRegion s r (BitVec.ofNat 64 (e - e % 2))) 0

/-- SET (R352, R407): the checks, then every field at once; a loss of line or a new share group waits for a recall of the
region's lines. -/
def setRegionOp (s : State) (r : Nat) : State :=
  let e := BitVec.ofNat 64 (getF s F.HUB_RGN_ENTRY_entry 0)
  let old := regionEntry s r
  if !rgnValid e then freeRegion s r
  else if badEntry s e then endRegionOp s 2
  else if hasFrames s r && (rgnKey e != rgnKey old || rgnGuard e != rgnGuard old || rgnHint e != rgnHint old) then endRegionOp s 1
  else if hasLeases s r && decide (rgnAmode old / 2 = 1) && decide (rgnAmode e / 2 = 0) then endRegionOp s 1
  else
    let s1 := setRegion s r e
    if rgnValid old && ((rgnAmode old % 2 == 1 && rgnAmode e % 2 == 0) || rgnGroup e != rgnGroup old) then startRecall s1 .region r 0 []
    else endRegionOp s1 0

def execSet (index : Nat) (s : State) : Host.Outcome State Fault Refusal :=
  .next (settle (if index < 4096 then regionOp s (fun s => setRegionOp s index) else s))

def execFree (index : Nat) (s : State) : Host.Outcome State Fault Refusal :=
  .next (settle (if index < 4096 then regionOp s (fun s => freeRegion s index) else s))

/-- READ: the entry is loaded into HUB_RGN_ENTRY. -/
def execRgnRead (index : Nat) (s : State) : Host.Outcome State Fault Refusal :=
  .next (settle (if index < 4096 then
    regionOp s (fun s => endRegionOp (setF s F.HUB_RGN_ENTRY_entry 0 (regionEntry s index).toNat) 0) else s))

/-! ### Share groups (R354) -/

/-- Set the membership of a group. -/
def setGroup (s : State) (g members : Nat) : State :=
  { s with regions := { s.regions with groups := Tab.setC 0 s.regions.groups g members } }

/-- SHG_SYNC: the group's bitmap is read; the new membership stands once no agent that leaves holds a line of its regions. -/
def shgSync (s : State) (g : Nat) : State :=
  match hubRead s (getF s F.HUB_SHG_BASE_addr 0 * 4096 + 512 * g) 512 with
  | none => endRegionOp s 2
  | some bs =>
    let new := leValue bs
    let old := Tab.getC 0 s.regions.groups g
    let leaving := (List.range 4096).filter (fun a => bit old a && !bit new a)
    let used := s.regions.entries.any (fun e => rgnValid e.2 && rgnGroup e.2 == g)
    if leaving.isEmpty || !used then endRegionOp (setGroup s g new) 0 else startRecall s .group g new leaving

def execShgSync (group : Nat) (s : State) : Host.Outcome State Fault Refusal :=
  .next (settle (if group < 4096 then regionOp s (fun s => shgSync s group) else s))

/-- A recall names a line: a line of its region that a host or hub holds, or a line of its group's regions that a leaving agent
holds. -/
def recallNames (s : State) (rc : Recall) (line : Nat) : Bool :=
  match regionOf s (line * 64) with
  | none => false
  | some r =>
    let e := dirEntry s line
    match rc.kind with
    | .group => rgnGroup (regionEntry s r) == rc.index && (e.overflow || e.holders.any rc.leaving.contains)
    | .region => r == rc.index
    | .key => rgnKey (regionEntry s r) == rc.index

/-- Change a key ID. -/
def updKey (s : State) (k : Nat) (f : KeyId → KeyId) : State :=
  { s with eloan := { s.eloan with keys := Tab.upd KeyId.unused s.eloan.keys k f } }

/-- A key ID enters SCRUB (Table 14.6). -/
def keyScrub (s : State) (k : Nat) : State := elnRaise (updKey s k (fun x => { x with state := .scrub })) 0

/-- Every recall of an operation has ended on both dies: a region operation completes, a group's membership changes; a key ID
in destruction enters SCRUB (R495). -/
def recallEnded (s : State) (rc : Recall) : State :=
  if s.seam.any (fun d => d.recalls.any (fun x => x.kind == rc.kind && x.index == rc.index)) then s
  else match rc.kind with
    | .region => endRegionOp s 0
    | .group => endRegionOp (setGroup s rc.index rc.newValue) 0
    | .key => keyScrub s rc.index

end Sys2Proof.Machine
end

