-- ==== Sys2Proof/Machine/HostQueues.lean ====
section
/-! DEFINITION. Host command queues (R262, R362 to R369): their BAR0 registers, fetching, the eight operations, page leases as
they are taken and returned (R355 to R360), completions, and TDISP. -/

namespace Sys2Proof.Machine

/-! ### A queue and its binding (R362, R363, R369) -/

/-- A queue. -/
def hostQueue (s : State) (q : Nat) : HostQueue := Tab.getC HostQueue.empty s.queues q

/-- The link of a queue. -/
def queueLink (s : State) (q : Nat) : Nat := if q / 64 % 2 = 1 ∧ !portSplit s (q / 128) then q / 64 - 1 else q / 64

/-- The binding of a queue: what a TDI latched, else HPORT_Q_BIND. -/
def bindOf (s : State) (q : Nat) : Nat := (hostQueue s q).latched.getD (rawReg s (queuePage q) 0x100).toNat

/-- The bound address context and the carrier stream, 8,192 for none (R364). -/
def queueContext (s : State) (q : Nat) : Nat := bits (bindOf s q) 0 12
def queueCarrier (s : State) (q : Nat) : Nat := if bit (bindOf s q) 29 then bits (bindOf s q) 16 13 else 8192

/-- A queue takes up its binding: it runs in its bound partition when that is up, on the core the hub chooses. -/
def settleQueue (s : State) (q : Nat) : State :=
  if 1024 ≤ q then s
  else if !bit (bindOf s q) 30 then
    (if (hostQueue s q).bound then updQueue s q (fun y => { y with bound := false }) else s)
  else
    let p := queuePart s (bits (bindOf s q) 12 4)
    if (hostQueue s q).bound ∧ (hostQueue s q).runningOn = p then s
    else updQueue s q (fun y => { y with bound := true, runningOn := p, core := queueCore s p })

/-- A queue's commands may run: its link carries queue traffic, its binding is enabled, it is not stopped. -/
def queueRuns (s : State) (q : Nat) : Bool :=
  decide (q < 1024) && linkCarries s (queueLink s q) && !linkOut s (queueLink s q) && (hostQueue s q).bound &&
    decide ((hostQueue s q).tdisp ≠ .error)

/-- The tenant test of R486 on a queue's commands. -/
def queueTenantOk (s : State) (q : Nat) : Bool :=
  let t := boundTid s (queueContext s q)
  let y := hostQueue s q
  let shut := (match t with | some n => decide (0 < n) | none => false) && debugged s (bits (bindOf s q) 12 4)
  t.isNone || (!shut && (t == some (linkTenant s (queueLink s q)) || (decide (y.tdisp = .run) && y.latched.isSome)))

/-! ### Doorbells and BAR0 (Table 10.4) -/

/-- Writes of a link's agent that have not been performed, which a doorbell of the link waits for (R262). -/
def linkWritesOpen (s : State) (l : Nat) : Bool :=
  let a := linkAgent s l
  let mine (r : SeamReq) : Bool := decide (r.who.agentId = some a) && (match r.kind with | .wrCur | .wrBk _ => true | _ => false)
  (s.coherent ++ s.seam.flatMap (fun d => d.waiting ++ d.txns.map SeamTxn.req)).any mine ||
    s.fabric.requests.any (fun r => r.packet.ptype == ptWrCur && (match r.purpose with | .host x _ => x == a | _ => false))

/-- A write of a queue's host is applied. -/
def hostWrites (s : State) (q : Nat) : Bool :=
  decide (q < 1024) && getL s F.HPORT_LINK_STATUS_state (queueLink s q) == 2 && !linkOut s (queueLink s q) && !linkWritesOpen s (queueLink s q)

/-- SQ_TAIL: entries up to a new tail may be fetched. -/
def sqTail (s : State) (q tail : Nat) : State :=
  if hostWrites s q then updQueue s q (fun y => { y with tail := tail % 4096 % 2 ^ y.sqLog }) else s

def execSqTail (queue : Nat) (tail : Nat) (s : State) : Host.Outcome State Fault Refusal := .next (settle (sqTail s queue tail))

/-- CQ_HEAD: the host has consumed completions. -/
def cqHead (s : State) (q head : Nat) : State :=
  if hostWrites s q then updQueue s q (fun y => { y with cqHead := head % 4096 % 2 ^ y.cqLog }) else s

def execCqHead (queue : Nat) (head : Nat) (s : State) : Host.Outcome State Fault Refusal := .next (settle (cqHead s queue head))

/-- CTRL.reset: the commands in flight are aborted, the queue is empty and not enabled; a stopped TDI leaves ERROR (R369). -/
def queueReset (s0 : State) (q : Nat) : State :=
  if 1024 ≤ q then s0
  else
    let s := dropQueueWork s0 q
    let y := hostQueue s q
    let free := decide (y.tdisp = .error) && y.stopping
    let s1 := updQueue s q (fun y => { y.cleared with
      tdisp := if free then .unlocked else y.tdisp
      latched := if free then none else y.latched
      stopping := false })
    if free then settleQueue s1 q else s1

def execQueueReset (queue : Nat) (s : State) : Host.Outcome State Fault Refusal := .next (settle (queueReset s queue))

/-- A write of a VF's BAR0. -/
def vfWrite (s : State) (q off v : Nat) : State :=
  let y := hostQueue s q
  if !hostWrites s q then s
  else match off with
    | 0x000 => if y.enable then s else updQueue s q (fun y => { y with sqBase := v / 4096 * 4096 })
    | 0x008 => if y.enable then s else updQueue s q (fun y => { y with cqBase := v / 4096 * 4096 })
    | 0x010 => if y.enable then s else updQueue s q (fun y => { y with sqLog := max 4 (min 12 (bits v 0 4)), cqLog := max 4 (min 12 (bits v 4 4)) })
    | 0x018 =>
      if bit v 1 then queueReset s q
      else if bit v 0 && !y.enable then updQueue s q (fun y => { y with enable := true, head := 0, cqTail := 0, phase := true })
      else updQueue s q (fun y => { y with enable := bit v 0 })
    | 0x040 => sqTail s q (bits v 0 12)
    | 0x048 => cqHead s q (bits v 0 12)
    | _ => s

/-- A read of a VF's BAR0. -/
def vfRead (s : State) (q off : Nat) : Nat :=
  let y := hostQueue s q
  let tdi := match y.tdisp with | .unlocked => 0 | .locked => 1 | .run => 2 | .error => 3
  match off with
  | 0x000 => y.sqBase
  | 0x008 => y.cqBase
  | 0x010 => y.sqLog + y.cqLog * 16
  | 0x018 => b2n y.enable
  | 0x020 => b2n (y.bound && y.enable) + 2 * b2n (decide (y.tdisp = .error)) + 4 * tdi
  | _ => 0

/-! ### Fetching (R365, R367) -/

/-- The page size of PAGE_OUT and PAGE_IN. -/
def leaseSize (arg2 : Nat) : Nat := if bit arg2 0 then twoMiB else 4096

/-- The arguments of an operation obey Table 10.6. -/
def argsOk (op a0 a1 a2 : Nat) : Bool :=
  match op with
  | 1 => a0 == 0 && a1 == 0 && a2 == 0
  | 2 | 3 => decide (1 ≤ a2) && decide (a2 ≤ 2 ^ 32)
  | 4 => decide (a2 < 4) && a0 % leaseSize a2 == 0 && a1 % leaseSize a2 == 0
  | 5 => [0, 1, 4, 5].contains a2 && a0 % leaseSize a2 == 0 && a1 % leaseSize a2 == 0
  | 6 => decide (bits a0 28 4 ≤ 2) && !bit a0 27 && decide (a0 < 2 ^ 32) && decide (a1 < 2 ^ 33)
  | 7 | 8 => a1 == 0 && a2 == 0
  | _ => false

/-- A submission entry obeys Tables 10.5 and 10.6. -/
def entryOk (d : List Byte) : Bool :=
  decide (field d 4 1 < 4) && field d 5 3 == 0 && field d 0x20 32 == 0 && argsOk (field d 0 2) (field d 8 8) (field d 0x10 8) (field d 0x18 8)

/-- QUEUE_FETCH: the entry at the head is fetched; one that breaks a table completes with INVALID. -/
def queueFetch (s0 : State) (q : Nat) (d : List Byte) : State :=
  let s := settleQueue s0 q
  let y := hostQueue s q
  if !queueRuns s q || !y.enable || y.head == y.tail || decide (16 ≤ y.cmds.length) || d.length != 64 then s
  else
    let head := (y.head + 1) % 2 ^ y.sqLog
    let bad := !entryOk d
    let c : QueueCmd :=
      { opcode := field d 0 2, cid := field d 2 2, fence := bit (field d 4 1) 0, irq := bit (field d 4 1) 1, arg0 := field d 8 8,
        arg1 := field d 0x10 8, arg2 := field d 0x18 8, headAfter := head, started := bad, waiting := false, since := s.now,
        cancelled := false, complete := if bad then some (1, 0, 0) else none, doneAt := s.now }
    updQueue s q (fun y => { y with head := head, cmds := y.cmds ++ [c] })

def execQueueFetch (queue : Nat) (entry : List Byte) (s : State) : Host.Outcome State Fault Refusal :=
  .next (settle (queueFetch s queue entry))

/-! ### Running a command -/

/-- Replace the first of a list that equals an element. -/
def replaceFirst (c d : QueueCmd) : List QueueCmd → List QueueCmd
  | [] => []
  | x :: t => if x = c then d :: t else x :: replaceFirst c d t

/-- Change a command of a queue. -/
def setCmd (s : State) (q : Nat) (c d : QueueCmd) : State := updQueue s q (fun y => { y with cmds := replaceFirst c d y.cmds })

/-- A command completes: status, translation fault code, result. -/
def finishCmd (s : State) (q : Nat) (c : QueueCmd) (status code result : Nat) : State :=
  setCmd s q c { c with started := true, waiting := false, complete := some (status, code, result), doneAt := s.now }

/-- The next command of a queue to start: commands start in order, one with fence once every earlier one has completed. -/
def nextCmd (y : HostQueue) : Option QueueCmd :=
  match y.cmds.find? (fun c => !c.started) with
  | none => none
  | some c =>
    let before := y.cmds.takeWhile (fun x => x.started)
    if c.fence && before.any (fun x => x.complete.isNone) then none else some c

/-- Start a queue's next command when it is of an operation; a tenant that may not use the queue's context meets ACCESS. -/
def startCmd (s : State) (q op : Nat) (f : State → QueueCmd → State) : State :=
  if !queueRuns s q then s
  else match nextCmd (hostQueue s q) with
    | none => s
    | some c =>
      if c.opcode ≠ op ∨ !partUp s (hostQueue s q).runningOn then s
      else if !queueTenantOk s q then finishCmd s q c 7 0 0
      else f s c

/-- The number under which the hub's machinery knows a queue's command. -/
def queueSeq (q : Nat) (c : QueueCmd) : Nat := 64 + q * 65536 + c.cid

/-- The ME's run of a command. -/
def queueRun (s : State) (q : Nat) (c : QueueCmd) : Run :=
  let cx := queueContext s q
  { base := s, s := s, core := (hostQueue s q).core, unit := 0, ctx := 0, seq := queueSeq q c, context := cx, tid := tidOf s cx,
    use := false, haul := false, stop := .go, flags := 0, cycles := 0, variant := 0, rd := 0, wr := 0, lines := [], misses := 0,
    tlbCore := 0, tlbPart := 0, hostBytes := 0, remote := 0, uses := [], badVa := 0, badKind := .rd }

/-- The events and reservations of a command's accesses (R364). -/
def queueTraffic (r : Run) (handle : Nat) : State :=
  let ev (code qual n : Nat) : TEvent :=
    { part := partOfCore r.core, code := code, qual := qual, n := n, tids := [r.tid], master := some 3, core := some (r.core % 32) }
  let some_ (s : State) (e : TEvent) : State := if e.n = 0 then s else tally s e
  let s1 := r.lines.foldl (fun a l => lineTraffic a r.core 4 handle r.tid l) r.s
  let s2 := r.uses.foldl (fun a u => charge a handle u.1 u.2) s1
  some_ (some_ (some_ (some_ s2 (ev 0x08 0 r.tlbCore)) (ev 0x08 1 r.tlbPart)) (ev 0x34 0 r.hostBytes)) (ev 0x30 0 r.remote)

/-- A run of a command ends: it waits with what it has asked for, completes with its fault, or goes on to its own end. -/
def endQueueRun (q : Nat) (c : QueueCmd) (r : Run) (ok : State → State) : State :=
  let tidy (s : State) : State := dropInbox s r.core 0 r.seq
  match r.stop with
  | .wait => if r.remote = 0 then r.base else
      tally r.base { part := partOfCore r.core, code := 0x30, n := r.remote, tids := [r.tid], master := some 3, core := some (r.core % 32) }
  | .go => ok (tidy (queueTraffic r (queueCarrier r.s q)))
  | .fail code xl =>
    let s1 := tidy (queueTraffic r (queueCarrier r.s q))
    if code = errXlate then finishCmd (noteFault s1 r.context r.badVa xl r.badKind) q c 2 xl 0
    else finishCmd s1 q c (if code = errPoison then 8 else 7) 0 0

/-- A range of host bus addresses lies in the link's host window (R368). -/
def inHostWindow (s : State) (q addr n : Nat) : Bool :=
  let l := queueLink s q
  let base := getL s F.HPORT_LINK_HBASE_base l * 4096
  decide (base ≤ addr) && decide (addr + n ≤ base + getL s F.HPORT_LINK_HSIZE_pages l * 4096)

/-- A run's bytes cross the queue's link. -/
def Run.crossHost (r : Run) (q n : Nat) (toHost : Bool) : Run :=
  let l := queueLink r.s q
  let dir := if toHost then 0 else 1
  ({ r with s := bwHost r.s l dir n, hostBytes := r.hostBytes + n } : Run).uses' (useKey 2 l dir) n

/-- The physical offset of a page of a queue's context on this hub, if it translates there. -/
def pageOffset (s : State) (q va : Nat) : Option Nat :=
  match (xlate s (fun _ => false) (hostQueue s q).core (queueContext s q) (va % 2 ^ 57) .rd).1 with
  | .ok pa _ _ => if isLocal s pa then some (paOff pa) else none
  | _ => none

/-- A range of a queue's context overlaps a page that is leased to anyone else (R365). -/
def leasedElse (s : State) (q va n : Nat) : Bool :=
  let a := linkAgent s (queueLink s q)
  (List.range ((va % 4096 + n + 4095) / 4096)).any (fun i =>
    match pageOffset s q (va / 4096 * 4096 + i * 4096) with
    | some off => (match leaseInForce s off with
      | some l => !(l.agent == a && l.context == queueContext s q)
      | none => false)
    | none => false)

/-- The record of a copy that read poison (R368). -/
def poisonRecord (s : State) (q : Nat) (pa : Nat) : State :=
  fault s { cls := 2, cause := 0x0013, page := queuePage q, detail := 2, context := queueContext s q,
            agent := linkAgent s (queueLink s q), core := (hostQueue s q).core, pa := pa }

/-! ### NOP, COPY_IN and COPY_OUT -/

def execQueueNop (queue : Nat) (s : State) : Host.Outcome State Fault Refusal :=
  .next (settle (startCmd s queue 1 (fun s c => finishCmd s queue c 0 0 0)))

/-- COPY_IN: the bytes that the host has answered are written. -/
def copyIn (s : State) (q : Nat) (data : List Byte) (poison : Bool) : State :=
  startCmd s q 2 (fun s c =>
    if data.length ≠ c.arg2 then s
    else if !inHostWindow s q c.arg0 c.arg2 then finishCmd s q c 7 0 0
    else if leasedElse s q c.arg1 c.arg2 then finishCmd s q c 3 0 0
    else
      let r := ((queueRun s q c).crossHost q c.arg2 false).writeMp (c.arg1 % 2 ^ 57) data poison
      endQueueRun q c r (fun s => if poison then finishCmd (poisonRecord s q 0) q c 8 0 0 else finishCmd s q c 0 0 0))

def execCopyIn (queue : Nat) (data : List Byte) (poison : Bool) (s : State) : Host.Outcome State Fault Refusal :=
  .next (settle (copyIn s queue data poison))

/-- Post bytes into the host's memory, or poison in their place. -/
def postHost (s : State) (l addr : Nat) (data : List Byte) (poison : Bool) : State :=
  emit s (if poison then .hostPoison l addr data.length else .hostWrite l addr data)

/-- Read a range piece by piece: the offset, bytes and poison of each. -/
def readPieces (r : Run) (va n : Nat) : List (Nat × List Byte × Bool) × Run :=
  (cutRange va n).foldl (fun a p =>
    let g := readPiece a.2 p.1 p.2 .rd false
    (a.1 ++ [((p.1 + 2 ^ 57 - va) % 2 ^ 57, g.1.1, g.1.2)], g.2)) ([], r)

/-- COPY_OUT: the bytes are read and posted to the host. -/
def copyOut (s : State) (q : Nat) : State :=
  startCmd s q 3 (fun s c =>
    if !inHostWindow s q c.arg0 c.arg2 then finishCmd s q c 7 0 0
    else if leasedElse s q c.arg1 c.arg2 then finishCmd s q c 3 0 0
    else
      let x := readPieces (queueRun s q c) (c.arg1 % 2 ^ 57) c.arg2
      endQueueRun q c (x.2.crossHost q c.arg2 true) (fun s =>
        let s1 := x.1.foldl (fun a p => postHost a (queueLink s q) (c.arg0 + p.1) p.2.1 p.2.2) s
        if x.1.any (fun p => p.2.2) then finishCmd (poisonRecord s1 q 0) q c 8 0 0 else finishCmd s1 q c 0 0 0))

def execCopyOut (queue : Nat) (s : State) : Host.Outcome State Fault Refusal := .next (settle (copyOut s queue))

/-! ### Leases (R355 to R360, R401) -/

/-- A page's accesses that the tenant or the region refuses, leases apart. -/
def pageRefuses (s : State) (tid : Nat) (k : Kindm) (off : Nat) : Bool :=
  match homePart s off with
  | none => true
  | some h => !rightsOk s (.tenant tid false) k off || faceRefuses s (.tenant tid false) k off ||
      (k.writes && (decide (roadTo s h off = .lost) || slotSealed s off))

/-- The pages of a lease lie in one aligned range of this hub's store, as the queue's context translates them. -/
def leasePage (s : State) (q va size : Nat) : Option Nat :=
  match pageOffset s q va with
  | none => none
  | some off =>
    if off % size = 0 ∧ (List.range (size / 4096)).all (fun i => decide (pageOffset s q (va + 4096 * i) = some (off + 4096 * i))) then some off
    else none

/-- The seam dies whose lines a page has, SD0 first (R401). -/
def leaseDies (s : State) (off : Nat) (size : Nat) : List Nat :=
  match farSlot s off with
  | some f => if f.guarded && decide (4096 < size) then [0, 1] else [dieOfLine s (off / 64)]
  | none => [dieOfLine s (off / 64)]

/-- Leases outstanding on this hub: a lease of both dies counts once. -/
def leasesHeld (s : State) : List Lease := ((s.seam.flatMap SeamDie.leases) ++ s.regions.leaseReqs.map LeaseReq.lease).eraseDups

/-- A page overlaps a leased page. -/
def leaseOverlaps (s : State) (off size : Nat) : Bool :=
  (leasesHeld s).any (fun l => decide (l.page < off + size) && decide (off < l.page + l.size))

/-- PAGE_OUT starts: its lease request leaves for the page's seam dies. -/
def askLease (s : State) (q : Nat) (c : QueueCmd) : State :=
  let size := leaseSize c.arg2
  let t := (queueRun s q c).translate (c.arg0 % 2 ^ 57) .rd
  match t.1 with
  | none => endQueueRun q c t.2 id
  | some (pa, _) =>
    if !inHostWindow s q c.arg1 size ∨ !isLocal s pa then finishCmd t.2.s q c 7 0 0
    else match leasePage t.2.s q c.arg0 size with
      | none => finishCmd t.2.s q c 1 0 0
      | some off =>
        let s1 := queueTraffic t.2 (queueCarrier s q)
        let mode := match regionOf s1 off with | some r => rgnAmode (regionEntry s1 r) / 2 | none => 0
        if leaseOverlaps s1 off size then finishCmd s1 q c 3 0 0
        else if pageRefuses s1 (tidOf s1 (queueContext s1 q)) .rd off then finishCmd s1 q c 2 xlAccess 0
        else if mode = 0 then finishCmd s1 q c 7 0 0
        else if 65536 ≤ (leasesHeld s1).length then finishCmd s1 q c 5 0 0
        else
          let l : Lease := { page := off, size := size, agent := linkAgent s1 (queueLink s1 q), context := queueContext s1 q, ro := bit c.arg2 1 }
          let s2 := { s1 with regions := { s1.regions with leaseReqs := s1.regions.leaseReqs ++
            [{ lease := l, dies := leaseDies s1 off size, queue := q, cid := c.cid, hostAddr := c.arg1 }] } }
          setCmd s2 q c { c with started := true, waiting := true, since := s2.now }

/-- The lease point has passed, every recall of the page has been answered, and its lines can be read (R357, R402). -/
def leaseReady (s : State) (r : LeaseReq) : Bool :=
  r.dies.isEmpty && (linesOf r.lease.page r.lease.size).all (fun line =>
    !lineBusy s line && decide ((dirEntry s line).state ≠ .m) && (r.lease.ro || decide ((dirEntry s line).state = .i)) && !lineHeld s line)

/-- The page of a lease is copied to the host. -/
def copyPage (s : State) (q : Nat) (c : QueueCmd) (r : LeaseReq) : State :=
  let ls := linesOf r.lease.page r.lease.size
  let l := queueLink s q
  let s1 := bwHost { s with regions := { s.regions with leaseReqs := s.regions.leaseReqs.filter (fun x => decide (x ≠ r)) } } l 0 r.lease.size
  let s2 := charge s1 (queueCarrier s1 q) (useKey 2 l 0) r.lease.size
  let run := { queueRun s2 q c with lines := ls.map (fun line => (localPa s2 (line * 64), false)), hostBytes := r.lease.size }
  let s3 := ls.foldl (fun a line => postHost a l (r.hostAddr + (line * 64 - r.lease.page)) (storeBytes a (line * 64) 64) (lineDead a line))
    (queueTraffic run (queueCarrier s2 q))
  if ls.any (lineDead s) then finishCmd (poisonRecord s3 q (localPa s3 r.lease.page)) q c 8 0 0 else finishCmd s3 q c 0 0 0

/-- A PAGE_OUT that waits and can be copied now. -/
def readyLease (s : State) (q : Nat) : Option (QueueCmd × LeaseReq) :=
  (hostQueue s q).cmds.findSome? (fun c =>
    if c.opcode = 4 ∧ c.waiting then
      (s.regions.leaseReqs.find? (fun r => r.queue == q && r.cid == c.cid && leaseReady s r)).map (fun r => (c, r))
    else none)

/-- PAGE_OUT: a lease that has taken effect is copied; else the next command takes one. -/
def pageOut (s : State) (q : Nat) : State :=
  match (if queueRuns s q then readyLease s q else none) with
  | some (c, r) => copyPage s q c r
  | none => startCmd s q 4 (fun s c => askLease s q c)

def execPageOut (queue : Nat) (s : State) : Host.Outcome State Fault Refusal := .next (settle (pageOut s queue))

/-- A lease ends on every die. -/
def endLease (s : State) (l : Lease) : State :=
  { s with seam := s.seam.map (fun d => { d with leases := d.leases.filter (fun x => decide (x ≠ l)) }) }

/-- The lease of a page that a queue's link and context hold. -/
def ownLease (s : State) (q off size : Nat) : Option Lease :=
  (s.seam.flatMap SeamDie.leases).find? (fun l => l.page == off && l.size == size && l.agent == linkAgent s (queueLink s q) &&
    l.context == queueContext s q && !s.regions.leaseReqs.any (fun r => decide (r.lease = l)))

/-- The host's bytes return to a page of the store. -/
def returnPage (s : State) (l : Lease) (data : List Byte) (poison : Bool) : State :=
  (linesOf l.page l.size).foldl (fun a line => lineWrite a line ((data.drop (line * 64 - l.page)).take 64) (2 ^ 64 - 1) poison) s

/-- PAGE_IN: a read-write lease without clean is copied back; the lease ends. -/
def pageIn (s : State) (q : Nat) (data : List Byte) (poison : Bool) : State :=
  startCmd s q 5 (fun s c =>
    let size := leaseSize c.arg2
    let t := (queueRun s q c).translate (c.arg0 % 2 ^ 57) .rd
    if !inHostWindow s q c.arg1 size then finishCmd s q c 7 0 0
    else match t.1 with
      | none => endQueueRun q c t.2 id
      | some (pa, _) =>
        match (if isLocal s pa then ownLease s q (paOff pa) size else none) with
        | none => finishCmd t.2.s q c 4 0 0
        | some l =>
          let s1 := queueTraffic t.2 (queueCarrier s q)
          if l.ro || bit c.arg2 2 then finishCmd (endLease s1 l) q c 0 0 0
          else if data.length ≠ size ∨ (linesOf l.page size).any (lineHeld s1) then s
          else
            let w := (queueRun s1 q c).translate (c.arg0 % 2 ^ 57) .wr
            if w.1.isNone then endQueueRun q c w.2 id
            else if pageRefuses s1 (tidOf s1 (queueContext s1 q)) .wr l.page then finishCmd s1 q c 2 xlAccess 0
            else
              let r := ({ queueRun s1 q c with lines := (linesOf l.page size).map (fun x => (localPa s1 (x * 64), true)) }).crossHost q size false
              let s2 := endLease (returnPage (queueTraffic r (queueCarrier s1 q)) l data poison) l
              if poison then finishCmd (poisonRecord s2 q (localPa s2 l.page)) q c 8 0 0 else finishCmd s2 q c 0 0 0)

def execPageIn (queue : Nat) (data : List Byte) (poison : Bool) (s : State) : Host.Outcome State Fault Refusal :=
  .next (settle (pageIn s queue data poison))

/-! ### SYNC (R134, R365, R487) -/

/-- A WAIT whose time is up and that has not been cancelled. -/
def expiredWait (s : State) (q : Nat) : Option QueueCmd :=
  (hostQueue s q).cmds.find? (fun c => c.opcode == 6 && c.waiting && !c.cancelled && bits c.arg0 28 4 == 2 && c.arg2 != 0 &&
    decide (c.since + 2000 * c.arg2 ≤ s.now))

/-- The tag under which a queue's synchronisation operation is known. -/
def syncTag (q : Nat) (c : QueueCmd) : Nat := q * 65536 + c.cid

/-- Cancel a wait (R127). -/
def cancelQueueWait (s : State) (q : Nat) (c : QueueCmd) : State :=
  let name := bits c.arg0 0 27
  let a := linkAgent s (queueLink s q)
  let s1 := setCmd s q c { c with cancelled := true }
  let old := match s.fabric.requests.find? (fun r => decide (r.purpose = .host q c.cid)) with | some r => r.packet.tag | none => 0
  sendSync s1 .cancel (.host a) (syncTag q c) name 0 old (queueContext s q) (hostQueue s q).runningOn (.host q c.cid)

/-- SYNC starts: its operation leaves for the object's home. SINIT keeps the kind the object has. -/
def startSync (s : State) (q : Nat) (c : QueueCmd) : State :=
  let name := bits c.arg0 0 27
  let op := bits c.arg0 28 4
  let cx := queueContext s q
  let kind : Nat := match (syncObj s (objKey name)).kind with | .semaphore => 0 | .barrier => 1 | .lock => 2 | .event => 3
  if badName s name then finishCmd s q c 0 0 stBadObj
  else if objHub name ≠ hubId s ∧ !syncWindow s (tidOf s cx) name then finishCmd s q c 0 0 stDenied
  else
    let s1 := setCmd s q c { c with started := true, waiting := true, since := s.now }
    sendSync s1 (if op = 0 then .sinit else if op = 1 then .signal else .wait) (.host (linkAgent s (queueLink s q))) (syncTag q c) name
      (if op = 0 then (if objHub name = hubId s then kind else 0) else if op = 1 then b2n (bit c.arg1 32) else 0) (bits c.arg1 0 32) cx
      (hostQueue s q).runningOn (.host q c.cid)

/-- SYNC: a wait whose time is up is cancelled; else the next command starts. -/
def syncRow (s : State) (q : Nat) : State :=
  match (if queueRuns s q then expiredWait s q else none) with
  | some c => cancelQueueWait s q c
  | none => startCmd s q 6 (fun s c => startSync s q c)

def execSync (queue : Nat) (s : State) : Host.Outcome State Fault Refusal := .next (settle (syncRow s queue))

/-! ### ADMIT and WITHDRAW (R76, R365) -/

/-- Queue an admission request: result 0, or 7 QUEUE_FULL. -/
def queueAdmit (s : State) (q : Nat) (c : QueueCmd) (a : AdmRequest) : State :=
  let r := queueAdmission s a
  finishCmd r.1 q c 0 0 (if r.2 then 0 else 7)

/-- ADMIT: the record's address is translated; one that does not translate is refused when the tick unit reads it. -/
def admitRow (s : State) (q : Nat) : State :=
  startCmd s q 7 (fun s c =>
    let t := (queueRun s q c).translate (c.arg0 % 2 ^ 57) .rd
    match t.1, t.2.stop with
    | some (pa, _), _ => queueAdmit (queueTraffic t.2 (queueCarrier s q)) q c (.enter (.hostQueue q) (queueContext s q) (some pa))
    | none, .wait => t.2.base
    | none, _ => queueAdmit s q c (.enter (.hostQueue q) (queueContext s q) none))

def execAdmit (queue : Nat) (s : State) : Host.Outcome State Fault Refusal := .next (settle (admitRow s queue))

def execWithdraw (queue : Nat) (s : State) : Host.Outcome State Fault Refusal :=
  .next (settle (startCmd s queue 8 (fun s c => queueAdmit s queue c (.withdraw (.hostQueue queue) (queueContext s queue) c.arg0))))

/-! ### Completions (R366 to R368) -/

/-- The writes of a command have been performed. -/
def cmdPerformed (s : State) (q : Nat) (c : QueueCmd) : Bool :=
  !(openWrites s).any (fun w => w.2.1 == 0 && w.2.2.2 == queueSeq q c)

/-- The completed command whose completion is written next: in order of completion. -/
def doneCmd (s : State) (q : Nat) : Option QueueCmd :=
  match (hostQueue s q).cmds.filter (fun c => c.complete.isSome && cmdPerformed s q c) with
  | [] => none
  | c :: t => some (t.foldl (fun a x => if x.doneAt < a.doneAt then x else a) c)

/-- A completion entry (Table 10.7). -/
def completionEntry (c : QueueCmd) (phase : Bool) : List Byte :=
  let r := c.complete.getD (0, 0, 0)
  leBytes 2 c.cid ++ leBytes 2 r.1 ++ leBytes 2 c.headAfter ++ leBytes 1 (b2n phase) ++ leBytes 1 (if r.1 = 2 then r.2.1 else 0) ++ leBytes 8 r.2.2

/-- Remove the first of a list that equals an element. -/
def removeFirst (c : QueueCmd) : List QueueCmd → List QueueCmd
  | [] => []
  | x :: t => if x = c then t else x :: removeFirst c t

/-- QUEUE_COMPLETION: the next completion is written when the ring has room, then the interrupt is sent. -/
def queueCompletion (s : State) (q : Nat) : State :=
  let y := hostQueue s q
  let l := queueLink s q
  if 1024 ≤ q ∨ !linkCarries s l ∨ linkOut s l ∨ (y.cqTail + 1) % 2 ^ y.cqLog = y.cqHead then s
  else match doneCmd s q with
    | none => s
    | some c =>
      let tail := (y.cqTail + 1) % 2 ^ y.cqLog
      let s1 := bwHost (emit s (.hostWrite l (y.cqBase + 16 * y.cqTail) (completionEntry c y.phase))) l 0 16
      let s2 := updQueue s1 q (fun y => { y with cmds := removeFirst c y.cmds, cqTail := tail, phase := if tail = 0 then !y.phase else y.phase })
      if c.irq then emit s2 (.msix q) else s2

def execQueueCompletion (queue : Nat) (s : State) : Host.Outcome State Fault Refusal := .next (settle (queueCompletion s queue))

/-- HOST_READ_TIMEOUT: a host read without an answer completes its command with ACCESS, its destination lines as poison. -/
def readTimeout (s : State) (q cid : Nat) : State :=
  if !queueRuns s q then s
  else match nextCmd (hostQueue s q) with
    | none => s
    | some c =>
      if c.cid ≠ cid then s
      else if c.opcode = 2 then
        (if !queueTenantOk s q || !inHostWindow s q c.arg0 c.arg2 || leasedElse s q c.arg1 c.arg2 then s
        else endQueueRun q c ((queueRun s q c).writeMp (c.arg1 % 2 ^ 57) (zeroBytes c.arg2) true) (fun s => finishCmd s q c 7 0 0))
      else if c.opcode = 5 ∧ queueTenantOk s q then
        match (pageOffset s q c.arg0).bind (fun off => ownLease s q off (leaseSize c.arg2)) with
        | some l => finishCmd (if l.ro || bit c.arg2 2 then s else poisonLines s (linesOf l.page l.size)) q c 7 0 0
        | none => s
      else s

def execHostReadTimeout (queue : Nat) (cid : Nat) (s : State) : Host.Outcome State Fault Refusal :=
  .next (settle (readTimeout s queue cid))

/-! ### TDISP (R369) -/

/-- LOCK_INTERFACE: the TDI latches the binding. -/
def lockInterface (s : State) (q : Nat) : State :=
  if 1024 ≤ q ∨ (hostQueue s q).tdisp ≠ .unlocked then s
  else settleQueue (updQueue s q (fun y => { y with tdisp := .locked, latched := some (rawReg s (queuePage q) 0x100).toNat })) q

def execLockInterface (queue : Nat) (s : State) : Host.Outcome State Fault Refusal := .next (settle (lockInterface s queue))

/-- START_INTERFACE: a locked TDI runs. -/
def startInterface (s : State) (q : Nat) : State :=
  if 1024 ≤ q ∨ (hostQueue s q).tdisp ≠ .locked then s else updQueue s q (fun y => { y with tdisp := .run })

def execStartInterface (queue : Nat) (s : State) : Host.Outcome State Fault Refusal := .next (settle (startInterface s queue))

/-- STOP_INTERFACE: a TDI in ERROR waits for CTRL.reset; another is unlocked, and its commands in flight are aborted. -/
def stopInterface (s : State) (q : Nat) : State :=
  if 1024 ≤ q then s
  else match (hostQueue s q).tdisp with
    | .unlocked => s
    | .error => updQueue s q (fun y => { y with stopping := true })
    | _ => settleQueue (updQueue (dropQueueWork s q) q (fun y => { endCommands y s.now 9 with tdisp := .unlocked, latched := none })) q

def execStopInterface (queue : Nat) (s : State) : Host.Outcome State Fault Refusal := .next (settle (stopInterface s queue))

end Sys2Proof.Machine
end

