-- ==== Sys2Proof/Machine/Eloan.lean ====
section
/-! DEFINITION. Eloan messages (ch. 14): tenants, key IDs, contexts, objects, links, windows and shares. The sender of a message
is the TID of the SPDM session it came in, 0 for the manager's session. Each message is answered with the status of the first
check that it fails (R662). -/

namespace Sys2Proof.Machine

/-! ### Answers -/

/-- The statuses of Eloan messages (R516). -/
def elnOk : Nat := 0
def elnDenied : Nat := 1
def elnBadState : Nat := 2
def elnBusy : Nat := 3
def elnBadSig : Nat := 4
def elnLockedOut : Nat := 5
def elnFull : Nat := 6
def elnNotFound : Nat := 7
def elnFuses : Nat := 8
def elnDebug : Nat := 9
def elnBadArg : Nat := 10

/-- Answer a message. -/
def elnAnswer (s : State) (status : Nat) : State := emit s (.eloanAnswer status [])

/-- Change the root pair's state. -/
def updEloan (s : State) (f : Eloan → Eloan) : State := { s with eloan := f s.eloan }

/-- A message is answered with the status of the first check that fails, in R662's order; else it has its effect. -/
def checked (s : State) (checks : List (Bool × Nat)) (effect : State → State) : State :=
  match checks.find? (fun c => c.1) with
  | some c => elnAnswer s c.2
  | none => effect s

/-- A TID in use: 0, or one of the tenant table. -/
def tidKnown (s : State) (t : Nat) : Bool := t == 0 || (Tab.find? s.eloan.tenants t).isSome

/-- A key ID that a message may name. -/
def keyArg (k : Nat) : Bool := decide (1 ≤ k) && decide (k ≤ 4095)

/-- A key ID is bound to another TID. -/
def foreignKey (s : State) (k t : Nat) : Bool := decide ((keyOf s k).state ≠ .free) && (keyOf s k).tid != t

/-! ### Windows (R484, R490 to R492) -/

/-- Everything that was checked under a window has been performed: requests to its home, and descriptors of its tenant. -/
def windowIdle (s : State) (w : Window) : Bool :=
  (if w.hub = hubId s then (openWrites s).isEmpty else s.fabric.requests.all (fun r => r.packet.dst != w.hub)) &&
    s.descriptors.all (fun d => tidOf s d.context != w.tid)

/-- A grant of this hub ends with its receipt. -/
def endGrant (s : State) (hub number : Nat) : State :=
  updEloan s (fun e => { e with grants := e.grants.filter (fun g => !(g.hub == hub && g.number == number)) })

/-- Send the receipt of a window. -/
def sendReceipt (s : State) (w : Window) : State :=
  let s1 := updEloan s (fun e => { e with receipts := e.receipts.filter (fun x => x.number != w.number) })
  if w.hub = hubId s then endGrant s1 w.hub w.number else emit s1 (.envelope w.hub (.receipt w.number))

/-- The receipts that are due leave. -/
def settleReceipts (s : State) : State := (s.eloan.receipts.filter (windowIdle s)).foldl sendReceipt s

/-- A window is removed: it is used no more, and its receipt is owed. -/
def dropWindow (s : State) (w : Window) : State :=
  settleReceipts (updEloan s (fun e => { e with windows := e.windows.filter (fun x => x.number != w.number), receipts := e.receipts ++ [w] }))

/-- A window of this hub by its number. -/
def windowOf (s : State) (n : Nat) : Option Window := s.eloan.windows.find? (fun w => w.number == n)

/-- A revocation reaches the hub that holds the window. -/
def revokeWindow (s : State) (n : Nat) : State :=
  match windowOf s n with
  | some w => dropWindow s w
  | none => s

/-- Every grant of a key ID is revoked (R495 step 5). -/
def revokeGrants (s : State) (k : Nat) : State :=
  (s.eloan.grants.filter (fun g => g.keyId == k)).foldl (fun a g =>
    if g.hub = hubId a then revokeWindow a g.number else emit a (.envelope g.hub (.revoke g.number))) s

/-! ### Destruction (R495) -/

/-- Steps 1 to 3 and the start of steps 4 and 5 for a KEYED key ID. How many lines of it the line caches held is open. -/
def destroyKey (s : State) (k : Nat) : State :=
  let s1 := updKey s k (fun x => { x with state := .destroying })
  let s2 := (List.range 4).foldl (fun a d =>
    let r := freeBelow a (2 ^ 32)
    raise (addSatF r.2 F.CRYP_DROP_lines d r.1) (F.CRYP_DROP_lines.page + d) 2) s1
  let s3 := { s2 with seam := s2.seam.map (fun d => { d with abuf := d.abuf.filter (fun l => !keyLost s2 (l * 64)) }) }
  revokeGrants (addRecall s3 .key k 0 []) k

/-- A key ID is destroyed from the state it is in: ASSIGNED leads to SCRUB, a second destruction changes nothing. -/
def destroyAny (s : State) (k : Nat) : State :=
  match (keyOf s k).state with
  | .keyed => destroyKey s k
  | .assigned => keyScrub s k
  | _ => s

/-- The key IDs that are bound to a TID. -/
def keysOf (s : State) (t : Nat) : List Nat :=
  (s.eloan.keys.filter (fun e => decide (e.2.state ≠ .free) && e.2.tid == t)).map Prod.fst

/-! ### Tenants (R474) -/

/-- TENANT_CREATE: which unused number the hash takes is open. -/
def tenantCreate (s : State) (sender hash : Nat) : State :=
  let unused := (range 1 1023).filter (fun t => !tidKnown s t)
  checked s [(sender != 0, elnDenied), (unused.isEmpty, elnFull)] (fun s =>
    let r := freeBelow s unused.length
    let t := nth 1 unused r.1
    emit (updEloan r.2 (fun e => { e with tenants := Tab.insert e.tenants t hash })) (.eloanAnswer elnOk [t]))

def execTenantCreate (sender keyHash : Nat) (s : State) : Host.Outcome State Fault Refusal :=
  .next (settle (tenantCreate s sender keyHash))

/-- What a tenant leaves: keys destroyed, contexts and links unbound, windows dropped. -/
def deleteTenant (s : State) (t : Nat) : State :=
  let s1 := (keysOf s t).foldl destroyAny s
  let s2 := (s1.eloan.bindings.filter (fun e => e.2.bound == some t || e.2.candidate == some t)).foldl
    (fun a e => loseBinding a e.1 Binding.unbound) s1
  let s3 := (s2.eloan.windows.filter (fun w => w.tid == t)).foldl dropWindow s2
  updEloan s3 (fun e => { e with
    linkTid := e.linkTid.filter (fun x => x.2 != t)
    windowReqs := e.windowReqs.filter (fun w => w.tid != t)
    shares := e.shares.filter (fun x => (keyOf s (rgnKey (regionEntry s x.region))).tid != t)
    tenants := Tab.erase e.tenants t })

def tenantDelete (s : State) (sender t : Nat) : State :=
  checked s [(sender != 0, elnDenied), (decide (1023 < t), elnBadArg), (!tidKnown s t, elnNotFound), (t == 0, elnDenied)]
    (fun s => elnAnswer (deleteTenant s t) elnOk)

def execTenantDelete (sender tid : Nat) (s : State) : Host.Outcome State Fault Refusal :=
  .next (settle (tenantDelete s sender tid))

/-! ### Key IDs (R480, R495, R496) -/

def keyidAssign (s : State) (sender k t : Nat) : State :=
  checked s [(sender != 0, elnDenied), (!keyArg k || decide (1023 < t), elnBadArg), (!tidKnown s t, elnNotFound),
      (decide ((keyOf s k).state ≠ .free), elnBadState)]
    (fun s => elnAnswer (updKey s k (fun _ => { state := .assigned, tid := t, integrity := false, bin := 0 })) elnOk)

def execKeyidAssign (sender keyId tid : Nat) (s : State) : Host.Outcome State Fault Refusal :=
  .next (settle (keyidAssign s sender keyId tid))

def keyidRevoke (s : State) (sender k : Nat) : State :=
  checked s [(sender != 0, elnDenied), (!keyArg k, elnBadArg), (decide ((keyOf s k).state = .free), elnBadState)]
    (fun s => elnAnswer (destroyAny s k) elnOk)

def execKeyidRevoke (sender keyId : Nat) (s : State) : Host.Outcome State Fault Refusal :=
  .next (settle (keyidRevoke s sender keyId))

/-- The checks that a tenant message on a key ID shares: its field, its sender, whose the key ID is. -/
def keyChecks (s : State) (t k : Nat) : List (Bool × Nat) :=
  [(!keyArg k, elnBadArg), (!tidKnown s t, elnNotFound), (foreignKey s k t, elnDenied)]

/-- Debug is open at VENDOR level, or opening (R511). -/
def vendorDebug (s : State) : Bool := (s.eloan.debugOpen ++ s.eloan.debugOpening).any (fun e => e.2 == 2)

/-- KEY_GEN and KEY_IMPORT make a key ID KEYED. -/
def makeKeys (s : State) (t k : Nat) (integrity malformed : Bool) : State :=
  checked s ((malformed, elnBadArg) :: keyChecks s t k ++
      [(decide ((keyOf s k).state ≠ .assigned), elnBadState), (t != 0 && vendorDebug s, elnDebug)])
    (fun s => elnAnswer (updKey s k (fun x => { x with state := .keyed, integrity := integrity })) elnOk)

def execKeyGen (tid keyId : Nat) (integrity : Bool) (s : State) : Host.Outcome State Fault Refusal :=
  .next (settle (makeKeys s tid keyId integrity false))

/-- KEY_IMPORT: 96 bytes of key material. -/
def execKeyImport (tid keyId : Nat) (integrity : Bool) (material : List Byte) (s : State) : Host.Outcome State Fault Refusal :=
  .next (settle (makeKeys s tid keyId integrity (material.length != 96)))

def keyDestroy (s : State) (t k : Nat) : State :=
  checked s (keyChecks s t k ++ [(decide ((keyOf s k).state = .free ∨ (keyOf s k).state = .assigned), elnBadState)])
    (fun s => elnAnswer (destroyAny s k) elnOk)

def execKeyDestroy (tid keyId : Nat) (s : State) : Host.Outcome State Fault Refusal := .next (settle (keyDestroy s tid keyId))

def setBin (s : State) (t k v : Nat) : State :=
  checked s ((decide (4 < v), elnBadArg) :: keyChecks s t k ++ [(decide ((keyOf s k).state ≠ .keyed), elnBadState)])
    (fun s => elnAnswer (updKey s k (fun x => { x with bin := v })) elnOk)

def execBin (tid keyId value : Nat) (s : State) : Host.Outcome State Fault Refusal := .next (settle (setBin s tid keyId value))

/-- KEYID_FREE: no valid region names the key ID, and no grant of it is outstanding. -/
def keyidFree (s : State) (k : Nat) : State :=
  let named := s.regions.entries.any (fun e => rgnValid e.2 && rgnKey e.2 == k)
  if (keyOf s k).state = .scrub ∧ !named ∧ !s.eloan.grants.any (fun g => g.keyId == k) then updKey s k (fun _ => KeyId.unused) else s

def execKeyidFree (keyId : Nat) (s : State) : Host.Outcome State Fault Refusal := .next (settle (keyidFree s keyId))

/-! ### Contexts (R481) -/

def ctxBind (s : State) (sender c t : Nat) : State :=
  checked s [(sender != 0, elnDenied), (decide (4095 < c) || decide (1023 < t), elnBadArg), (!tidKnown s t, elnNotFound)]
    (fun s => elnAnswer (loseBinding s c { candidate := some t, bound := none, hash := none }) elnOk)

def execCtxBind (sender context tid : Nat) (s : State) : Host.Outcome State Fault Refusal :=
  .next (settle (ctxBind s sender context tid))

/-- The hash of a context's descriptor as it stands in the descriptor table. -/
def descriptorHash (s : State) (c : Nat) : Option Nat := (hubRead s (getF s F.XLT_CTX_BASE_addr 0 * 2 ^ 21 + 512 * c) 512).map Config.hash

def ctxConfirm (s : State) (t c h : Nat) : State :=
  let b := Tab.getC Binding.unbound s.eloan.bindings c
  checked s [(decide (4095 < c), elnBadArg), (!tidKnown s t, elnNotFound), (b.candidate.isSome && b.candidate != some t, elnDenied),
      (b.candidate.isNone || descriptorHash s c != some h, elnBadState)]
    (fun s => elnAnswer (setBinding (dropTagged s c) c { candidate := some t, bound := some t, hash := some h }) elnOk)

def execCtxConfirm (tid context hash : Nat) (s : State) : Host.Outcome State Fault Refusal :=
  .next (settle (ctxConfirm s tid context hash))

/-! ### Objects (R487) -/

/-- OBJ_ASSIGN: an accepted change resets the object. -/
def objAssign (s : State) (sender name c : Nat) : State :=
  let k := objKey name
  let now := Tab.getC 0 s.sync.assigned k
  checked s [(sender != 0, elnDenied),
      (objHub name != hubId s || decide (11 < objPart name) || decide (6143 < objIndex name) || decide (2 ^ 27 ≤ name) || decide (4095 < c), elnBadArg),
      (now != c && !(syncObj s k).waiters.isEmpty, elnBusy),
      (tidOf s c != 0 && debugged s (objPart name), elnDebug)]
    (fun s =>
      if now = c then elnAnswer s elnOk
      else elnAnswer { resetObj s k with sync := { (resetObj s k).sync with assigned := Tab.setC 0 (resetObj s k).sync.assigned k c } } elnOk)

def execObjAssign (sender obj context : Nat) (s : State) : Host.Outcome State Fault Refusal :=
  .next (settle (objAssign s sender obj context))

/-! ### Links (R486, R498) -/

/-- KEY_PROG programs one IDE stream of a link: 0 the link IDE stream, 1 CXL.cachemem IDE. -/
def keyProg (s : State) (l stream hash : Nat) : State :=
  if !linkExists s l || decide (2 ≤ stream) || getL s F.HPORT_LINK_STATUS_state l != 2 then s
  else
    let s1 := updEloan s (fun e => { e with linkKey := Tab.insert e.linkKey (2 * l + stream) hash })
    if (Tab.find? s1.eloan.linkKey (2 * l)).isSome && (Tab.find? s1.eloan.linkKey (2 * l + 1)).isSome then
      setL s1 F.HPORT_LINK_STATUS_ide l 1
    else s1

def execKeyProg (link stream keyHash : Nat) (s : State) : Host.Outcome State Fault Refusal :=
  .next (settle (keyProg s link stream keyHash))

/-- LINK_BIND: both streams are Secure under keys of the session named. -/
def linkBind (s : State) (t agent hash : Nat) : State :=
  match linkOfAgent s agent with
  | none => elnAnswer s elnBadArg
  | some l =>
    let now := linkTenant s l
    checked s [(!tidKnown s t, elnNotFound), (now != 0 && now != t, elnDenied),
        (Tab.find? s.eloan.linkKey (2 * l) != some hash || Tab.find? s.eloan.linkKey (2 * l + 1) != some hash, elnBadState)]
      (fun s => elnAnswer (updEloan s (fun e => { e with linkTid := Tab.setC 0 e.linkTid l t })) elnOk)

def execLinkBind (tid agent keyHash : Nat) (s : State) : Host.Outcome State Fault Refusal :=
  .next (settle (linkBind s tid agent keyHash))

/-! ### Window requests, grants and shares (R490) -/

/-- The key hash of a TID; TID 0, which has none, is named by 0. -/
def hashOf (s : State) (t : Nat) : Nat := (Tab.find? s.eloan.tenants t).getD 0

/-- Rights that a share gives. -/
def Share.gives (x : Share) (rd wr atm : Bool) : Bool := (!rd || x.rd) && (!wr || x.wr) && (!atm || x.atm)

/-- The range of a store window is placed in its region, frame by frame. -/
def rangePlaced (s : State) (first count region : Nat) : Bool :=
  (List.range count).all (fun i => regionOf s (first + i * twoMiB) == some region)

/-- The key ID of a region is bound to the tenant of a key hash, or the region is shared with it under the rights. -/
def windowRight (s : State) (hash region : Nat) (rd wr atm : Bool) : Bool :=
  let k := keyOf s (rgnKey (regionEntry s region))
  (decide (k.state = .assigned) || decide (k.state = .keyed)) && (hashOf s k.tid == hash ||
    s.eloan.shares.any (fun x => x.region == region && x.keyHash == hash && x.gives rd wr atm))

/-- The home grants a window: objects and triggers name no frames. -/
def homeGrants (s : State) (hash kind first count region : Nat) (rd wr atm : Bool) : Bool :=
  kind != 0 || (rgnValid (regionEntry s region) && rangePlaced s first count region && windowRight s hash region rd wr atm)

/-- The key ID that backs a window. -/
def backing (s : State) (kind region : Nat) : Nat := if kind = 0 then rgnKey (regionEntry s region) else 0

/-- The home notes a grant. -/
def noteGrant (s : State) (hub number kind region : Nat) : State :=
  updEloan s (fun e => { e with grants := e.grants ++ [{ hub := hub, number := number, region := if kind = 0 then region else 4096, keyId := backing s kind region }] })

/-- A window's range is one that Table 14.4 allows. -/
def rangeOk (s : State) (kind hub first count : Nat) : Bool :=
  decide (hub < 1024) && (match kind with
    | 0 => first % twoMiB == 0 && decide (first < 2 ^ 47) && decide (1 ≤ count) && decide (count ≤ 2 ^ 22)
    | 1 => objHub first == hub && decide (first < 2 ^ 27) && decide (1 ≤ count)
    | 2 => decide (first < 256)
    | _ => false) && (hub == hubId s || (domainHubs s).contains hub)

/-- The window numbers that are not in use. -/
def unusedNumbers (s : State) : List Nat :=
  (List.range 4096).filter (fun n => !(s.eloan.windows ++ s.eloan.windowReqs ++ s.eloan.receipts).any (fun w => w.number == n))

/-- A number for a window: one of those not in use; the spec does not say which. -/
def freshNumber (s : State) : Nat × State :=
  let r := freeBelow s (unusedNumbers s).length
  (nth 0 (unusedNumbers s) r.1, r.2)

/-- WINDOW_REQ: a request for this hub's own store is met at once, another waits for its grant. -/
def windowReq (s : State) (w0 : Window) : State :=
  let own := w0.hub == hubId s
  checked s [(!rangeOk s w0.kind w0.hub w0.first w0.count || (w0.kind == 0 && decide (4095 < w0.region)), elnBadArg), (!tidKnown s w0.tid, elnNotFound),
      (own && w0.kind == 0 && !(rgnValid (regionEntry s w0.region) && rangePlaced s w0.first w0.count w0.region), elnBadArg),
      (own && w0.kind == 0 && !windowRight s (hashOf s w0.tid) w0.region w0.rd w0.wr w0.atm, elnNotFound),
      ((unusedNumbers s).isEmpty, elnFull)]
    (fun s =>
      let r := freshNumber s
      let w := { w0 with number := r.1 }
      if own then
        let s1 := noteGrant r.2 w.hub w.number w.kind w.region
        elnAnswer (updEloan s1 (fun e => { e with windows := e.windows ++ [{ w with keyId := backing s w.kind w.region }] })) elnOk
      else
        emit (updEloan r.2 (fun e => { e with windowReqs := e.windowReqs ++ [w] }))
          (.envelope w.hub (.request w.number (hashOf s w.tid) w.kind w.first w.count w.region w.rd w.wr w.atm)))

def execWindowReq (tid kind hub first count region : Nat) (rd wr atm : Bool) (s : State) : Host.Outcome State Fault Refusal :=
  .next (settle (windowReq s { number := 0, tid := tid, kind := kind, hub := hub, first := first, count := count, rd := rd, wr := wr,
                               atm := atm, region := region, keyId := 0 }))

/-- A sealed grant arrives: the window is installed, and its request answered. A grant that nothing waits for is given back. -/
def windowGrant (s : State) (hub number keyId : Nat) : State :=
  match takeFirst (fun w => w.number == number && w.hub == hub) s.eloan.windowReqs with
  | some (w, rest) => elnAnswer (updEloan s (fun e => { e with windowReqs := rest, windows := e.windows ++ [{ w with keyId := keyId }] })) elnOk
  | none => if (s.eloan.windows ++ s.eloan.receipts).any (fun w => w.number == number && w.hub == hub) then s else emit s (.envelope hub (.receipt number))

def execWindowGrant (hub number keyId : Nat) (s : State) : Host.Outcome State Fault Refusal :=
  .next (settle (windowGrant s hub number keyId))

/-- What an envelope brings. -/
def envelopeIn (s : State) (hub : Nat) : Envelope → State
  | .request number hash kind first count region rd wr atm =>
    if homeGrants s hash kind first count region rd wr atm then
      emit (noteGrant s hub number kind region) (.envelope hub (.grant number (backing s kind region)))
    else s
  | .grant number keyId => windowGrant s hub number keyId
  | .revoke number => if (windowOf s number).any (fun w => w.hub == hub) then revokeWindow s number else s
  | .receipt number => endGrant s hub number

/-- ENVELOPE: one that does not unseal has no effect. -/
def envelopeMsg (s : State) (sender hub : Nat) (e : Envelope) (good : Bool) : State :=
  checked s [(sender != 0, elnDenied), (!good || decide (1023 < hub), elnBadArg)] (fun s => elnAnswer (envelopeIn s hub e) elnOk)

def execEnvelope (sender hub : Nat) (envelope : Envelope) (good : Bool) (s : State) : Host.Outcome State Fault Refusal :=
  .next (settle (envelopeMsg s sender hub envelope good))

/-- WINDOW_DROP. -/
def windowDrop (s : State) (t n : Nat) : State :=
  match windowOf s n with
  | none => elnAnswer s elnNotFound
  | some w => checked s [(!tidKnown s t, elnNotFound), (w.tid != t, elnDenied)] (fun s => elnAnswer (dropWindow s w) elnOk)

def execWindowDrop (tid number : Nat) (s : State) : Host.Outcome State Fault Refusal := .next (settle (windowDrop s tid number))

/-- SHARE: a region of the sender's with another tenant's key hash; a later one replaces it. -/
def shareMsg (s : State) (t : Nat) (x : Share) : State :=
  let k := keyOf s (rgnKey (regionEntry s x.region))
  checked s [(decide (4095 < x.region) || !rgnValid (regionEntry s x.region), elnBadArg), (!tidKnown s t, elnNotFound), (k.tid != t, elnDenied)]
    (fun s => elnAnswer (updEloan s (fun e => { e with
      shares := e.shares.filter (fun y => !(y.region == x.region && y.keyHash == x.keyHash)) ++ [x] })) elnOk)

def execShare (tid region keyHash : Nat) (rd wr atm : Bool) (s : State) : Host.Outcome State Fault Refusal :=
  .next (settle (shareMsg s tid { region := region, keyHash := keyHash, rd := rd, wr := wr, atm := atm }))

/-! ### Clusters (R489) -/

/-- CLUSTER_SCRUB: the cluster's scratchpads, buffer, operand caches and bitmap cache are emptied; it is eligible from the next
OPEN. -/
def clusterScrub (s : State) (c : Nat) : State :=
  if !s.eloan.scrubbing.contains c then s
  else
    let s1 := { s with
      sspace := zeroSpan s.sspace (16 * c * sSize) (16 * sSize)
      cspace := zeroSpan s.cspace (c * cSize) cSize
      bitmaps := Tab.erase s.bitmaps c
      ras := { s.ras with
        poisonS := s.ras.poisonS.filter (fun e => e.1 * 8 / (16 * sSize) != c)
        poisonC := s.ras.poisonC.filter (fun e => e.1 * 8 / cSize != c) } }
    let s2 := (range (16 * c) 16).foldl (fun a k => updCore a k (fun x => { x with opLines := [], fills := x.fills.map (fun f => { f with stale := true }) })) s1
    updEloan s2 (fun e => { e with scrubbing := e.scrubbing.filter (fun x => x != c), scrubbed := e.scrubbed ++ [c] })

def execClusterScrub (cluster : Nat) (s : State) : Host.Outcome State Fault Refusal := .next (settle (clusterScrub s cluster))

end Sys2Proof.Machine
end

