-- ==== Sys2Proof/Machine/Links.lean ====
section
/-! DEFINITION. The commands of the Nelpin links (ch. 12): flits that arrive and leave, replays, training, lanes, probes and
the writes of the NLK page. -/

namespace Sys2Proof.Machine

/-! ### Flits -/

def execDataFlit (port : Nat) (flit : Flit) (s : State) : Host.Outcome State Fault Refusal :=
  .next (settle (dataFlit s port flit))

def execSealFlit (port : Nat) (flit : Flit) (verified : Bool) (s : State) : Host.Outcome State Fault Refusal :=
  .next (settle (sealFlit s port flit verified))

def execSealSend (port : Nat) (s : State) : Host.Outcome State Fault Refusal := .next (settle (sealSend s port))

/-- An idle flit whose number is not the expected one reveals a lost tail (R420). -/
def idleFlit (s : State) (n : Nat) (f : Flit) : State :=
  if 48 ≤ n ∨ (port s n).state ≠ .active then s
  else
    let s1 := heardFlit s n f
    if (port s1 n).state = .active ∧ f.seq ≠ (port s1 n).expected then askReplay s1 n else s1

def execIdleFlit (port : Nat) (flit : Flit) (s : State) : Host.Outcome State Fault Refusal :=
  .next (settle (idleFlit s port flit))

/-- A flit with a bad CRC, or of an uncorrectable codeword, is discarded whole (R409, R420). -/
def badFlit (s : State) (n : Nat) (uncorrectable : Bool) : State :=
  if 48 ≤ n ∨ (port s n).state ≠ .active then s
  else askReplay (if uncorrectable then addSatF s F.NLK_FEC_uncorrectable n 1 else s) n

def execBadCrcFlit (port : Nat) (uncorrectable : Bool) (s : State) : Host.Outcome State Fault Refusal :=
  .next (settle (badFlit s port uncorrectable))

/-! ### Replays (R424 to R426) -/

/-- A flit of any kind brings a nak with its ack. -/
def nakArrives (s : State) (n a : Nat) : State :=
  if 48 ≤ n ∨ (port s n).state ≠ .active then s
  else takeNak (updPort s n (fun q => { q with lastGood := s.now })) n a

def execNakReceive (port : Nat) (ack : Nat) (s : State) : Host.Outcome State Fault Refusal :=
  .next (settle (nakArrives s port ack))

/-- The flit that a nak asked for has not arrived within 1 µs. -/
def nakAgain (s : State) (n : Nat) : State :=
  let p := port s n
  if 48 ≤ n ∨ p.state ≠ .active ∨ !p.nakPending ∨ s.now < p.nakAt + 2000 then s else sendNak s n

def execNakResend (port : Nat) (s : State) : Host.Outcome State Fault Refusal := .next (settle (nakAgain s port))

/-- No new ack for replay_us: a replay, or at the limit the end of the link. -/
def replayTimeout (s : State) (n : Nat) : State :=
  let p := port s n
  if 48 ≤ n ∨ p.state ≠ .active ∨ p.replay.isEmpty = true ∨ s.now < p.ackAt + 2000 * getF s F.NLK_CFG_replay_us n then s
  else
    let s1 := raise (updPort s n (fun q => { q with replayTimeouts := q.replayTimeouts + 1, ackAt := s.now })) (nlkPage n) 5
    if getF s F.NLK_CFG_replay_limit n ≤ p.replayTimeouts + 1 then portDown s1 n causeReplay else replayAll s1 n

def execReplayTimeout (port : Nat) (s : State) : Host.Outcome State Fault Refusal := .next (settle (replayTimeout s port))

/-! ### Probes (R435, R436) -/

/-- A probe is answered with its arrival and the reply's departure. -/
def probeArrives (s : State) (n t1 : Nat) : State :=
  if 48 ≤ n ∨ !(port s n).live then s
  else emit (updPort s n (fun q => { q with lastGood := s.now })) (.control n 4 [t1, s.now, s.now])

def execProbe (port : Nat) (t1 : Nat) (s : State) : Host.Outcome State Fault Refusal := .next (settle (probeArrives s port t1))

/-- A probe reply gives a delay result. -/
def probeReply (s : State) (n t1 t2 t3 : Nat) : State :=
  if 48 ≤ n ∨ !(port s n).live then s
  else delayResult s n (((s.now : Int) - t1 - ((t3 : Int) - t2)) / 2).toNat

def execProbeReply (port : Nat) (t1 : Nat) (t2 : Nat) (t3 : Nat) (s : State) : Host.Outcome State Fault Refusal :=
  .next (settle (probeReply s port t1 t2 t3))

def execProbeSend (port : Nat) (s : State) : Host.Outcome State Fault Refusal :=
  .next (settle (if port < 48 ∧ (Machine.port s port).live then sendProbe s port else s))

/-! ### Lanes (R430 to R432) -/

/-- One lane's failures, saturating at 255. -/
def countLane (s : State) (n lane : Nat) : State :=
  let v := getF s F.NLK_LANE_failures n
  setF s F.NLK_LANE_failures n (setBits v (8 * lane) 8 (min 255 (bits v (8 * lane) 8 + 1)))

/-- A receive lane fails: both sides enter RETRAIN. -/
def laneFail (s : State) (n lane : Nat) : State :=
  let p := port s n
  if 48 ≤ n ∨ 4 ≤ lane ∨ !p.inSession ∨ !bit p.healthy lane then s
  else enterRetrain (countLane s n lane) n (p.healthy - 2 ^ lane) true

def execLaneFail (port : Nat) (lane : Nat) (s : State) : Host.Outcome State Fault Refusal := .next (settle (laneFail s port lane))

/-- The partner's retrain request names its healthy lanes. -/
def retrainRequest (s : State) (n healthy : Nat) : State :=
  let p := port s n
  if 48 ≤ n ∨ !p.inSession then s else enterRetrain s n (allowedLanes s n (healthy % 16)) false

def execRetrainRequest (port : Nat) (healthy : Nat) (s : State) : Host.Outcome State Fault Refusal :=
  .next (settle (retrainRequest s port healthy))

/-- RETRAIN ends in ACTIVE: the partner's frame brings its last verified seal and its credit, the replay begins after the
seal, and the delay is probed. -/
def retrainDone (s : State) (n healthy lastSeal : Nat) (credits : List Nat) : State :=
  let p := port s n
  let h := allowedLanes s n (healthy % 16)
  if 48 ≤ n ∨ p.state ≠ .retrain then s
  else if h = 0 then portDown s n causeLanes
  else
    let s1 := updPort s n (fun q => { takeCredit q credits with
      state := .active, since := s.now, healthy := h, width := widthOf h, lastGood := s.now, nakPending := false, naksInRow := 0 })
    let s2 := if widthOf h = p.width then s1 else raise s1 (nlkPage n) 2
    let s3 := takeAck s2 n lastSeal
    sendProbe (if (port s3 n).replay.isEmpty then s3 else replayAll s3 n) n

def execRetrainDone (port : Nat) (healthy : Nat) (lastSeal : Nat) (credits : List Nat) (s : State) : Host.Outcome State Fault Refusal :=
  .next (settle (retrainDone s port healthy lastSeal credits))

/-- A failed lane has held its error target for 100 ms: it is healthy, and a wider port widens through RETRAIN. -/
def laneRecover (s : State) (n lane : Nat) : State :=
  let p := port s n
  if 48 ≤ n ∨ 4 ≤ lane ∨ p.state ≠ .active ∨ bit p.healthy lane = true ∨ bit (getF s F.NLK_CTRL_lane_off n) lane = true then s
  else
    let h := p.healthy + 2 ^ lane
    if getF s F.NLK_CTRL_auto_widen n = 1 ∧ p.width < widthOf h then enterRetrain s n h true
    else updPort s n (fun q => { q with healthy := h })

def execLaneRecover (port : Nat) (lane : Nat) (s : State) : Host.Outcome State Fault Refusal :=
  .next (settle (laneRecover s port lane))

/-- A write of NLK_CTRL.lane_off. -/
def laneOff (s : State) (n lanes : Nat) : State :=
  if 48 ≤ n then s
  else
    let s1 := setF s F.NLK_CTRL_lane_off n (lanes % 16)
    let p := port s1 n
    let h := allowedLanes s1 n p.healthy
    if h = p.healthy then s1
    else if !p.inSession then updPort s1 n (fun q => { q with healthy := h })
    else if p.state = .active ∧ lanesUsed h = (lanesIn p.healthy).take p.width then updPort s1 n (fun q => { q with healthy := h })
    else enterRetrain s1 n h true

def execLaneOff (port : Nat) (lanes : Nat) (s : State) : Host.Outcome State Fault Refusal := .next (settle (laneOff s port lanes))

/-! ### Training (R427, R428, R497) -/

/-- A partner signal has held for 10 µs. -/
def partnerDetect (s : State) (n : Nat) : State :=
  let p := port s n
  if 48 ≤ n ∨ p.state ≠ .detect ∨ s.now < p.since then s
  else updPort s n (fun q => { q with state := .equalize, since := s.now })

def execPartnerDetect (port : Nat) (s : State) : Host.Outcome State Fault Refusal := .next (settle (partnerDetect s port))

/-- A training state completes: EQUALIZE with the lanes that passed in both directions, ALIGN with the width they give, DELAY
after its 16 probe exchanges. -/
def trainingStep (s : State) (n healthy : Nat) : State :=
  let p := port s n
  let h := allowedLanes s n (healthy % 16)
  if 48 ≤ n then s
  else match p.state with
    | .equalize => if h = 0 then s else updPort s n (fun q => { q with state := .align, since := s.now, healthy := h })
    | .align => updPort s n (fun q => { q with state := .params, since := s.now, width := widthOf q.healthy })
    | .delay => if 16 ≤ p.probes then enterActive s n else s
    | _ => s

def execTrainingStep (port : Nat) (healthy : Nat) (s : State) : Host.Outcome State Fault Refusal :=
  .next (settle (trainingStep s port healthy))

/-- A refusal of PARAMS or SECURE takes the port to DOWN. -/
def refusePartner (s : State) (n cause : Nat) : State := raise (portDown s n cause) (nlkPage n) 6

/-- What the partner reports in PARAMS: hub, port, epoch, domain, joined, version. -/
def paramsArrive (s : State) (n : Nat) (fs : List Nat) : State :=
  if 48 ≤ n ∨ (port s n).state ≠ .params then s
  else
    let hub := nth 0 fs 0 % 1024
    let epoch := nth 0 fs 2 % 2 ^ 32
    let theirs := decide (nth 0 fs 4 = 1)
    let s1 := updPort s n (fun q => { q with partnerHub := hub, partnerPort := nth 0 fs 1 % 64, partnerEpoch := epoch, partnerJoined := theirs })
    if joined s ∧ theirs = true ∧ nth 0 fs 3 ≠ s.startup.domain then refusePartner s1 n 9
    else if hub = hubId s ∧ epoch = s.ras.hubEpoch ∧ getF s F.NLK_CTRL_loopback n = 0 then refusePartner s1 n 10
    else if nth 0 fs 5 ≠ 1 then refusePartner s1 n 11
    else updPort s1 n (fun q => { q with state := .secure, since := s.now })

def execParams (port : Nat) (fields : List Nat) (s : State) : Host.Outcome State Fault Refusal :=
  .next (settle (paramsArrive s port fields))

/-- The Eloan roots have agreed a session secret, or one refuses the partner. -/
def secureEnds (s : State) (n : Nat) (accepted : Bool) : State :=
  if 48 ≤ n ∨ (port s n).state ≠ .secure then s
  else if accepted then updPort s n (fun q => { q with state := .delay, since := s.now, keyed := true, probes := 0, delays := [], lastGood := s.now })
  else refusePartner s n 12

def execSecure (port : Nat) (accepted : Bool) (s : State) : Host.Outcome State Fault Refusal :=
  .next (settle (secureEnds s port accepted))

/-- A state's timeout expires (Table 12.6). -/
def trainingTimeout (s : State) (n : Nat) : State :=
  let p := port s n
  match stateTimeout p.state with
  | none => s
  | some t =>
    if 48 ≤ n ∨ s.now < p.since + t then s
    else match p.state with
      | .retrain => portDown s n causeRetrain
      | .detect => trainingFails s n (2000000 * getF s F.NLK_CFG_detect_ms n)
      | _ => trainingFails s n 0

def execTrainingTimeout (port : Nat) (s : State) : Host.Outcome State Fault Refusal := .next (settle (trainingTimeout s port))

/-! ### Down, and up again (R433) -/

def execLinkSilent (port : Nat) (s : State) : Host.Outcome State Fault Refusal :=
  let p := Machine.port s port
  .next (settle (if 48 ≤ port ∨ p.state ≠ .active ∨ s.now < p.lastGood + 2000 then s else portDown s port causeSilent))

/-- The partner has begun training again. -/
def execPartnerTrainingPattern (port : Nat) (s : State) : Host.Outcome State Fault Refusal :=
  .next (settle (if port < 48 ∧ (Machine.port s port).state = .active then portDown s port causePartner else s))

/-- NLK_CTRL.enable goes from 0 to 1. -/
def nlkEnable (s : State) (n : Nat) : State :=
  if 48 ≤ n ∨ getF s F.NLK_CTRL_enable n = 1 then s
  else restPort (setF s F.NLK_CTRL_enable n 1) n .detect s.now

def execNlkEnable (port : Nat) (s : State) : Host.Outcome State Fault Refusal := .next (settle (nlkEnable s port))

/-- NLK_CTRL.enable is cleared: a link goes down with cause SOFTWARE, and the port is DISABLED. -/
def nlkDisable (s : State) (n : Nat) : State :=
  let s1 := if (port s n).inSession then portDown s n causeSoftware else s
  restPort (setF s1 F.NLK_CTRL_enable n 0) n .disabled s.now

/-- NLK_CTRL.retrain: down with cause SOFTWARE, then DETECT. -/
def nlkRetrain (s : State) (n : Nat) : State :=
  if 48 ≤ n ∨ (port s n).state = .disabled then s
  else restPort (if (port s n).inSession then portDown s n causeSoftware else s) n .detect s.now

def execNlkRetrain (port : Nat) (s : State) : Host.Outcome State Fault Refusal := .next (settle (nlkRetrain s port))

/-- A release record is 2 ms old. -/
def releaseExpires (s : State) (n : Nat) : State :=
  match (port s n).release with
  | some (_, t) => if t + 4000000 ≤ s.now then updPort s n (fun q => { q with release := none }) else s
  | none => s

def execReleaseRecordExpire (port : Nat) (s : State) : Host.Outcome State Fault Refusal :=
  .next (settle (releaseExpires s port))

end Sys2Proof.Machine
end

