-- ==== Sys2Proof/Machine/Debug.lean ====
section
/-! DEFINITION. Debug (R507 to R512), ownership (R513 to R515) and the Eloan root pair (R477). -/

namespace Sys2Proof.Machine

/-! ### Debug -/

/-- A signature fails: it is counted and shown. -/
def sigFailed (s : State) : State := elnRaise (updEloan s (fun e => { e with sigFail := min 65535 (e.sigFail + 1) })) 2

/-- A message whose signatures do not verify. -/
def badSignature (s : State) : State := elnAnswer (sigFailed s) elnBadSig

/-- A partition's challenges are locked out: 8 failures since cold start. -/
def lockedOut (s : State) (p : Nat) : Bool := decide (8 ≤ Tab.getC 0 s.eloan.debugFails p)

/-- DEBUG_CHALLENGE: a fresh nonce takes the place of one outstanding; its value is open. -/
def debugChallenge (s : State) (p level : Nat) : State :=
  checked s [(decide (11 < p) || !(level == 1 || level == 2), elnBadArg), (lockedOut s p, elnLockedOut)] (fun s =>
    let r := freeBelow s (2 ^ 256)
    emit (updEloan r.2 (fun e => { e with nonces := Tab.insert e.nonces p { level := level, value := r.1, since := s.now } }))
      (.eloanAnswer elnOk [r.1]))

def execDebugChallenge (part level : Nat) (s : State) : Host.Outcome State Fault Refusal :=
  .next (settle (debugChallenge s part level))

/-- Half-nanoseconds of the 300 s that a nonce is valid. -/
def nonceLife : Nat := 600000000000

/-- NONCE_EXPIRE. -/
def nonceExpire (s : State) (p : Nat) : State :=
  match Tab.find? s.eloan.nonces p with
  | some n => if n.since + nonceLife ≤ s.now then updEloan s (fun e => { e with nonces := Tab.erase e.nonces p }) else s
  | none => s

def execNonceExpire (part : Nat) (s : State) : Host.Outcome State Fault Refusal := .next (settle (nonceExpire s part))

/-- A key ID has a frame with a line whose home is a partition (R509). -/
def keyOnPart (s : State) (k p : Nat) : Bool :=
  s.pools.placed.any (fun e => rgnKey (regionEntry s (e.2 - 1)) == k && (isGuardFar s e.1 || homePart s (e.1 * twoMiB) == some p))

/-- A TID has something on a partition: a cluster, a key ID's frame, an object, a queue (R509). -/
def holdsOn (s : State) (t p : Nat) : Bool :=
  s.eloan.clusterTid.any (fun e => e.1 / 2 == p && e.2 == t + 1) ||
    (keysOf s t).any (fun k => keyOnPart s k p) ||
    s.sync.assigned.any (fun e => e.1 / 6144 == p && boundTid s e.2 == some t) ||
    (List.range 1024).any (fun q => bit (bindOf s q) 30 && bits (bindOf s q) 12 4 == p && boundTid s (queueContext s q) == some t)

/-- The affected set of an opening. -/
def affected (s : State) (p level : Nat) : List Nat :=
  (range 1 1023).filter (fun t => if level = 2 then tidKnown s t || !(keysOf s t).isEmpty else holdsOn s t p)

/-- A response verifies: a valid nonce for its level, the owner's signatures, the vendor's as well at VENDOR level. -/
def debugVerifies (s : State) (p level : Nat) (owner vendor : Bool) : Bool :=
  match Tab.find? s.eloan.nonces p with
  | some n => n.level == level && decide (s.now < n.since + nonceLife) && s.eloan.owned && owner && (level != 2 || vendor)
  | none => false

/-- DEBUG_OPEN (R508, R510): the nonce is consumed; the affected keys are destroyed, then the partition is reset, and debug opens
when that has ended. -/
def debugOpenMsg (s : State) (p level : Nat) (owner vendor : Bool) : State :=
  checked s [(decide (11 < p) || !(level == 1 || level == 2), elnBadArg)] (fun s =>
    let used := updEloan s (fun e => { e with nonces := Tab.erase e.nonces p })
    if debugVerifies s p level owner vendor then
      let set := affected s p level
      let s1 := updEloan used (fun e => { e with debugOpening := Tab.insert e.debugOpening p level })
      let s2 := (set.flatMap (keysOf s1)).foldl destroyAny s1
      beginReset s2 p 0x0022
    else badSignature (updEloan used (fun e => { e with debugFails := Tab.upd 0 e.debugFails p (· + 1) })))

def execDebugOpen (part level : Nat) (ownerSigned vendorSigned : Bool) (s : State) : Host.Outcome State Fault Refusal :=
  .next (settle (debugOpenMsg s part level ownerSigned vendorSigned))

/-- A partition's debug closes with a reset; `why` is 4 when a message asked for it. -/
def closeDebug (s : State) (p why : Nat) : State :=
  if Tab.getC 0 s.eloan.debugOpen p = 0 then s
  else
    beginReset (elnRaise (updEloan s (fun e => { e with
      debugOpen := Tab.erase e.debugOpen p, debugOpening := Tab.insert e.debugOpening p why })) 1) p 0x0022

/-- DEBUG_CLOSE (R512). -/
def debugCloseMsg (s : State) (p : Nat) (owner : Bool) : State :=
  if !(owner && s.eloan.owned) then badSignature s
  else checked s [(decide (11 < p), elnBadArg), (Tab.getC 0 s.eloan.debugOpen p == 0, elnBadState)] (fun s => closeDebug s p 4)

def execDebugClose (part : Nat) (ownerSigned : Bool) (s : State) : Host.Outcome State Fault Refusal :=
  .next (settle (debugCloseMsg s part ownerSigned))

/-! ### Ownership -/

/-- The owner record is replaced and a generation burned. -/
def installOwner (s : State) (hash gen : Nat) : State :=
  elnRaise (updEloan s (fun e => { e with owned := true, ownerHash := hash, ownerGen := gen })) 3

/-- SET_OWNER (R513). -/
def setOwner (s : State) (hash : Nat) : State :=
  checked s [(s.eloan.owned, elnDenied), (decide (64 ≤ s.eloan.ownerGen), elnFuses)]
    (fun s => elnAnswer (installOwner s hash (s.eloan.ownerGen + 1)) elnOk)

def execSetOwner (keyHash : Nat) (s : State) : Host.Outcome State Fault Refusal := .next (settle (setOwner s keyHash))

/-- Steps 1 to 5 of TRANSFER: tenants and keys, windows and grants, debug, the manager's certificate, Nelpin links. -/
def endTenancy (s : State) : State :=
  let s1 := (s.eloan.tenants.map Prod.fst).foldl deleteTenant s
  let s2 := ((s1.eloan.keys.filter (fun e => decide (e.2.state ≠ .free))).map Prod.fst).foldl destroyAny s1
  let s3 := s2.eloan.windows.foldl dropWindow s2
  let s4 := (List.range 12).foldl (fun a p => closeDebug a p 3) s3
  let s5 := updEloan s4 (fun e => { e with managerHash := none })
  (List.range 48).foldl (fun a n => if (port a n).live ∨ (port a n).inSession then portDown a n 12 else a) s5

/-- TRANSFER (R514). -/
def transferOwner (s : State) (hash : Nat) (owner : Bool) : State :=
  if !(owner && s.eloan.owned) then badSignature s
  else checked s [(decide (64 ≤ s.eloan.ownerGen), elnFuses)]
    (fun s => elnAnswer (installOwner (endTenancy s) hash (s.eloan.ownerGen + 1)) elnOk)

def execTransfer (keyHash : Nat) (ownerSigned : Bool) (s : State) : Host.Outcome State Fault Refusal :=
  .next (settle (transferOwner s keyHash ownerSigned))

/-- RECLAIM (R515): owner_clear_n was low through the cold start. -/
def reclaimHub (s : State) (vendor : Bool) : State :=
  if !vendor then badSignature s
  else checked s [(!s.board.ownerClear || !s.eloan.owned, elnBadState)]
    (fun s => elnAnswer (elnRaise (updEloan s (fun e => { e with owned := false, ownerHash := 0, managerHash := none })) 3) elnOk)

def execReclaim (vendorSigned : Bool) (s : State) : Host.Outcome State Fault Refusal := .next (settle (reclaimHub s vendorSigned))

/-- MANAGER_CERT. -/
def managerCert (s : State) (hash : Nat) (owner : Bool) : State :=
  if !(owner && s.eloan.owned) then badSignature s
  else elnAnswer (updEloan s (fun e => { e with managerHash := some hash })) elnOk

def execManagerCert (keyHash : Nat) (ownerSigned : Bool) (s : State) : Host.Outcome State Fault Refusal :=
  .next (settle (managerCert s keyHash ownerSigned))

/-! ### The root pair (R477) -/

/-- ELOAN_OUT_OF_STEP: one instance goes out of service and the other runs alone. -/
def outOfStep (s : State) : State :=
  if s.eloan.mirrorOk then elnRaise (updEloan s (fun e => { e with mirrorOk := false })) 4 else s

def execEloanOutOfStep (root : Nat) (s : State) : Host.Outcome State Fault Refusal :=
  .next (settle (if root < 2 then outOfStep s else s))

end Sys2Proof.Machine
end

