-- ==== Sys2Proof/Machine/SearchBase.lean ====
section
/-! DEFINITION. The search engine's data (ch. 6): query descriptors, Sieve blocks, top-k lists, query contexts, the Sieve. -/

namespace Sys2Proof.Machine

/-! ### Error codes (Table 6.11) -/

def errUcode : Nat := 8
def errList : Nat := 9
def errImage : Nat := 10

/-! ### Query contexts (R207) -/

/-- The search unit of a core. -/
def searchOf (s : State) (core : Nat) : SearchUnit := (coreOf s core).search

/-- Change the search unit of a core. -/
def updSearch (s : State) (core : Nat) (f : SearchUnit → SearchUnit) : State :=
  updCore s core (fun c => { c with search := f c.search })

/-- A query context that is not FREE. -/
def qctxOf (s : State) (core q : Nat) : Option QCtx := Tab.find? (searchOf s core).qctxs q

/-- Change a query context. -/
def updQ (s : State) (core q : Nat) (f : QCtx → QCtx) : State :=
  updSearch s core (fun u => match Tab.find? u.qctxs q with
    | some x => { u with qctxs := Tab.insert u.qctxs q (f x) }
    | none => u)

/-- The lowest free query context. -/
def freeQctx (s : State) (core : Nat) : Option Nat :=
  (List.range 64).find? (fun q => (qctxOf s core q).isNone)

/-- The command that a query context holds. -/
def qHeld (s : State) (core q : Nat) : Option Held :=
  match qctxOf s core q with
  | some x => heldCmd s core 3 x.heldSeq
  | none => none

/-- A descriptor of zeros, for a context that has not read one. -/
def QDesc.none : QDesc :=
  { query := 0, vlen := 0, kernel := 0, prologue := 0, k := 0, topk := 0, aux := 0, sieve := 0, base := 0, idBase := 0, vstride := 0,
    visited := 0, vbits := 0, fresh := false, vhash := false, vclear := false, width := 0, rounds := 0, degree := 0, adj := 0 }

/-- A query context as a command takes it. -/
def QCtx.taken (seq mode : Nat) (probe : Bool) : QCtx :=
  { state := .load, heldSeq := seq, isProbe := probe, mode := mode, desc := QDesc.none, sieve := { maps := [], ops := [] }, pc := 0,
    inPrologue := false, sregs := List.replicate 16 0, acc := List.replicate 64 0, candId := 0, vec := [], scored := 0, filtered := 0,
    nan := false, poison := false, listed := 0, index := 0, count := 0, first := 0, lists := [], input := [], seeds := [], round := 0,
    nodes := [], slots := [], src := 0 }

/-! ### The query descriptor (Table 6.4) -/

/-- An M-space reference of a descriptor as an address, with the counters of the push (R158, R178): none when it is no aligned
M-space reference. -/
def mRef (counters : List W64) (v : Nat) : Option Nat :=
  if v / 2 ^ 48 ≠ 0 ∨ !refStatic (v % 2 ^ 48) 32 [2] then none
  else match refOf counters (v % 2 ^ 48) with
    | some (.m a) => if a % 32 = 0 then some a else none
    | _ => none

/-- A query descriptor, none when it breaks Table 6.4. -/
def descOf (counters : List W64) (d : List Byte) : Option QDesc :=
  match mRef counters (field d 0x18 8), mRef counters (field d 0x38 8) with
  | some base, some adj =>
    let fl := field d 0x31 1
    let q : QDesc :=
      { query := field d 0 4, vlen := field d 4 2, kernel := field d 6 2, prologue := field d 8 2, k := field d 0x0A 2,
        topk := field d 0x0C 4, aux := field d 0x10 4, sieve := field d 0x14 4, base := base, idBase := field d 0x20 8,
        vstride := field d 0x28 4, visited := field d 0x2C 4, vbits := field d 0x30 1, fresh := bit fl 0, vhash := bit fl 1,
        vclear := bit fl 2, width := field d 0x32 2, rounds := field d 0x34 2, degree := field d 0x36 2, adj := adj }
    if q.query % 32 == 0 && decide (32 ≤ q.vlen) && decide (q.vlen ≤ 4096) && q.vlen % 32 == 0 && decide (q.kernel ≤ 1023) &&
        (decide (q.prologue ≤ 1023) || q.prologue == 0xFFFF) && decide (1 ≤ q.k) && decide (q.k ≤ 1024) && q.topk % 32 == 0 &&
        q.aux % 32 == 0 && (q.sieve % 32 == 0 || q.sieve == 0xFFFFFFFF) && decide (q.idBase < 2 ^ 48) && q.vstride % 32 == 0 &&
        decide (q.vlen ≤ q.vstride) && q.visited % 64 == 0 && decide (12 ≤ q.vbits) && decide (q.vbits ≤ 20) && decide (fl < 8) &&
        decide (1 ≤ q.width) && decide (q.width ≤ 64) && decide (1 ≤ q.rounds) && decide (1 ≤ q.degree) && decide (q.degree ≤ 256)
    then some q else none
  | _, _ => none

/-! ### The Sieve block (Table 6.9) -/

/-- A bitmap of a Sieve block. -/
def sieveMapOf (counters : List W64) (d : List Byte) (b : Nat) : Option SieveMap :=
  let o := 0x10 + 24 * b
  let c := field d (o + 0x10) 8
  match mRef counters (field d o 8) with
  | some a =>
    if field d (o + 8) 8 < 2 ^ 48 ∧ bits c 48 15 = 0 then
      some { base := a, first := field d (o + 8) 8, count := c % 2 ^ 48, outside := bit c 63 }
    else none
  | none => none

/-- A Sieve block, none when it breaks Table 6.9. -/
def sieveOf (counters : List W64) (d : List Byte) : Option Sieve :=
  let n := field d 0 1
  let ops := field d 1 1
  let os := [bits ops 0 2, bits ops 2 2, bits ops 4 2]
  let ms := (List.range n).map (sieveMapOf counters d)
  if n ≤ 4 ∧ ops < 64 ∧ !os.contains 3 ∧ (os.drop (n - 1)).all (fun o => o == 0) ∧ field d 2 14 = 0 ∧ ms.all Option.isSome then
    some { maps := ms.filterMap id, ops := os }
  else none

/-- Table 6.10: one step of the combination. -/
def sieveStep (op : Nat) (r y : Bool) : Bool :=
  match op with
  | 0 => r && y
  | 1 => r || y
  | _ => r && !y

/-- R227 over the bits of the bitmaps. -/
def sieveCombine (ops : List Nat) : List Bool → Bool
  | [] => true
  | b :: bs => ((List.range bs.length).foldl (fun r i => sieveStep (nth 0 ops i) r (nth false bs i)) b)

/-- Lines a Sieve bitmap cache holds: 1 MiB (R228). -/
def bitmapLines : Nat := 16384

/-- Keep a line in a cluster's bitmap cache; the oldest leaves a full cache (R663 leaves the policy open). -/
def keepBitmap (s : State) (cl : Nat) (l : CacheLine) : State :=
  { s with bitmaps := Tab.upd [] s.bitmaps cl (fun ls => (ls ++ [l]).drop (ls.length + 1 - bitmapLines)) }

/-- A byte of a bitmap (R228), with whether its line is poison: from the cluster's cache, else from home. -/
def readBitmap (r : Run) (va : Nat) : (Nat × Bool) × Run :=
  if !r.going then ((0, false), r)
  else match r.translate va .rd with
    | (none, r1) => ((0, false), r1)
    | (some (pa, nc), r1) =>
      let may : Bool := r.use && !nc && !isHost pa
      let cl := clusterOf r.core
      let lines := Tab.getC [] r1.s.bitmaps cl
      match (if may then lines.find? (fun l => l.addr == pa / 64 * 64 && l.context == r.context) else none) with
      | some l => (((nth 0 l.data (pa % 64)).toNat, false), r1)
      | none =>
        let g := readPa { r1 with rd := r1.rd + 1 } va (if may then pa / 64 * 64 else pa) (if may then 64 else 1) .rd false
        let b := (nth 0 g.1.1 (if may then pa % 64 else 0)).toNat
        ((b, g.1.2),
         if may && g.2.going && !g.1.2 then
           { g.2 with s := keepBitmap g.2.s cl { addr := pa / 64 * 64, context := r.context, data := g.1.1 } }
         else g.2)

/-- The bit of an item in one bitmap (R226), with whether its line is poison. -/
def bitmapBit (r : Run) (m : SieveMap) (x : Nat) : (Bool × Bool) × Run :=
  if x < m.first ∨ m.first + m.count ≤ x then ((m.outside, false), r)
  else
    let i := x - m.first
    let g := readBitmap r ((m.base + i / 8) % 2 ^ 57)
    ((bit g.1.1 (i % 8), g.1.2), g.2)

/-- Whether the Sieve admits an item (R227), and whether poison refused it (R236). -/
def sieveAdmits (r : Run) (sv : Sieve) (x : Nat) : (Bool × Bool) × Run :=
  let g := sv.maps.foldl (fun (a : (List Bool × Bool) × Run) m =>
    let b := bitmapBit a.2 m x
    ((a.1.1 ++ [b.1.1], a.1.2 || b.1.2), b.2)) (([], false), r)
  ((sieveCombine sv.ops g.1.1 && !g.1.2, g.1.2), g.2)

/-! ### Top-k lists (Table 6.5) -/

/-- A number in S-space. -/
def sNum (s : State) (core off n : Nat) : Nat := leValue (sBytes s core off n)

/-- Record r of a list. -/
def recAt (s : State) (core topk r : Nat) : Rec :=
  let o := topk + 0x20 + 16 * r
  let f := sNum s core (o + 12) 1
  { id := sNum s core o 8 % 2 ^ 48, key := sNum s core (o + 8) 4, expanded := bit f 0, reranked := bit f 1 }

/-- The 16 bytes of a record. -/
def Rec.bytes (r : Rec) : List Byte :=
  leBytes 8 r.id ++ leBytes 4 r.key ++ leBytes 1 (b2n r.expanded + 2 * b2n r.reranked) ++ leBytes 3 0

/-- The canonical order (R214): key, then item ID. -/
def Rec.before (a b : Rec) : Bool := decide (a.key < b.key) || (a.key == b.key && decide (a.id < b.id))

/-- Records in the canonical order. -/
def inOrder : List Rec → Bool
  | a :: b :: t => !b.before a && inOrder (b :: t)
  | _ => true

/-- The records of a list. -/
def recsOf (s : State) (core topk n : Nat) : List Rec := (List.range n).map (recAt s core topk)

/-- Insert a record at its place, dropping what exceeds k. -/
def insertRec (k : Nat) (rs : List Rec) (r : Rec) : List Rec :=
  ((rs.filter (fun x => x.before r)) ++ r :: (rs.filter (fun x => !x.before r))).take k

/-- Write the records of a list. -/
def writeRecs (s : State) (core topk : Nat) (rs : List Rec) : State := sWrite s core (topk + 0x20) (rs.flatMap Rec.bytes)

/-- The header of a list. -/
def headerBytes (count k flags threshold scored filtered : Nat) : List Byte :=
  leBytes 2 count ++ leBytes 2 k ++ leBytes 1 flags ++ leBytes 3 0 ++ leBytes 4 threshold ++ leBytes 4 0 ++ leBytes 8 scored ++
    leBytes 8 filtered

/-- The threshold of a list of k places. -/
def thresholdOf (k : Nat) (rs : List Rec) : Nat := match rs[k - 1]? with | some r => r.key | none => 0xFFFFFFFF

/-- Bytes of a list of k records. -/
def listSize (k : Nat) : Nat := 32 + 16 * k

/-- A list that a command goes on with obeys R217. -/
def listOk (s : State) (core topk k : Nat) : Bool :=
  let n := sNum s core topk 2
  sNum s core (topk + 2) 2 == k && decide (n ≤ k) && !bit (sNum s core (topk + 4) 1) 0 && inOrder (recsOf s core topk n)

/-! ### Failures and skips -/

/-- A search command fails (R237): its context closes, candidates it still has waiting are dropped. -/
def failSearch (s : State) (core q : Nat) (h : Held) (code xl va : Nat) (k : Kindm) : State :=
  let s1 := setF (failCommand s core 3 h code xl va k) F.SE_ERR_qctx core q
  updSearch (updQ s1 core q (fun x => { x with state := .close })) core (fun u => { u with inserts := u.inserts.filter (fun i => i.qctx != q) })

/-- A failure without a translation fault. -/
def failPlain (s : State) (core q : Nat) (h : Held) (code : Nat) : State := failSearch s core q h code 0 0 .rd

/-- A search event of a command (Table 17.1). -/
def noteSearch (s : State) (core code : Nat) (h : Held) : State :=
  tally s { part := partOfCore core, code := code, tids := [tidOf s (streamCtx s h.handle)], master := some 2, core := some (core % 32) }

/-- Poisoned data of one candidate, node or list is skipped (R236). -/
def skipPoison (s0 : State) (core q : Nat) (h : Held) : State :=
  let s := noteSearch s0 core 0x26 h
  let s1 := raise (addSatF (updQ s core q (fun x => { x with poison := true })) F.SE_SKIPPED_count core 1) (enginePage core 3) 1
  fault s1 (threadInfo s1 core h.ctx h.entry.pc 0x0013 0 (enginePage core 3))

end Sys2Proof.Machine
end

