-- ==== Sys2Proof/Machine/Search.lean ====
section
/-! DEFINITION. Search commands (ch. 6): how SCAN and GPROBE take a query context, read their records, go from candidate to
candidate and end; KMERGE, SLOAD and the insertion unit. -/

namespace Sys2Proof.Machine

/-! ### A search that reads memory -/

/-- Read for a context's command: a wait keeps the context in WAIT_MEM, a failure ends the command, else the next step is
taken with what was read. The answer says whether the context goes on at once. -/
def seRead {α : Type} (s : State) (core q : Nat) (h : Held) (act : Run → α × Run) (next : State → α → State × Bool) : State × Bool :=
  let g := act (runOf s core 3 h)
  match g.2.stop with
  | .wait => (updQ (noteRemote g.2 g.2.base) core q (fun x => { x with state := .waitMem }), false)
  | .fail code xl => (failSearch (noteRemote g.2 (noteTraffic g.2 h)) core q h code xl g.2.badVa g.2.badKind, false)
  | .go => next (dropInbox (g.2.commit h id).s core 3 h.seq) g.1

/-! ### The end of a command (R217) -/

/-- Write the final header and end the command. -/
def closeList (s : State) (core q : Nat) : State :=
  match qctxOf s core q with
  | none => s
  | some x =>
    let d := x.desc
    let rs := recsOf s core d.topk x.listed
    let th := if x.listed = d.k then thresholdOf d.k rs else 0xFFFFFFFF
    let s1 := sWrite s core d.topk (headerBytes x.listed d.k (2 * b2n x.nan + 4 * b2n x.poison) th x.scored x.filtered)
    updHeld (updQ s1 core q (fun x => { x with state := .close })) core 3 x.heldSeq (fun h => { h with done := true })

/-- Candidates of a context that wait for the insertion unit. -/
def waitingInserts (s : State) (core q : Nat) : Bool := (searchOf s core).inserts.any (fun i => i.qctx == q)

/-- The candidates are exhausted: the list closes once the insertion unit has taken every candidate of the context. -/
def exhaust (s : State) (core q : Nat) : State :=
  if waitingInserts s core q then updQ s core q (fun x => { x with state := .close }) else closeList s core q

/-! ### One candidate -/

/-- A candidate is ready: registers s0 to s7 and the accumulators are cleared and its kernel begins (R222). -/
def beginKernel (s : State) (core q id : Nat) (v : List Byte) (h : Held) : State :=
  updQ (noteSearch s core 0x04 h) core q (fun x => { x with
    state := .ready, pc := x.desc.kernel, candId := id, vec := v, scored := satAdd (2 ^ 64 - 1) x.scored 1
    sregs := List.replicate 8 0 ++ x.sregs.drop 8, acc := List.replicate 64 0 })

/-- Try a candidate: the Sieve first, then its vector (R227, R236). `step` moves the context past the candidate. -/
def candidate (s : State) (core q : Nat) (h : Held) (sv : Sieve) (vlen id va : Nat) (pre : Run → Run) (step : QCtx → QCtx) : State × Bool :=
  if 2 ^ 48 ≤ id then (failPlain s core q h errShape, false)
  else seRead s core q h (fun r =>
    let a := sieveAdmits (pre r) sv id
    if !a.1.1 then (((false, a.1.2), ([], false)), a.2)
    else
      let v := a.2.readM (va % 2 ^ 57) vlen .rd false
      (((true, false), v.1), v.2))
    (fun s1 o =>
      let s2 := updQ s1 core q step
      if !o.1.1 then
        let s3 := noteSearch (updQ s2 core q (fun x => { x with filtered := satAdd (2 ^ 64 - 1) x.filtered 1 })) core 0x05 h
        (if o.1.2 then skipPoison s3 core q h else s3, true)
      else if o.2.2 then (skipPoison s2 core q h, true)
      else (beginKernel s2 core q id o.2.1 h, false))

/-! ### SCAN (R230, R231) -/

/-- The next list of a mode 1 scan: its directory entry and its item-ID array. -/
def nextList (s : State) (core q : Nat) (h : Held) (x : QCtx) (l : Nat) : State × Bool :=
  seRead s core q h (fun r =>
    let e := r.readM ((x.desc.base + 32 * l) % 2 ^ 57) 32 .rd true
    let ids := field e.1.1 8 8
    let a : Got × Run := if e.1.2 ∨ ids = 0 then (([], false), e.2) else e.2.readM (ids % 2 ^ 57) (8 * field e.1.1 0x18 4) .rd true
    ((e.1, a.1), a.2))
    (fun s1 o =>
      let e := o.1.1
      let ids := field e 8 8
      let cnt := field e 0x18 4
      let s2 := updQ s1 core q (fun x => { x with lists := x.lists.drop 1 })
      if o.1.2 ∨ o.2.2 then (skipPoison s2 core q h, true)
      else if field e 0 8 % 32 ≠ 0 ∨ 2 ^ 57 ≤ field e 0 8 ∨ 2 ^ 57 ≤ ids ∨ field e 0x1C 4 ≠ 0 then (failPlain s2 core q h errShape, false)
      else (updQ s2 core q (fun x => { x with
        src := field e 0 8, first := field e 0x10 8, count := cnt, index := 0
        slots := if ids = 0 then [] else (List.range cnt).map (fun i => field o.2.1 (8 * i) 8) }), true))

/-- The next step of a scan. -/
def scanStep (s : State) (core q : Nat) (h : Held) (x : QCtx) : State × Bool :=
  let past := fun (x : QCtx) => { x with index := x.index + 1, vec := [] }
  match x.mode with
  | 0 =>
    if x.index < x.count then
      candidate s core q h x.sieve x.desc.vlen (x.first + x.index) (x.src + x.index * x.desc.vstride) id past
    else (exhaust s core q, false)
  | 1 =>
    if x.index < x.count then
      candidate s core q h x.sieve x.desc.vlen (if x.slots.isEmpty then x.first + x.index else nth 0 x.slots x.index)
        (x.src + x.index * x.desc.vstride) id past
    else (match x.lists with
      | [] => (exhaust s core q, false)
      | l :: _ => nextList s core q h x l)
  | _ =>
    match x.input with
    | [] => (exhaust s core q, false)
    | r :: _ =>
      candidate s core q h x.sieve x.desc.vlen r.id (x.desc.base + (r.id - x.desc.idBase) * x.desc.vstride) id
        (fun x => { x with input := x.input.drop 1, vec := [] })

/-! ### GPROBE (R232, R233) -/

/-- The hash of the visited bitmap. -/
def visitHash (d : QDesc) (x : Nat) : Nat :=
  if d.vhash then x * 0xB5AD4ECEDA1CE2A9 % 2 ^ 64 / 2 ^ (64 - d.vbits) else x

/-- A node is visited. -/
def visitedBit (s : State) (core : Nat) (d : QDesc) (x : Nat) : Bool :=
  let i := visitHash d x
  bit (sNum s core (d.visited + i / 8) 1) (i % 8)

/-- Mark a node as visited. -/
def markVisited (s : State) (core : Nat) (d : QDesc) (x : Nat) : State :=
  let i := visitHash d x
  sWrite s core (d.visited + i / 8) (leBytes 1 (sNum s core (d.visited + i / 8) 1 ||| 2 ^ (i % 8)))

/-- A direct-mode index lies past the bitmap (Table 6.11, RANGE). -/
def visitRange (d : QDesc) (x : Nat) : Bool := !d.vhash && decide (2 ^ d.vbits ≤ x)

/-- An item ID lies in the shard. -/
def inShard (d : QDesc) (i : Nat) : Bool := decide (d.idBase ≤ i) && decide (i - d.idBase < 0xFFFFFFFF)

/-- Visit a node. -/
def visit (s : State) (core q : Nat) (h : Held) (x : QCtx) (n : Nat) (step : QCtx → QCtx) : State × Bool :=
  let d := x.desc
  if visitRange d n then (failPlain s core q h errRange, false)
  else if n = 0xFFFFFFFF then (failPlain s core q h errShape, false)
  else if sPoisoned s core (d.visited + visitHash d n / 8) 1 then (failPlain s core q h errPoison, false)
  else if visitedBit s core d n then (updQ s core q step, true)
  else candidate s core q h x.sieve d.vlen (d.idBase + n) (d.base + n * d.vstride)
    (fun r => { r with s := markVisited r.s core d n }) (fun x => { step x with vec := [] })

/-- The neighbour slots of a node. -/
def nextNode (s : State) (core q : Nat) (h : Held) (x : QCtx) (n : Nat) : State × Bool :=
  seRead s core q h (fun r => r.readM ((x.desc.adj + n * 4 * x.desc.degree) % 2 ^ 57) (4 * x.desc.degree) .rd true)
    (fun s1 o =>
      let s2 := updQ s1 core q (fun x => { x with nodes := x.nodes.drop 1 })
      if o.2 then (skipPoison s2 core q h, true)
      else (updQ s2 core q (fun x => { x with
        slots := ((List.range x.desc.degree).map (fun i => field o.1 (4 * i) 4)).takeWhile (fun v => v != 0xFFFFFFFF) }), true))

/-- The records that a round expands. -/
def chosenRecs (s : State) (core : Nat) (x : QCtx) : List Nat :=
  ((List.range x.listed).filter (fun i =>
    let r := recAt s core x.desc.topk i
    !r.expanded && inShard x.desc r.id)).take x.desc.width

/-- A round begins, or the probe ends. -/
def nextRound (s : State) (core q : Nat) (x : QCtx) : State × Bool :=
  if waitingInserts s core q then (updQ s core q (fun x => { x with state := .waitIns, vec := [] }), false)
  else
    let e := chosenRecs s core x
    if x.desc.rounds ≤ x.round ∨ e.isEmpty then (exhaust s core q, false)
    else
      let s1 := e.foldl (fun a i =>
        let r := recAt a core x.desc.topk i
        sWrite a core (x.desc.topk + 0x20 + 16 * i) ({ r with expanded := true } : Rec).bytes) s
      (updQ s1 core q (fun y => { y with
        round := y.round + 1, nodes := e.map (fun i => (recAt s core x.desc.topk i).id - x.desc.idBase) }), true)

/-- The next step of a probe. -/
def probeStep (s : State) (core q : Nat) (h : Held) (x : QCtx) : State × Bool :=
  match x.seeds, x.slots, x.nodes with
  | n :: _, _, _ => visit s core q h x n (fun x => { x with seeds := x.seeds.drop 1 })
  | [], n :: _, _ => visit s core q h x n (fun x => { x with slots := x.slots.drop 1 })
  | [], [], n :: _ => nextNode s core q h x n
  | [], [], [] => nextRound s core q x

/-! ### From candidate to candidate -/

/-- Go on until a kernel begins, the command waits or it ends; a context that has gone through many refused candidates
rests in WAIT_MEM and is taken up again by its row. -/
def advanceQ (core q : Nat) : Nat → State → State
  | 0, s => updQ s core q (fun x => { x with state := .waitMem })
  | fuel + 1, s =>
    match qctxOf s core q, qHeld s core q with
    | some x, some h =>
      let r := if x.isProbe then probeStep s core q h x else scanStep s core q h x
      if r.2 then advanceQ core q fuel r.1 else r.1
    | _, _ => s

/-- Steps a context takes at one command. -/
def advanceFuel : Nat := 4096

/-- The next candidate of a context. -/
def nextCandidate (s : State) (core q : Nat) : State := advanceQ core q advanceFuel s

/-! ### The pop and the start (R207, R209, R212) -/

/-- The extents that a command names in S-space lie inside it. -/
def extentsOk (d : QDesc) (probe : Bool) : Bool :=
  decide (d.query + d.vlen ≤ sSize) && decide (d.topk + listSize d.k ≤ sSize) && decide (d.aux ≤ sSize) &&
    (d.sieve == 0xFFFFFFFF || decide (d.sieve + 128 ≤ sSize)) && (!probe || decide (d.visited + 2 ^ d.vbits / 8 ≤ sSize))

/-- The S-space offset of the second operand of a search word. -/
def seSrc (h : Held) : Nat := (match refOf h.entry.counters (bits h.entry.word 96 48) with | some f => f.addr | none => 0)

/-- What a SCAN, GPROBE or KMERGE reads once, as it is popped: the descriptor, the Sieve block and the list in S-space that
its source names; or the error it fails with. -/
def readRecords (s : State) (core : Nat) (h : Held) : Except Nat QCtx :=
  let w := h.entry.word
  let op := wordOp w
  let qd := bits w 64 16 * 64
  let mode := if op = 2 then bits w 80 2 else 0
  let x := QCtx.taken h.seq mode (op == 3)
  if sPoisoned s core qd 64 then .error errPoison
  else match descOf h.entry.counters (sBytes s core qd 64) with
    | none => .error errShape
    | some d =>
      if !extentsOk d (op == 3) then .error errRange
      else
        let sv : Except Nat Sieve :=
          if op = 4 ∨ d.sieve = 0xFFFFFFFF then .ok { maps := [], ops := [] }
          else if sPoisoned s core d.sieve 128 then .error errPoison
          else match sieveOf h.entry.counters (sBytes s core d.sieve 128) with
            | some v => .ok v
            | none => .error errShape
        match sv with
        | .error e => .error e
        | .ok v =>
          let n := if op = 2 then (if mode = 1 then bits w 144 32 else 0) else if op = 3 then bits w 144 11 else bits w 144 7
          let src := seSrc h
          if n ≠ 0 ∧ sSize < src + 4 * n then .error errRange
          else if n ≠ 0 ∧ sPoisoned s core src (4 * n) then .error errPoison
          else
            let ls := (List.range n).map (fun i => sNum s core (src + 4 * i) 4)
            let y : QCtx := { x with desc := d, sieve := v }
            if op = 3 then .ok { y with seeds := ls }
            else if op = 4 then .ok { y with lists := ls }
            else if mode = 0 then
              (if 2 ^ 48 ≤ bits w 176 48 + bits w 144 32 - 1 then .error errShape
               else .ok { y with src := src, first := bits w 176 48, count := bits w 144 32 })
            else .ok { y with lists := ls, src := src }

/-- Two commands' output lists overlap (R209). -/
def overlaps (a b : QDesc) : Bool := decide (a.topk < b.topk + listSize b.k) && decide (b.topk < a.topk + listSize a.k)

/-- A command popped earlier, and not complete, has an overlapping output list. -/
def listHeld (s : State) (core q : Nat) (x : QCtx) : Bool :=
  (searchOf s core).qctxs.any (fun e => e.1 != q && decide (e.2.heldSeq < x.heldSeq) && e.2.desc.k != 0 && overlaps e.2.desc x.desc)

/-- The input list of a mode 2 scan, read whole before the first write (R209, R231). -/
def rerankInput (s : State) (core : Nat) (x : QCtx) : Except Nat (List Rec) :=
  if x.isProbe ∨ x.mode ≠ 2 then .ok []
  else if sSize < x.src + 32 then .error errRange
  else
    let n := sNum s core x.src 2
    if sSize < x.src + listSize n then .error errRange
    else if sPoisoned s core x.src (listSize n) then .error errPoison
    else
      let rs := recsOf s core x.src n
      if rs.any (fun r => !inShard x.desc r.id) then .error errShape else .ok rs

/-- The command begins: its input and output lists are read, its output list opens, a probe marks what the list holds, and the
prologue or the first candidate follows (R217, R222, R233). -/
def beginSearch (s : State) (core q : Nat) (h : Held) (x : QCtx) : State :=
  let d := x.desc
  match rerankInput s core x with
  | .error e => failPlain s core q h e
  | .ok inp =>
    if !d.fresh ∧ sPoisoned s core d.topk (listSize d.k) then failPlain s core q h errPoison
    else if !d.fresh ∧ !listOk s core d.topk d.k then failPlain s core q h errList
    else
      let n := if d.fresh then 0 else sNum s core d.topk 2
      let fl := if d.fresh then 0 else sNum s core (d.topk + 4) 1
      let s1 := if d.fresh then sWrite s core d.topk (headerBytes 0 d.k 1 0xFFFFFFFF 0 0) else sWrite s core (d.topk + 4) (leBytes 1 (fl ||| 1))
      let s2 := updQ s1 core q (fun y => { y with
        input := inp, listed := n, nan := bit fl 1, poison := bit fl 2
        scored := if d.fresh then 0 else sNum s core (d.topk + 0x10) 8
        filtered := if d.fresh then 0 else sNum s core (d.topk + 0x18) 8 })
      let s3 := if x.isProbe && d.vclear then sWrite s2 core d.visited (zeroBytes (2 ^ d.vbits / 8)) else s2
      let shard := if x.isProbe then ((recsOf s3 core d.topk n).map Rec.id).filter (inShard d) else []
      if shard.any (fun i => visitRange d (i - d.idBase)) then failPlain s3 core q h errRange
      else
        let s4 := shard.foldl (fun a i => markVisited a core d (i - d.idBase)) s3
        if d.prologue ≤ 1023 then updQ s4 core q (fun y => { y with state := .ready, pc := d.prologue, inPrologue := true })
        else nextCandidate s4 core q

/-- A context in LOAD or WAIT_LIST goes on when its command may start and its list is free. -/
def startSearch (s : State) (core q : Nat) (begin_ : State → Nat → Nat → Held → QCtx → State) : State :=
  match qctxOf s core q, qHeld s core q with
  | some x, some h =>
    if h.done ∨ !canStart s core 3 h then s
    else
      let s1 := if h.latch.isNone then updHeld (acquireFor s core 3 h) core 3 h.seq (fun y => { y with latch := some [] }) else s
      if listHeld s1 core q x then updQ s1 core q (fun y => { y with state := .waitList }) else begin_ s1 core q h x
  | _, _ => s

/-- Whether the SLOAD that the engine has chosen still waits at its queue's head, and its thread context. -/
def chosenHead (s : State) (core : Nat) : Option Head :=
  match (searchOf s core).chosen with
  | none => none
  | some c => (headsOf s core 3).find? (fun h => h.ctx == c && wordOp h.entry.word == 1)

/-- An SLOAD that the engine holds and has not carried out. -/
def sloadHeld (s : State) (core : Nat) : Option Held :=
  (engineOf s core 3).held.find? (fun h => wordOp h.entry.word == 1 && !h.done)

/-- The engine has chosen an SLOAD and pops no other command until it completes (R207). -/
def sloadChosen (s : State) (core : Nat) : Bool :=
  (chosenHead s core).isSome || (engineOf s core 3).held.any (fun h => wordOp h.entry.word == 1)

/-- Pop a search command into the lowest free context, when the chosen head is of the operation (R207). -/
def popSearch (s : State) (core op : Nat) : State × Option Nat :=
  if sloadChosen s core then (s, none)
  else match freeQctx s core, chooseHead s core 3 (headsOf s core 3) with
    | some q, some hd =>
      if wordOp hd.entry.word ≠ op then (s, none)
      else
        let p := popHead s core 3 hd
        let s1 := updSearch p.1 core (fun u => { u with qctxs := Tab.insert u.qctxs q (QCtx.taken p.2.seq 0 (op == 3)) })
        match readRecords s1 core p.2 with
        | .ok x => (updQ s1 core q (fun _ => x), some q)
        | .error e => (failPlain s1 core q p.2 e, none)
    | _, _ => (s, none)

/-- The contexts that hold commands of an operation and stand still for memory, for their list or for their start. -/
def stillQ (s : State) (core op : Nat) : List Nat :=
  (searchOf s core).qctxs.filterMap (fun e =>
    match heldCmd s core 3 e.2.heldSeq with
    | some h => if wordOp h.entry.word = op ∧ !h.done ∧ (e.2.state = .load ∨ e.2.state = .waitList ∨ e.2.state = .waitMem) then some e.1 else none
    | none => none)

/-- A context that stands still is taken up again. -/
def resumeQ (s : State) (core q : Nat) (begin_ : State → Nat → Nat → Held → QCtx → State) : State :=
  match qctxOf s core q with
  | some x => if x.state = .waitMem then nextCandidate s core q else startSearch s core q begin_
  | none => s

/-- A search row: contexts that stand still are taken up, then a command is popped and started. -/
def searchRow (s : State) (core op : Nat) (begin_ : State → Nat → Nat → Held → QCtx → State) : State :=
  if !coreRuns s core then s
  else
    let s1 := (stillQ s core op).foldl (fun a q => resumeQ a core q begin_) s
    let p := popSearch s1 core op
    match p.2 with
    | some q => startSearch p.1 core q begin_
    | none => p.1

def execScan (core : Nat) (s : State) : Host.Outcome State Fault Refusal := .next (settle (searchRow s core 0x02 beginSearch))

def execGprobe (core : Nat) (s : State) : Host.Outcome State Fault Refusal := .next (settle (searchRow s core 0x03 beginSearch))

/-! ### KMERGE (R234) -/

/-- One record per item ID: the smallest key, and the flags of every copy of that key. -/
def mergeOne (rs : List Rec) (r : Rec) : List Rec :=
  match takeFirst (fun (x : Rec) => x.id == r.id) rs with
  | none => r :: rs
  | some (x, rest) =>
    if x.key < r.key then rs
    else if r.key < x.key then r :: rest
    else { x with expanded := x.expanded || r.expanded, reranked := x.reranked || r.reranked } :: rest

/-- The merged list of records. -/
def mergeRecs (k : Nat) (rs : List Rec) : List Rec :=
  ((rs.foldl mergeOne []).foldl (fun a r => insertRec (rs.length + 1) a r) []).take k

/-- An input list of KMERGE: why it fails the command, or nothing. -/
def mergeInputBad (s : State) (core o : Nat) : Option Nat :=
  if o % 32 ≠ 0 then some errShape
  else if sSize < o + 32 then some errRange
  else if sSize < o + listSize (sNum s core (o + 2) 2) then some errRange
  else if sPoisoned s core o (listSize (sNum s core (o + 2) 2)) then some errPoison
  else if !listOk s core o (sNum s core (o + 2) 2) then some errList
  else none

/-- KMERGE runs whole: every input is read before the output is written. -/
def beginMerge (s : State) (core q : Nat) (h : Held) (x : QCtx) : State :=
  let d := x.desc
  let outBad : Option Nat :=
    if d.fresh then none
    else if sPoisoned s core d.topk (listSize d.k) then some errPoison
    else if !listOk s core d.topk d.k then some errList else none
  match (x.lists.map (mergeInputBad s core) ++ [outBad]).find? Option.isSome with
  | some (some e) => failPlain s core q h e
  | _ =>
    let ins := x.lists ++ (if d.fresh then [] else [d.topk])
    let rs := ins.flatMap (fun o => recsOf s core o (sNum s core o 2))
    let fl := ins.foldl (fun a o => a ||| sNum s core (o + 4) 1) 0
    let m := mergeRecs d.k rs
    let sum := fun (off : Nat) => ins.foldl (fun a o => satAdd (2 ^ 64 - 1) a (sNum s core (o + off) 8)) 0
    let s1 := updQ (writeRecs s core d.topk m) core q (fun y => { y with
      listed := m.length, nan := bit fl 1, poison := bit fl 2, scored := sum 0x10, filtered := sum 0x18 })
    closeList s1 core q

def execKmerge (core : Nat) (s : State) : Host.Outcome State Fault Refusal := .next (settle (searchRow s core 0x04 beginMerge))

/-! ### SLOAD (R207, R223, R224) -/

/-- Words of a store. -/
def ucWords : Nat := 1024

/-- An image's header, as first word and count: none when it breaks R224. -/
def imageOf (d : List Byte) : Option (Nat × Nat) :=
  let at_ := field d 2 2
  let n := field d 4 2
  if field d 0 2 = 1 ∧ 256 ≤ at_ ∧ at_ ≤ 1023 ∧ 1 ≤ n ∧ at_ + n ≤ ucWords ∧ field d 6 2 = 0 ∧ field d 0x0C 52 = 0 then some (at_, n) else none

/-- A word of the store belongs to another context. -/
def taggedOther (s : State) (core i c : Nat) : Bool :=
  match Tab.find? (coreOf s core).ucode i with
  | some w => !w.shared && w.context != c
  | none => false

/-- SLOAD writes its image, or fails and writes nothing. -/
def sloadMain (h : Held) (r : Run) : Run :=
  match refOf h.entry.counters (sloadRef h.entry.word) with
  | some (.m va) =>
    let hd := r.readM va 64 .rd false
    if !hd.2.going then hd.2
    else if hd.1.2 then hd.2.fail errPoison
    else match imageOf hd.1.1 with
      | none => hd.2.fail errImage
      | some (at_, n) =>
        if (range at_ n).any (fun i => taggedOther r.s r.core i r.context) then hd.2.fail errImage
        else
          let g := hd.2.readM ((va + 64) % 2 ^ 57) (16 * n) .rd false
          if !g.2.going then g.2
          else if g.1.2 then g.2.fail errPoison
          else { g.2 with s := updCore g.2.s r.core (fun c => { c with
              imageId := field hd.1.1 8 4
              ucode := (List.range n).foldl (fun t i => Tab.insert t (at_ + i)
                { word := field g.1.1 (16 * i) 16, shared := false, context := r.context }) c.ucode }) }
  | _ => r.fail errImage

/-- Run the SLOAD that the engine holds. -/
def trySload (s : State) (core : Nat) (h : Held) : State :=
  if !canStart s core 3 h then s
  else
    let s1 := if h.latch.isNone then updHeld (acquireFor s core 3 h) core 3 h.seq (fun y => { y with latch := some [] }) else s
    let r := sloadMain h (runOf s1 core 3 h)
    match r.stop with
    | .fail _ _ => setF (finishRun r h) F.SE_ERR_qctx core 0
    | _ => finishRun r h

/-- SLOAD's row: the engine chooses it, lets every context become free, pops it and runs it. -/
def sloadRow (s : State) (core : Nat) : State :=
  if !coreRuns s core then s
  else match sloadHeld s core with
    | some h => trySload s core h
    | none =>
      let s1 := match chosenHead s core with
        | some _ => s
        | none =>
          if (engineOf s core 3).held.any (fun h => wordOp h.entry.word == 1) then s
          else updSearch s core (fun u => { u with chosen := match chooseHead s core 3 (headsOf s core 3) with
            | some h => if wordOp h.entry.word = 1 then some h.ctx else none
            | none => none })
      match chosenHead s1 core with
      | none => s1
      | some hd =>
        if !(searchOf s1 core).qctxs.isEmpty then s1
        else
          let p := popHead s1 core 3 hd
          let s2 := updSearch p.1 core (fun u => { u with qctxs := Tab.insert u.qctxs 0 (QCtx.taken p.2.seq 0 false) })
          trySload s2 core p.2

def execSload (core : Nat) (s : State) : Host.Outcome State Fault Refusal := .next (settle (sloadRow s core))

/-! ### The insertion unit (R214, R215) -/

/-- A context that waited for the insertion unit goes on: its emission is tried again, its round begins, or its list
closes. -/
def afterInsert (s : State) (core q : Nat) : State :=
  match qctxOf s core q with
  | none => s
  | some x =>
    if x.state = .waitIns then
      (if !x.vec.isEmpty then updQ s core q (fun y => { y with state := .ready })
       else if waitingInserts s core q then s else nextCandidate s core q)
    else if x.state = .close ∧ !waitingInserts s core q ∧ (qHeld s core q).any (fun h => !h.done) then closeList s core q
    else s

/-- The oldest candidate is inserted where R214 puts it, when it still enters. -/
def insertCandidate (s : State) (core : Nat) : State :=
  match (searchOf s core).inserts with
  | [] => s
  | c :: rest =>
    let s1 := updSearch s core (fun u => { u with inserts := rest })
    let s2 := match qctxOf s1 core c.qctx with
      | none => s1
      | some x =>
        let rs := recsOf s1 core x.desc.topk x.listed
        let new := insertRec x.desc.k rs { id := c.id, key := c.key, expanded := false, reranked := c.reranked }
        updQ (writeRecs s1 core x.desc.topk new) core c.qctx (fun y => { y with listed := new.length })
    ((searchOf s2 core).qctxs.map Prod.fst).foldl (fun a q => afterInsert a core q) s2

def execCandidateInsert (core : Nat) (s : State) : Host.Outcome State Fault Refusal :=
  .next (settle (if coreRuns s core then insertCandidate s core else s))

/-! ### The Sieve bitmap cache (R228) -/

/-- SE_BMC_CTRL.flush drops every line; INT_RAW bit 0 reports its end (Table 6.14). -/
def bmcFlush (s : State) (cluster : Nat) : State :=
  let page := F.SE_BMC_CTRL_flush.page + cluster
  if 24 ≤ cluster ∨ pageDown s page ∨ !pageExists s page then s
  else raise { s with bitmaps := Tab.setC [] s.bitmaps cluster [] } page 0

def execSeBmcFlush (cluster : Nat) (s : State) : Host.Outcome State Fault Refusal := .next (settle (bmcFlush s cluster))

end Sys2Proof.Machine
end

