-- ==== Sys2Proof/Machine/Microcode.lean ====
section
/-! DEFINITION. Distance microcode (ch. 6): microwords, the stock images of Table 6.8, the scheduler and the operations of
Table 6.7. -/

namespace Sys2Proof.Machine

/-! ### Microwords (Table 6.6) -/

/-- The fields of a microword. -/
structure Uw where
  op : Nat
  d : Nat
  a : Nat
  b : Nat
  vs : Nat
  vt : Nat
  et : Nat
  n : Nat
  off : Nat
  imm : Nat
  tgt : Nat
  cond : Nat
  deriving DecidableEq, Repr

/-- A microword whose fields are all 0. -/
def Uw.zero : Uw := { op := 0, d := 0, a := 0, b := 0, vs := 0, vt := 0, et := 0, n := 0, off := 0, imm := 0, tgt := 0, cond := 0 }

/-- Read a microword. -/
def uw (w : Nat) : Uw :=
  { op := bits w 0 8, d := bits w 8 4, a := bits w 12 4, b := bits w 16 4, vs := bits w 20 4, vt := bits w 24 4, et := bits w 28 4,
    n := bits w 32 16, off := bits w 48 16, imm := bits w 64 32, tgt := bits w 96 10, cond := bits w 106 4 }

/-- Write a microword. -/
def Uw.encode (u : Uw) : Nat :=
  u.op + u.d * 2 ^ 8 + u.a * 2 ^ 12 + u.b * 2 ^ 16 + u.vs * 2 ^ 20 + u.vt * 2 ^ 24 + u.et * 2 ^ 28 + u.n * 2 ^ 32 + u.off * 2 ^ 48 +
    u.imm * 2 ^ 64 + u.tgt * 2 ^ 96 + u.cond * 2 ^ 106

/-- Fields that an operation uses: d, a, b, vector sources A and B, element type, steps and offset, imm, tgt and cond. -/
structure Uses where
  d : Bool := false
  a : Bool := false
  b : Bool := false
  vs : Bool := false
  vt : Bool := false
  et : Bool := false
  steps : Bool := false
  imm : Bool := false
  tgt : Bool := false
  cond : Bool := false
  deriving DecidableEq, Repr

/-- Table 6.7: what each operation uses, none for an undefined one. -/
def usesOf (op : Nat) : Option Uses :=
  match op with
  | 0x00 | 0x05 | 0x06 | 0x16 => some {}
  | 0x01 => some { tgt := true }
  | 0x02 => some { a := true, imm := true, tgt := true, cond := true }
  | 0x03 | 0x04 => some { a := true }
  | 0x10 | 0x11 | 0x12 | 0x13 => some { vs := true, vt := true, et := true, steps := true }
  | 0x14 => some { vs := true, vt := true, steps := true }
  | 0x15 => some { vs := true, steps := true }
  | 0x17 => some { b := true, vs := true, vt := true, et := true, steps := true }
  | 0x20 => some { d := true }
  | 0x30 => some { d := true, imm := true }
  | 0x31 | 0x32 | 0x33 | 0x39 | 0x3A => some { d := true, a := true, b := true }
  | 0x34 | 0x38 | 0x3B | 0x3C => some { d := true, a := true }
  | 0x35 => some { d := true, a := true, imm := true }
  | 0x41 => some { a := true, b := true, imm := true }
  | _ => none

/-- A microword obeys Tables 6.6 and 6.7 (R218, R222): a defined operation, unused and reserved fields 0, used fields inside
their ranges for vectors of vlen bytes. -/
def uwOk (w vlen : Nat) : Bool :=
  let u := uw w
  match usesOf u.op with
  | none => false
  | some k =>
    bits w 110 18 == 0 && (k.d || u.d == 0) && (k.a || u.a == 0) && (k.b || u.b == 0) &&
    (if k.vs then decide (u.vs ≤ 2) else u.vs == 0) && (if k.vt then decide (u.vt ≤ 2) else u.vt == 0) &&
    (if k.et then decide (u.et ≤ 1) else u.et == 0) &&
    (if k.steps then decide (u.n ≤ 64) && decide (u.off < vlen) else u.n == 0 && u.off == 0) &&
    (k.imm || u.imm == 0) && (k.tgt || u.tgt == 0) && (if k.cond then decide (u.cond ≤ 3) else u.cond == 0)

/-! ### The store (R217, R223, Table 6.8) -/

/-- A vector operation over whole vectors. -/
def Uw.vec (op vs vt et : Nat) : Uw := { Uw.zero with op := op, vs := vs, vt := vt, et := et }
/-- RSUM into a register. -/
def Uw.rsum (d : Nat) : Uw := { Uw.zero with op := 0x20, d := d }
/-- A scalar operation. -/
def Uw.scalar (op d a b : Nat) : Uw := { Uw.zero with op := op, d := d, a := a, b := b }

/-- The stock images of Table 6.8 whose words follow from their results and cycle counts; the worked example of ch. 6 writes
out the first. -/
def stockImages : List (Nat × Uw) :=
  [(0, .vec 0x11 0 1 0), (1, .rsum 0), (2, .scalar 0x03 0 0 0),
   (4, .vec 0x11 0 1 1), (5, .rsum 0), (6, .scalar 0x03 0 0 0),
   (8, .vec 0x10 0 1 0), (9, .rsum 0), (10, .scalar 0x34 0 0 0), (11, .scalar 0x03 0 0 0),
   (16, .vec 0x10 1 1 0), (17, .rsum 8), (18, .scalar 0x38 8 8 0), (19, .scalar 0x3B 8 8 0), (20, .scalar 0x05 0 0 0),
   (24, .vec 0x10 0 1 0), (25, .rsum 0), (26, .scalar 0x16 0 0 0), (27, .vec 0x10 0 0 0), (28, .rsum 1), (29, .scalar 0x38 0 0 0),
   (30, .scalar 0x38 1 1 0), (31, .scalar 0x3B 1 1 0), (32, .scalar 0x39 0 0 1), (33, .scalar 0x39 0 0 8), (34, .scalar 0x3C 0 0 0),
   (35, .scalar 0x04 0 0 0),
   (48, .vec 0x14 0 1 0), (49, .rsum 0), (50, .scalar 0x03 0 0 0),
   (52, .vec 0x13 0 1 1), (53, .rsum 0), (54, .scalar 0x03 0 0 0),
   (96, .vec 0x15 0 0 0), (97, .rsum 0), (98, .scalar 0x03 0 0 0)]

/-- A stock word: of a stock image, else what the firmware image holds there. -/
def stockAt (version i : Nat) : Nat :=
  match stockImages.find? (fun e => e.1 == i) with
  | some e => e.2.encode
  | none => Config.stockWord version i

/-- The version of the stock images that a core's store holds. -/
def stockVersion (s : State) (core : Nat) : Nat := Tab.getC s.henyen.stock.version s.henyen.stockVer (partOfCore core)

/-- A word of a core's microcode store, none for one that nothing has written. -/
def ucWordAt (s : State) (core i : Nat) : Option UcWord :=
  if i < 256 then some { word := stockAt (stockVersion s core) i, shared := true, context := 0 }
  else Tab.find? (coreOf s core).ucode i

/-- The word that a context steps to, when it may (R222, R223) and obeys the tables. -/
def stepWord (s : State) (core : Nat) (x : QCtx) (c : Nat) : Option Uw :=
  match ucWordAt s core x.pc with
  | none => none
  | some w => if (w.shared || w.context == c) && uwOk w.word x.desc.vlen then some (uw w.word) else none

/-! ### The scheduler (R208) -/

/-- The READY context that issues next. -/
def readyQ (s : State) (core : Nat) : Option Nat :=
  roundRobin (searchOf s core).lastIssued
    (((searchOf s core).qctxs.filter (fun e => decide (e.2.state = .ready))).map Prod.fst)

/-- A microword row: when the next step to issue is of this operation it takes effect; a step that R222 forbids fails its
command with UCODE. -/
def ucRow (s : State) (core op : Nat) (act : State → Nat → Held → QCtx → Uw → State) : State :=
  if !coreRuns s core then s
  else match readyQ s core with
    | none => s
    | some q =>
      match qctxOf s core q, qHeld s core q with
      | some x, some h =>
        let s1 := updSearch s core (fun u => { u with lastIssued := q })
        (match stepWord s core x (streamCtx s h.handle) with
        | none => failPlain s1 core q h errUcode
        | some w => if w.op = op then act s1 q h x w else s)
      | _, _ => s

/-- Go on to the next word. -/
def stepOn (s : State) (core q : Nat) (f : QCtx → QCtx) : State := updQ s core q (fun x => { f x with pc := x.pc + 1 })

/-! ### Candidates (R213, R215) -/

/-- The candidate's kernel has ended. -/
def endCandidate (s : State) (core q : Nat) : State := nextCandidate (updQ s core q (fun x => { x with vec := [] })) core q

/-- EMIT: outside a kernel it fails; a NaN sets the list's flag; a candidate that cannot enter costs nothing; a full queue makes
the context wait. -/
def emitKey (s : State) (core q : Nat) (h : Held) (x : QCtx) (key : Option Nat) : State :=
  if x.inPrologue then failPlain s core q h errUcode
  else match key with
    | none => endCandidate (updQ s core q (fun y => { y with nan := true })) core q
    | some k =>
      let r : Rec := { id := x.candId, key := k, expanded := false, reranked := !x.isProbe && x.mode == 2 }
      let enters := decide (x.listed < x.desc.k) || r.before (recAt s core x.desc.topk (x.listed - 1))
      if !enters then endCandidate s core q
      else if 16 ≤ (searchOf s core).inserts.length then updQ s core q (fun y => { y with state := .waitIns })
      else endCandidate (updSearch s core (fun u => { u with
        inserts := u.inserts ++ [{ qctx := q, id := x.candId, key := k, reranked := r.reranked }] })) core q

/-- A scalar register. -/
def sreg (x : QCtx) (i : Nat) : Nat := (nth 0 x.sregs i).toNat

/-- The key of EMITI. -/
def keyInt (v : Nat) : Nat :=
  let z := signed 64 v
  let c : Int := if z < -(2 ^ 31) then -(2 ^ 31) else if 2 ^ 31 - 1 < z then 2 ^ 31 - 1 else z
  unsigned 32 c ^^^ 0x80000000

/-- The key of EMITF; none for a NaN. -/
def keyFp (v : Nat) : Option Nat :=
  let b := v % 2 ^ 32
  if (val32 b).isNan then none
  else if b = 0x80000000 then some 0x80000000
  else if bit b 31 then some (b ^^^ 0xFFFFFFFF) else some (b ||| 0x80000000)

/-! ### Vector operations (R219 to R221) -/

/-- The bytes of a vector source from an index: none where the S-space extent runs past its end, with the poison of what was
read. A prologue has no candidate: V reads as free values there. -/
def vecBytes (s : State) (core : Nat) (x : QCtx) (src start n : Nat) : Option (List Byte × Bool) :=
  match src with
  | 0 =>
    if x.vec.isEmpty then some ((List.range n).map (fun i => BitVec.ofNat 8 (Config.freeNat (s.free + i))), false)
    else some ((List.range n).map (fun i => nth 0 x.vec (start + i)), false)
  | k =>
    let base := (if k = 1 then x.desc.query else x.desc.aux) + start
    if sSize < base + n then none else some (sBytes s core base n, sPoisoned s core base n)

/-- Bytes that a vector operation takes from off on: n steps, or to the end of the vector. -/
def vecLen (w : Uw) (vlen : Nat) : Nat := if w.n = 0 then vlen - w.off else min (64 * w.n) (vlen - w.off)

/-- An element of a vector source. -/
def elemVal (et : Nat) (b : Byte) : Int := if et = 0 then b.toInt else (b.toNat : Int)

/-- Number of one bits of a byte. -/
def popcount (b : Nat) : Nat := ((List.range 8).filter (fun i => bit b i)).length

/-- Add terms to the lanes, term m to lane m mod 64. A sum that a lane's 32 bits cannot hold is a free value (R221 states none). -/
def addLanes (s : State) (acc : List W32) (terms : List Int) : List W32 × State :=
  let sums := (List.range 64).map (fun j =>
    (nth (0 : W32) acc j).toInt + ((List.range (ceilDiv terms.length 64)).map (fun i => nth 0 terms (64 * i + j))).sum)
  let bad := fun (z : Int) => decide (z < -(2 ^ 31)) || decide (2 ^ 31 ≤ z)
  if sums.any bad then
    ((List.range 64).map (fun j => if bad (nth 0 sums j) then BitVec.ofNat 32 (Config.freeNat (s.free + j)) else BitVec.ofInt 32 (nth 0 sums j)),
     { s with free := s.free + 64 })
  else (sums.map (BitVec.ofInt 32), s)

/-- A vector operation: its sources' bytes, one term each, into the lanes. -/
def vecOp (s : State) (core q : Nat) (h : Held) (x : QCtx) (w : Uw) (shift : Nat) (two aux : Bool)
    (term : Byte → Byte → Byte → Int) : State :=
  let n := vecLen w x.desc.vlen
  let startB := (w.off + shift) % 2 ^ 64
  match vecBytes s core x w.vs w.off n, (if two then vecBytes s core x w.vt startB n else some ([], false)),
      (if aux then vecBytes s core x 2 w.off n else some ([], false)) with
  | some a, some b, some c =>
    if a.2 || b.2 || c.2 then failPlain s core q h errPoison
    else
      let terms := (List.range n).map (fun i =>
        -- a candidate's bytes past vlen add nothing
        if two && w.vt == 0 && !x.vec.isEmpty && decide (x.desc.vlen ≤ startB + i) then 0
        else term (nth 0 a.1 i) (nth 0 b.1 i) (nth 0 c.1 i))
      let s1 := if x.vec.isEmpty then { s with free := s.free + n } else s
      let r := addLanes s1 x.acc terms
      stepOn r.2 core q (fun y => { y with acc := r.1 })
  | _, _, _ => failPlain s core q h errRange

/-- VLUT: the table entry of each code. -/
def vlutOp (s : State) (core q : Nat) (h : Held) (x : QCtx) (w : Uw) : State :=
  let n := vecLen w x.desc.vlen
  match vecBytes s core x w.vs w.off n with
  | none => failPlain s core q h errRange
  | some a =>
    let addr := fun (i : Nat) => x.desc.aux + (256 * i + (nth 0 a.1 i).toNat) * 2
    if (List.range n).any (fun i => decide (sSize < addr i + 2)) then failPlain s core q h errRange
    else if a.2 || (List.range n).any (fun i => sPoisoned s core (addr i) 2) then failPlain s core q h errPoison
    else
      let s1 := if x.vec.isEmpty then { s with free := s.free + n } else s
      let r := addLanes s1 x.acc ((List.range n).map (fun i => (sNum s core (addr i) 2 : Int)))
      stepOn r.2 core q (fun y => { y with acc := r.1 })

/-! ### Scalar operations -/

/-- Write a scalar register. -/
def setS (s : State) (core q d v : Nat) : State :=
  stepOn s core q (fun x => { x with sregs := setNth x.sregs d (BitVec.ofNat 64 v) })

/-- The sign-extended immediate in 64 bits. -/
def immOf (w : Uw) : Nat := unsigned 64 (signed 32 w.imm)

/-- An FP32 result: rounded once to nearest-even, a NaN canonical (R220). -/
def fpBits (v : FV) : Nat := (encodeVal 0 false v).1.getD 0

/-- The condition of BR. -/
def brCond (w : Uw) (v : Nat) : Bool :=
  let a := signed 64 v
  let b := signed 32 w.imm
  match w.cond with
  | 0 => decide (a = b)
  | 1 => decide (a ≠ b)
  | 2 => decide (a < b)
  | _ => decide (b ≤ a)

/-- STH: a 16-bit entry of the aux area. -/
def sthOp (s : State) (core q : Nat) (h : Held) (x : QCtx) (w : Uw) : State :=
  let a : Int := (x.desc.aux : Int) + signed 32 w.imm + signed 64 (sreg x w.b)
  let v := signed 64 (sreg x w.a)
  if a < 0 ∨ (sSize : Int) < a + 2 then failPlain s core q h errRange
  else stepOn (sWrite s core a.toNat (leBytes 2 (if v < 0 then 0 else if 65535 < v then 65535 else v.toNat))) core q id

/-! ### The rows -/

def execUcNop (core : Nat) (s : State) : Host.Outcome State Fault Refusal :=
  .next (settle (ucRow s core 0x00 (fun s q _ _ _ => stepOn s core q id)))

def execUcJmp (core : Nat) (s : State) : Host.Outcome State Fault Refusal :=
  .next (settle (ucRow s core 0x01 (fun s q _ _ w => updQ s core q (fun x => { x with pc := w.tgt }))))

def execBr (core : Nat) (s : State) : Host.Outcome State Fault Refusal :=
  .next (settle (ucRow s core 0x02 (fun s q _ x w =>
    if brCond w (sreg x w.a) then updQ s core q (fun x => { x with pc := w.tgt }) else stepOn s core q id)))

def execEmiti (core : Nat) (s : State) : Host.Outcome State Fault Refusal :=
  .next (settle (ucRow s core 0x03 (fun s q h x w => emitKey s core q h x (some (keyInt (sreg x w.a))))))

def execEmitf (core : Nat) (s : State) : Host.Outcome State Fault Refusal :=
  .next (settle (ucRow s core 0x04 (fun s q h x w => emitKey s core q h x (keyFp (sreg x w.a)))))

/-- RET ends the prologue; in a kernel it fails the command. -/
def retOp (s : State) (core q : Nat) (h : Held) (x : QCtx) : State :=
  if x.inPrologue then nextCandidate (updQ s core q (fun y => { y with inPrologue := false })) core q
  else failPlain s core q h errUcode

def execUcRet (core : Nat) (s : State) : Host.Outcome State Fault Refusal :=
  .next (settle (ucRow s core 0x05 (fun s q h x _ => retOp s core q h x)))

def execSkip (core : Nat) (s : State) : Host.Outcome State Fault Refusal :=
  .next (settle (ucRow s core 0x06 (fun s q h x _ => if x.inPrologue then failPlain s core q h errUcode else endCandidate s core q)))

def execVdot (core : Nat) (s : State) : Host.Outcome State Fault Refusal :=
  .next (settle (ucRow s core 0x10 (fun s q h x w =>
    vecOp s core q h x w 0 true false (fun a b _ => elemVal w.et a * elemVal w.et b))))

def execVsqd (core : Nat) (s : State) : Host.Outcome State Fault Refusal :=
  .next (settle (ucRow s core 0x11 (fun s q h x w =>
    vecOp s core q h x w 0 true false (fun a b _ => (elemVal w.et a - elemVal w.et b) * (elemVal w.et a - elemVal w.et b)))))

def execVabsd (core : Nat) (s : State) : Host.Outcome State Fault Refusal :=
  .next (settle (ucRow s core 0x12 (fun s q h x w =>
    vecOp s core q h x w 0 true false (fun a b _ => ((elemVal w.et a - elemVal w.et b).natAbs : Int)))))

def execVwabsd (core : Nat) (s : State) : Host.Outcome State Fault Refusal :=
  .next (settle (ucRow s core 0x13 (fun s q h x w =>
    vecOp s core q h x w 0 true true (fun a b c => (c.toNat : Int) * ((elemVal w.et a - elemVal w.et b).natAbs : Int)))))

def execVxpop (core : Nat) (s : State) : Host.Outcome State Fault Refusal :=
  .next (settle (ucRow s core 0x14 (fun s q h x w =>
    vecOp s core q h x w 0 true false (fun a b _ => (popcount (a ^^^ b).toNat : Int)))))

def execVlut (core : Nat) (s : State) : Host.Outcome State Fault Refusal :=
  .next (settle (ucRow s core 0x15 (fun s q h x w => vlutOp s core q h x w)))

def execVclr (core : Nat) (s : State) : Host.Outcome State Fault Refusal :=
  .next (settle (ucRow s core 0x16 (fun s q _ _ _ => stepOn s core q (fun x => { x with acc := List.replicate 64 0 }))))

def execVsqdx (core : Nat) (s : State) : Host.Outcome State Fault Refusal :=
  .next (settle (ucRow s core 0x17 (fun s q h x w =>
    vecOp s core q h x w (sreg x w.b) true false (fun a b _ => (elemVal w.et a - elemVal w.et b) * (elemVal w.et a - elemVal w.et b)))))

def execRsum (core : Nat) (s : State) : Host.Outcome State Fault Refusal :=
  .next (settle (ucRow s core 0x20 (fun s q _ x w => setS s core q w.d (unsigned 64 ((x.acc.map BitVec.toInt).sum)))))

def execSmov (core : Nat) (s : State) : Host.Outcome State Fault Refusal :=
  .next (settle (ucRow s core 0x30 (fun s q _ _ w => setS s core q w.d (immOf w))))

def execSadd (core : Nat) (s : State) : Host.Outcome State Fault Refusal :=
  .next (settle (ucRow s core 0x31 (fun s q _ x w => setS s core q w.d (sreg x w.a + sreg x w.b))))

def execSsub (core : Nat) (s : State) : Host.Outcome State Fault Refusal :=
  .next (settle (ucRow s core 0x32 (fun s q _ x w => setS s core q w.d (sreg x w.a + 2 ^ 64 - sreg x w.b))))

def execSmul (core : Nat) (s : State) : Host.Outcome State Fault Refusal :=
  .next (settle (ucRow s core 0x33 (fun s q _ x w => setS s core q w.d (sreg x w.a * sreg x w.b))))

def execSneg (core : Nat) (s : State) : Host.Outcome State Fault Refusal :=
  .next (settle (ucRow s core 0x34 (fun s q _ x w => setS s core q w.d (2 ^ 64 - sreg x w.a))))

def execSaddi (core : Nat) (s : State) : Host.Outcome State Fault Refusal :=
  .next (settle (ucRow s core 0x35 (fun s q _ x w => setS s core q w.d (sreg x w.a + immOf w))))

def execFcvt (core : Nat) (s : State) : Host.Outcome State Fault Refusal :=
  .next (settle (ucRow s core 0x38 (fun s q _ x w => setS s core q w.d (fpBits (FV.ofInt (signed 64 (sreg x w.a)))))))

def execFmul (core : Nat) (s : State) : Host.Outcome State Fault Refusal :=
  .next (settle (ucRow s core 0x39 (fun s q _ x w =>
    setS s core q w.d (fpBits ((val32 (sreg x w.a % 2 ^ 32)).mul (val32 (sreg x w.b % 2 ^ 32)))))))

def execFadd (core : Nat) (s : State) : Host.Outcome State Fault Refusal :=
  .next (settle (ucRow s core 0x3A (fun s q _ x w =>
    setS s core q w.d (fpBits ((val32 (sreg x w.a % 2 ^ 32)).add (val32 (sreg x w.b % 2 ^ 32)))))))

def execFrsq (core : Nat) (s : State) : Host.Outcome State Fault Refusal :=
  .next (settle (ucRow s core 0x3B (fun s q _ x w =>
    setS s core q w.d (fpBits (vRsqrt (val32 (sreg x w.a % 2 ^ 32), 0)).1))))

def execFneg (core : Nat) (s : State) : Host.Outcome State Fault Refusal :=
  .next (settle (ucRow s core 0x3C (fun s q _ x w => setS s core q w.d ((sreg x w.a % 2 ^ 32) ^^^ 0x80000000))))

def execSth (core : Nat) (s : State) : Host.Outcome State Fault Refusal :=
  .next (settle (ucRow s core 0x41 (fun s q h x w => sthOp s core q h x w)))

end Sys2Proof.Machine
end

