-- ==== Sys2Proof/Machine/Pins.lean ====
section
/-! DEFINITION. The lands (ch. 20): the multiplexed management lands and their switches (R657), GPIO, what each land drives,
and VIO (R650). Land l is mio_d_j with l = 12 · d + j. -/

namespace Sys2Proof.Machine

/-- The PIN page. -/
def pinsPage : Nat := F.PIN_SWSTATE_die0.page

/-- A land. -/
def landOf (s : State) (l : Nat) : Land := Tab.get Land.reset s.pins.lands l

/-- Set a land. -/
def setLand (s : State) (l : Nat) (x : Land) : State := { s with pins := { s.pins with lands := Tab.set Land.reset s.pins.lands l x } }

/-- The functions a land offers (Table 20.9): 0 GPIO, 1 I3C, 2 UART, 3 TICK_OUT, 4 RING_OK. -/
def offered (l : Nat) : List Nat :=
  match l % 12 with
  | 0 | 1 => [0, 1]
  | 2 | 3 => [0, 2]
  | 4 => [0, 3]
  | 5 => [0, 4]
  | _ => [0]

/-- Clock period of a function in half-nanoseconds (Table 20.10), under a value of PIN_CLOCKS. -/
def functionClock (clocks f : Nat) : Nat :=
  match f with
  | 0 => 2000
  | 1 => ceilDiv 20000 (max 1 (bits clocks F.PIN_CLOCKS_i3c_rate.lo F.PIN_CLOCKS_i3c_rate.len))
  | 2 => match bits clocks F.PIN_CLOCKS_uart.lo F.PIN_CLOCKS_uart.len with
    | 0 => ceilDiv 2000000000 115200
    | 1 => 2000
    | _ => ceilDiv 2000 3
  | _ => 200

/-- A function that is always idle (R657). -/
def alwaysIdle (f : Nat) : Bool := f != 1 && f != 2

/-- The hold: twice the longer clock period of the function that last drove the land and the one requested. -/
def Land.holdFor (x : Land) (f : Nat) : Nat := 2 * max (functionClock x.clocks x.active) (functionClock x.clocks f)

/-- A land enters high impedance with its keeper, 50 ns after its old function is idle or abandoned. -/
def releaseLand (s : State) (l : Nat) : State :=
  let x := landOf s l
  setLand s l { x with state := 1, tz := s.now + 100 }

/-- A write asks for a function of a land (R657). -/
def requestFunction (s : State) (l f : Nat) : State :=
  let x := landOf s l
  if !(offered l).contains f || f == x.wanted then s
  else if x.state = 0 then
    let y := { x with wanted := f, state := 2, since := s.now, lastWrite := s.now, clocks := (rawReg s pinsPage F.PIN_CLOCKS_uart.off).toNat }
    let s1 := setLand s l { y with hold := y.holdFor f }
    if alwaysIdle x.active then releaseLand s1 l else s1
  else setLand s l { x with wanted := f, lastWrite := s.now, hold := x.holdFor f }

/-- A write of PIN_FUNC0 or PIN_FUNC1: each land whose code lies in the written half. -/
def pinFuncWrite (s : State) (d : Nat) (h : Half) (v : Nat) : State :=
  (List.range 12).foldl (fun a j =>
    if decide (h = .lower ∧ 8 ≤ j) || decide (h = .upper ∧ j < 8) then a else requestFunction a (12 * d + j) (bits (written h v) (4 * j) 4)) s

/-- The old function of a switching land is idle. -/
def oldIdle (s : State) (l : Nat) : State := if l < 24 ∧ (landOf s l).state = 2 then releaseLand s l else s

/-- The old function has not become idle within 1 ms: it is abandoned. -/
def abandonOld (s : State) (l : Nat) : State :=
  if l < 24 ∧ (landOf s l).state = 2 ∧ (landOf s l).since + 2000000 ≤ s.now then raise (releaseLand s l) pinsPage 1 else s

/-- When the requested function drives the land. -/
def Land.dueAt (x : Land) : Nat := max (x.tz + x.hold) (x.lastWrite + 100)

/-- The requested function drives the land. -/
def reachFunction (s : State) (l : Nat) : State :=
  let x := landOf s l
  if l < 24 ∧ x.state = 1 ∧ x.dueAt ≤ s.now then raise (setLand s l { x with active := x.wanted, state := 0 }) pinsPage 0 else s

/-! ### What drives the lands -/

/-- A land is under a function. -/
def underFunction (s : State) (l f : Nat) : Bool := decide ((landOf s l).state = 0) && (landOf s l).active == f

/-- What the hub drives on a multiplexed land (Table 20.9): none for high impedance and for what a transport or a UART drives.
TICK_OUT is high for 100 ns from each local edge, RING_OK while tick_ring_in carries idle or frames. -/
def landDrives (s : State) (l : Nat) : Option Bool :=
  let g := (rawReg s pinsPage 0x118).toNat
  if !s.pins.vio then none
  else if underFunction s l 0 then (if bit g (24 + l) then some (bit g l) else none)
  else if underFunction s l 3 then some (decide (s.tick.phase < 200))
  else if underFunction s l 4 then some (getF s F.PIN_RING_in_present 0 == 1)
  else none

/-- A UART land transmits and receives (R656): only while debug is open on some partition. -/
def uartLive (s : State) (l : Nat) : Bool := underFunction s l 2 && s.pins.vio && !s.eloan.debugOpen.isEmpty

/-- I3C port d carries MCTP: both its lands are under I3C and VIO is present. -/
def i3cLive (s : State) (d : Nat) : Bool := underFunction s (12 * d) 1 && underFunction s (12 * d + 1) 1 && s.pins.vio

/-- mgmt_alert_n is driven low (R575). -/
def alertLow (s : State) : Bool := !(intSum s.pendingPages).isEmpty && getF s F.HEN_CTRL_alert_en s.henyen.active == 1

/-- A sampled GPIO input changes its level. -/
def gpioChanges (s : State) (l : Nat) (level : Bool) : State :=
  let r : FRef := { page := pinsPage, off := 0x120, lo := l, len := 1 }
  if 24 ≤ l ∨ !underFunction s l 0 ∨ !s.pins.vio ∨ getF s r 0 = b2n level then s
  else raise (setF s r 0 (b2n level)) pinsPage 3

/-- VIO leaves or returns, alone (R650). -/
def vioChanges (s : State) (present : Bool) : State := { s with pins := { s.pins with vio := present } }

/-! ### The commands -/

/-- PIN_FUNC_WRITE (R657): a write of the PIN_FUNC register of a die. -/
def execPinFuncWrite (die value : Nat) (s : State) : Host.Outcome State Fault Refusal :=
  .next (settle (if die < 2 then pinFuncWrite s die .both value else s))

/-- FUNCTION_SWITCH (R657). -/
def execFunctionSwitch (land : Nat) (s : State) : Host.Outcome State Fault Refusal := .next (settle (reachFunction s land))

/-- SWITCH_ABANDON (R657). -/
def execSwitchAbandon (land : Nat) (s : State) : Host.Outcome State Fault Refusal := .next (settle (abandonOld s land))

/-- OLD_FUNCTION_IDLE (R657). -/
def execOldFunctionIdle (land : Nat) (s : State) : Host.Outcome State Fault Refusal := .next (settle (oldIdle s land))

/-- GPIO_INPUT_CHANGE (R657, Table 20.15). -/
def execGpioInputChange (land : Nat) (level : Bool) (s : State) : Host.Outcome State Fault Refusal :=
  .next (settle (gpioChanges s land level))

/-- VIO_CHANGE (R650). -/
def execVioChange (present : Bool) (s : State) : Host.Outcome State Fault Refusal := .next (settle (vioChanges s present))

end Sys2Proof.Machine
end

