-- ==== Sys2Proof/Machine/Pools.lean ====
section
/-! DEFINITION. The commands of the pools (ch. 8): writes of HUB_POOL_REQ. -/

namespace Sys2Proof.Machine

/-- POOL_PLACE (R275 to R277, R666). -/
def execPoolPlace (region pmask frames : Nat) (s : State) : Host.Outcome State Fault Refusal :=
  .next (settle (poolRequest s { place := true, region := region % 4096, pmask := pmask % 4096, frames := frames % 2 ^ 28 }))

/-- POOL_FREE (R279). -/
def execPoolFree (region frames : Nat) (s : State) : Host.Outcome State Fault Refusal :=
  .next (settle (poolRequest s { place := false, region := region % 4096, pmask := 0, frames := frames % 2 ^ 28 }))

end Sys2Proof.Machine
end

