-- ==== Sys2Proof/Machine/Power.lean ====
section
/-! DEFINITION. The commands of power, temperature and reference clocks (ch. 18), the input supply (Table 18.3) and quiescence
(R624). Times are in half-nanoseconds. -/

namespace Sys2Proof.Machine

/-! ### Quiescence (R624) -/

/-- A change of the package. -/
def updPkg (s : State) (f : PowerPkg → PowerPkg) : State := { s with pkg := f s.pkg }

/-- The package has left service. -/
def outOfService (s : State) : Bool := decide (s.pkg.state = .quiescing ∨ s.pkg.state = .quiesced)

/-- What Table 18.4 does at once: the state and its record, every instance aborted with no Wedge, every link down. -/
def stopHub (s : State) (byTemp : Bool) : State :=
  let s1 := updPkg s (fun k => { k with state := .quiescing, since := s.now, byTemp := byTemp, below75 := decide (k.vin < 7500), above114 := if 11400 ≤ k.vin then some (k.above114.getD s.now) else none })
  let s2 := addSatF (raise s1 pkgPage 1) F.PWR_PKG_DIP_quiesces 0 1
  let s3 := fault s2 { cls := 2, cause := 0x0018, page := pkgPage }
  let s4 := (s3.tick.streams.map Prod.fst).foldl abortRun s3
  let s5 := (List.range 48).foldl (fun a n => if (port a n).state = .disabled then a else portDown a n causeSoftware) s4
  (List.range 16).foldl hostLinkLost s5

/-- Quiescence begins, unless it has begun. -/
def quiesce (s : State) (byTemp : Bool) : State := if outOfService s then s else stopHub s byTemp

/-- Quiescence is complete 2 ms after it began. -/
def quiesceTime (s : State) : State :=
  if s.pkg.state = .quiescing ∧ s.pkg.since + 4000000 ≤ s.now then updPkg s (fun k => { k with state := .quiesced }) else s

/-! ### The input supply (R617, Table 18.3) -/

/-- The dip time: how long VIN lay below 10.8 V during the last 100 ms. -/
def dipTime (s : State) : Nat :=
  let from_ := s.now - 200000000
  let closed := s.pkg.dips.foldl (fun a d => a + (d.2 - max d.1 from_)) 0
  closed + (match s.pkg.dipStart with | some t => s.now - max t from_ | none => 0)

/-- A QUIESCING condition holds. -/
def supplyFails (s : State) : Bool :=
  (match s.pkg.below9 with | some t => decide (t + 4000 ≤ s.now) | none => false) || decide (20000000 ≤ dipTime s) ||
    decide (14000 < s.pkg.vin) || (match s.pkg.surgeStart with | some t => decide (t + 2000000 < s.now) | none => false)

/-- The package state follows VIN. -/
def followSupply (s : State) : State :=
  if outOfService s then quiesceTime s
  else if supplyFails s then stopHub s false
  else if s.pkg.vin < 10800 then
    if s.pkg.state = .dip then s
    else addSatF (raise (updPkg s (fun k => { k with state := .dip })) pkgPage 0) F.PWR_PKG_DIP_dips 0 1
  else if 13200 < s.pkg.vin then
    if s.pkg.state = .surge then s else raise (updPkg s (fun k => { k with state := .surge })) pkgPage 4
  else if s.pkg.state = .normal then s
  else updPkg s (fun k => { k with state := .normal })

/-- VIN takes a value: the spans that Table 18.3 and R624 measure open and close. -/
def setVin (s : State) (mv : Nat) : State :=
  updPkg s (fun k => { k with
    vin := mv
    dips := match k.dipStart with
      | some t => if mv < 10800 then k.dips else ((t, s.now) :: k.dips).filter (fun d => decide (s.now < d.2 + 200000000))
      | none => k.dips
    dipStart := if mv < 10800 then some (k.dipStart.getD s.now) else none
    below9 := if mv < 9000 then some (k.below9.getD s.now) else none
    surgeStart := if 13200 < mv then some (k.surgeStart.getD s.now) else none
    below75 := k.below75 || decide (mv < 7500)
    above114 := if 11400 ≤ mv then some (k.above114.getD s.now) else none })

/-- VIN_CHANGE: what the old value leads to by now comes first. -/
def vinChange (s : State) (mv : Nat) : State := followSupply (setVin (followSupply s) mv)

def execVinChange (mv : Nat) (s : State) : Host.Outcome State Fault Refusal := .next (settle (vinChange s mv))

/-! ### Reports (R610, R618, R619) -/

/-- A partition's report: its power, and the energy of 1 µs at it. -/
def partReport (s : State) (p w : Nat) : State :=
  let e := (powerOf s p).energyRest + w
  addWrapF (updPower s p (fun x => { x with report := w, energyRest := e % 100000 })) F.PWR_PART_ENERGY_mj p (e / 100000)

/-- POWER_REPORT: VIN in mV, its current in 0.1 A, each partition rail in 10 mW. -/
def powerReport (s0 : State) (vin amps : Nat) (parts : List Nat) : State :=
  let s := followSupply s0
  let s1 := setF (setF s F.PWR_PKG_VIN_mv 0 (min vin 65535)) F.PWR_PKG_VIN_amps 0 (min amps 4095)
  let s2 := (List.range 12).foldl (fun a p => partReport a p (min (nth 0 parts p) 65535)) s1
  let s3 := updPkg s2 (fun k => { k with reports := (s.now, pkgPower s2) :: k.reports.filter (fun r => decide (s.now < r.1 + 2000000000)) })
  if outOfService s3 then s3 else fastLoop s3

def execPowerReport (vin amps : Nat) (parts : List Nat) (s : State) : Host.Outcome State Fault Refusal :=
  .next (settle (powerReport s vin amps parts))

def execDutyReplace (part : Nat) (s : State) : Host.Outcome State Fault Refusal := .next (settle (replaceDuty s part))

def execDutyRecover (part : Nat) (s : State) : Host.Outcome State Fault Refusal := .next (settle (recoverDuty s part))

/-- SUSTAINED_CHECK: at each whole millisecond of a longer tick. -/
def sustainedCheck (s : State) : State :=
  if 0 < s.tick.phase ∧ s.tick.phase % 2000000 = 0 then applyPoints (sustainedLoop s false) false else s

def execSustainedCheck (s : State) : Host.Outcome State Fault Refusal := .next (settle (sustainedCheck s))

/-! ### Sensors (R616, R621 to R623) -/

/-- A sensor of a partition lies at a trip temperature. -/
def tripHot (s : State) (p : Nat) : Bool := decide (440 ≤ (powerOf s p).coreTemp) || decide (420 ≤ (powerOf s p).stackTemp)

/-- A trip (R622): the partition is reset and stays asleep; one that was coming up under a WAKE sleeps on (R645). -/
def tripPart (s : State) (p : Nat) : State :=
  let s1 := raise (updPower s p (fun x => { x with tripped := true })) (pwrPage p) 4
  if partUp s1 p then resetWith s1 p 0x0023 0
  else if s1.startup.waitingPower.contains (p, 2) then endReturn (updPart s1 p (fun x => { x with state := .asleep })) p
  else s1

/-- Both sensors lie 10 °C below their throttle points: the trip is over, and a partition asleep by it returns. -/
def tripOver (s : State) (p : Nat) : State :=
  let s1 := updPower s p (fun x => { x with tripped := false })
  if (partition s p).state = .asleep then updPart s1 p (fun x => { x with state := .inReset }) else s1

/-- What one partition's sensors show. -/
def sensePart (coreTemps stackTemps : List Int) (s : State) (p : Nat) : State :=
  let s1 := updPower s p (fun x => { x with coreTemp := nth x.coreTemp coreTemps p, stackTemp := nth x.stackTemp stackTemps p })
  let s2 := noteStackTemp s1 p
  if (powerOf s2 p).tripped then (if coolBy s2 p 40 then tripOver s2 p else s2)
  else if tripHot s2 p then tripPart s2 p
  else s2

/-- SENSOR_READ: hottest core and stack sensors of each partition, of SD0, SD1, ID0 and ID1. -/
def sensorRead (s : State) (coreTemps stackTemps dies : List Int) : State :=
  let s1 := (List.range 12).foldl (sensePart coreTemps stackTemps) s
  let s2 := updPkg s1 (fun k => { k with dieTemp := (List.range 4).map (fun i => nth (nth 0 k.dieTemp i) dies i) })
  if dieAt s2 440 then quiesce s2 true else s2

def execSensorRead (coreTemps stackTemps dies : List Int) (s : State) : Host.Outcome State Fault Refusal :=
  .next (settle (sensorRead s coreTemps stackTemps dies))

def execThermalCheck (s : State) : Host.Outcome State Fault Refusal := .next (settle (thermalLimits s))

/-! ### Droop and calibration (R625, R626) -/

def execDroop (part : Nat) (s : State) : Host.Outcome State Fault Refusal := .next (settle (droop s part))

def execDroopMarginDecay (part : Nat) (s : State) : Host.Outcome State Fault Refusal := .next (settle (marginDecay s part))

def execCalibrationSlot (part : Nat) (s : State) : Host.Outcome State Fault Refusal := .next (settle (calibrate s part))

/-! ### Reference clocks (R627) -/

/-- The CLK page. -/
def clkPage : Nat := F.CLK_STATUS_ref_a.page

/-- Every PLL switches to the other input. -/
def switchRef (s : State) : State := addSatF { s with clocks := { s.clocks with onB := !s.clocks.onB } } F.CLK_SWITCHES_count 0 1

/-- An input is present. -/
def refPresent (s : State) (b : Bool) : Bool := if b then s.clocks.refB else s.clocks.refA

/-- Set the presence of an input. -/
def setRef (s : State) (b here : Bool) : State :=
  { s with clocks := if b then { s.clocks with refB := here } else { s.clocks with refA := here } }

/-- REF_CLOCK_LOST. -/
def refLost (s : State) (b : Bool) : State :=
  if !refPresent s b then s
  else
    let s1 := raise (setRef s b false) clkPage 0
    if !refPresent s1 (!b) then quiesce s1 false
    else if s1.clocks.onB = b then switchRef s1
    else s1

def execRefClockLost (b : Bool) (s : State) : Host.Outcome State Fault Refusal := .next (settle (refLost s b))

/-- The hub switches to the preferred input when it is present. -/
def preferRef (s : State) : State :=
  let want := decide (getF s F.CLK_REF_SEL_prefer_b 0 = 1)
  if s.clocks.onB ≠ want ∧ refPresent s want then switchRef s else s

/-- REF_SELECT: a write of CLK_REF_SEL.prefer_b. -/
def execRefSelect (b : Bool) (s : State) : Host.Outcome State Fault Refusal :=
  .next (settle (preferRef (setF s F.CLK_REF_SEL_prefer_b 0 (b2n b))))

/-- REF_CLOCK_RETURN: a hub left with no input runs from the one that returns. -/
def refReturn (s : State) (b : Bool) : State :=
  let alone := !s.clocks.refA && !s.clocks.refB
  let s1 := setRef s b true
  if alone ∧ s1.clocks.onB ≠ b then switchRef s1 else s1

def execRefClockReturn (b : Bool) (s : State) : Host.Outcome State Fault Refusal := .next (settle (refReturn s b))

/-- The lock bit of a PLL: partitions 0 to 11, then ID0, ID1, SD0, SD1, management. -/
def lockBit (pll : Nat) : FRef := ⟨clkPage, F.CLK_STATUS_part_lock.off, 3 + pll, 1⟩

/-- PLL_LOCK_LOST. -/
def pllLost (s : State) (pll : Nat) : State :=
  if 17 ≤ pll then s else raise (setF s (lockBit pll) 0 0) clkPage 1

def execPllLockLost (pll : Nat) (s : State) : Host.Outcome State Fault Refusal := .next (settle (pllLost s pll))

end Sys2Proof.Machine
end

