-- ==== Sys2Proof/Machine/TallyOps.lean ====
section
/-! DEFINITION. Writes to the TALLY and TALLY_BW pages and the end of a bandwidth window (ch. 17). -/

namespace Sys2Proof.Machine

/-- A write to TALLY_CFGn: a new owner finds the counter, its snapshot, ovf and en cleared (R596, R602). -/
def tallyCfg (s : State) (p n : Nat) (h : Half) (v : Nat) : State × Bool :=
  let old := cfgF s p n F.TALLY_CFGn_tid
  let r := writeByAccess s (tallyPage p) (0x100 + 8 * n) h v
  if cfgF r.1 p n F.TALLY_CFGn_tid = old then r else (clearCounter r.1 p n, r.2)

/-- A write of TALLY_CTRL: snap takes a snapshot and reads 0 (R602). -/
def tallyCtrl (s : State) (p : Nat) (h : Half) (v : Nat) : State × Bool :=
  let r := writeByAccess s (tallyPage p) 0x700 h v
  if getF r.1 F.TALLY_CTRL_snap p = 1 then (setF (snapshotAll r.1 p) F.TALLY_CTRL_snap p 0, r.2) else r

/-- A write of TALLY_SAMP_CTRL: a new tid empties the buffer, and its records are lost (R606). -/
def tallySampCtrl (s : State) (p : Nat) (h : Half) (v : Nat) : State × Bool :=
  let old := getF s F.TALLY_SAMP_CTRL_tid p
  let r := writeByAccess s (tallyPage p) 0x788 h v
  let n := (sampler s p).records.length
  if getF r.1 F.TALLY_SAMP_CTRL_tid p = old then r
  else
    let s1 := updSampler r.1 p (fun x => { x with records := [] })
    (if n = 0 then s1 else raise (addSatF s1 F.TALLY_SAMP_STATUS_lost p n) (tallyPage p) 2, r.2)

/-- A write of TALLY_SAMP_SEED seeds the LFSR and reloads the countdown (R604). -/
def tallySeed (s : State) (p : Nat) (h : Half) (v : Nat) : State × Bool :=
  let seed := woField s h v (F.TALLY_SAMP_SEED_seed)
  let r := writeByAccess s (tallyPage p) 0x790 h v
  (reload (updSampler r.1 p (fun x => { x with lfsr := max 1 seed })) p, r.2)

/-- A write of TALLY_SAMP_POP removes the oldest record while tid is 0 (R606). -/
def tallyPop (s : State) (p : Nat) (h : Half) (v : Nat) : State × Bool :=
  if bit (written h v) 0 && getF s F.TALLY_SAMP_CTRL_tid p == 0 then
    (updSampler s p (fun x => { x with records := x.records.drop 1 }), false)
  else (s, false)

/-- A write to a TALLY page, with what the block does on it. A counter of TID 1 or more keeps what it holds: its value is
hidden from the manager (R601). -/
def tallyWrite (s : State) (p off : Nat) (h : Half) (v : Nat) : State × Bool :=
  if 0x100 ≤ off ∧ off < 0x300 then tallyCfg s p ((off - 0x100) / 8) h v
  else if off = 0x700 then tallyCtrl s p h v
  else if off = 0x788 then tallySampCtrl s p h v
  else if off = 0x790 then tallySeed s p h v
  else if off = 0x7E0 then tallyPop s p h v
  else writeByAccess s (tallyPage p) off h v

/-- The TALLY_BW page of an I/O die. -/
def bwPage (d : Nat) : Nat := F.TALLY_BW_CTRL_window_ns.page + d

/-- Change every measured port of a die. -/
def bwAll (s : State) (d : Nat) (f : BwPort → BwPort) : State :=
  { s with tally := { s.tally with bw := (List.range 80).foldl (fun (t : Tab BwPort) k => Tab.upd BwPort.empty t (d * 128 + k) f) s.tally.bw } }

/-- Windows of a die start now (R608). -/
def bwRestart (s : State) (d : Nat) : State :=
  let s1 := bwAll s d (fun b => { b with bytes := 0 })
  { s1 with tally := { s1.tally with windowStart := setNth s1.tally.windowStart d s1.now } }

/-- A write of TALLY_BW_CTRL: setting en or changing window_ns or align starts the windows (R608). -/
def bwCtrl (s : State) (d : Nat) (h : Half) (v : Nat) : State × Bool :=
  let old := (rawReg s (bwPage d) 0x100)
  let r := writeByAccess s (bwPage d) 0x100 h v
  if getF r.1 F.TALLY_BW_CTRL_en d = 1 ∧ rawReg r.1 (bwPage d) 0x100 ≠ old then (bwRestart r.1 d, r.2) else r

/-- Every peak of a die is 0 (R608). -/
def bwClear (s : State) (d : Nat) : State := bwAll s d (fun b => { b with peak := 0 })

/-- A write to a TALLY_BW page. -/
def bwWrite (s : State) (d off : Nat) (h : Half) (v : Nat) : State × Bool :=
  if off = 0x100 then bwCtrl s d h v
  else if off = 0x120 then (if bit (written h v) 0 then bwClear s d else s, false)
  else writeByAccess s (bwPage d) off h v

/-- The open window of a die is over: it has run window_ns, or, aligned, a tick edge has passed since it started (R608). -/
def bwDue (s : State) (d : Nat) : Bool :=
  let start := nth 0 s.tally.windowStart d
  let w := getF s F.TALLY_BW_CTRL_window_ns d
  getF s F.TALLY_BW_CTRL_en d == 1 && decide (start + 1 < s.now) &&
    (decide (start + 2 * w ≤ s.now) || (getF s F.TALLY_BW_CTRL_align d == 1 && decide (s.tick.phase < s.now - start)))

/-- One port at a window's end of w half-nanoseconds (R608). -/
def bwResult (w : Nat) (b : BwPort) : BwPort :=
  { bytes := 0, last := b.bytes, rate := b.bytes * 2048 / w, peak := max b.peak (b.bytes * 2048 / w) }

/-- A window's end: LAST, RATE, PEAK, WINDOWS and the alarm (R608, R609). -/
def bwWindowEnd (d : Nat) (s : State) : State :=
  if d < 2 ∧ bwDue s d then
    let s1 := addWrapF (bwAll s d (bwResult (s.now - nth 0 s.tally.windowStart d))) F.TALLY_BW_WINDOWS_windows d 1
    let s2 := { s1 with tally := { s1.tally with windowStart := setNth s1.tally.windowStart d s1.now } }
    let lim := getF s2 F.TALLY_BW_ALARM_limit d
    let b := Tab.getC BwPort.empty s2.tally.bw (bwKey d (getF s2 F.TALLY_BW_ALARM_unit d) (getF s2 F.TALLY_BW_ALARM_dir d))
    if lim ≠ 0 ∧ lim < b.rate then raise s2 (bwPage d) 0 else s2
  else s

/-! ### The commands -/

/-- TALLY_CFG_WRITE (R596). -/
def execTallyCfgWrite (part n value : Nat) (s : State) : Host.Outcome State Fault Refusal :=
  .next (settle (if part < 12 ∧ n < 64 then (tallyCfg s part n .both value).1 else s))

/-- SNAPSHOT (R602). -/
def execSnapshot (part : Nat) (s : State) : Host.Outcome State Fault Refusal :=
  .next (settle (if part < 12 then snapshotAll s part else s))

/-- SAMPLE_SEED (R604). -/
def execSampleSeed (part seed : Nat) (s : State) : Host.Outcome State Fault Refusal :=
  .next (settle (if part < 12 then (tallySeed s part .both seed).1 else s))

/-- SAMP_CTRL_WRITE (R606). -/
def execSampCtrlWrite (part value : Nat) (s : State) : Host.Outcome State Fault Refusal :=
  .next (settle (if part < 12 then (tallySampCtrl s part .both value).1 else s))

/-- SAMPLE_POP (R606). -/
def execSamplePop (part : Nat) (s : State) : Host.Outcome State Fault Refusal :=
  .next (settle (if part < 12 then (tallyPop s part .both 1).1 else s))

/-- BW_CTRL_WRITE (R608). -/
def execBwCtrlWrite (die value : Nat) (s : State) : Host.Outcome State Fault Refusal :=
  .next (settle (if die < 2 then (bwCtrl s die .both value).1 else s))

/-- BW_WINDOW_END (R608, R609). -/
def execBwWindowEnd (die : Nat) (s : State) : Host.Outcome State Fault Refusal := .next (settle (bwWindowEnd die s))

/-- PEAK_CLEAR (R608). -/
def execPeakClear (die : Nat) (s : State) : Host.Outcome State Fault Refusal :=
  .next (settle (if die < 2 then bwClear s die else s))

end Sys2Proof.Machine
end

