-- ==== Sys2Proof/Machine/Tick.lean ====
section
/-! DEFINITION. The commands of the tick (ch. 2; R471, R472, R547, R655). -/

namespace Sys2Proof.Machine

/-! ### Phases -/

def execOpen (s : State) : Host.Outcome State Fault Refusal := .next (settle (openTick s))

def execWatch (s : State) : Host.Outcome State Fault Refusal := .next (settle (watchTick s))

def execDeadline (s : State) : Host.Outcome State Fault Refusal := .next (settle (deadlineTick s))

def execClose (s : State) : Host.Outcome State Fault Refusal := .next (settle (closeTick s))

/-! ### The ring -/

/-- The PIN page. -/
def pinPage : Nat := F.PIN_RING_in_present.page

/-- A frame on tick_ring_in: present, passed on. -/
def frameArrives (s : State) (f : List Byte) : State := setF (framePassed s f) F.PIN_RING_in_present 0 1

/-- TICK_FRAME: a frame that the hub takes as a tick frame times its edge, with its number when the CRC is good (R61, R62). A
hub that drives its ring never times an edge from it (R655). -/
def tickFrame (s : State) (f : List Byte) : State :=
  if !tickFrameOf s f then s
  else
    let s1 := frameArrives s f
    if usesRing s && !(1 ≤ s.tick.badCrc && !frameGood f) then
      sourceEdge (if sourceOf s1 = 1 then s1 else setF s1 F.TICK_STATUS_source 0 1) 1 (tapTime s) (frameNumber f) (frameGood f)
    else s1

def execTickFrame (frame : List Byte) (s : State) : Host.Outcome State Fault Refusal := .next (settle (tickFrame s frame))

/-- BEAT_FRAME: a beat with a good CRC steers the timer of a hub that uses its ring (R57); a bad one only counts (R61). -/
def beatFrame (s : State) (f : List Byte) : State :=
  if tickFrameOf s f then s
  else
    let s1 := frameArrives s f
    if usesRing s && frameGood f && sourceOf s == 1 then sourceBeat s1 1 (tapTime s) (frameNumber f) else s1

def execBeatFrame (frame : List Byte) (s : State) : Host.Outcome State Fault Refusal := .next (settle (beatFrame s frame))

/-- BEAT_SEND (R57, R472): at each whole millisecond since the edge that leaves 4 µs to the next one. -/
def beatSend (s : State) : State :=
  let ns := s.tick.phase / 2
  if ticks s ∧ 1000000 < period s ∧ s.tick.phase % 2000000 = 0 ∧ 0 < ns ∧ ns + 4000 ≤ period s then
    masterMarks (sendRing s ns 1) true ns
  else s

def execBeatSend (s : State) : Host.Outcome State Fault Refusal := .next (settle (beatSend s))

/-- RING_LOST (R63): a follower's ring falls silent. -/
def ringSilent (s : State) : State :=
  raise (setF (if usesRing s then ringLost s else s) F.PIN_RING_in_present 0 0) pinPage 2

def execRingLost (s : State) : Host.Outcome State Fault Refusal := .next (settle (ringSilent s))

/-- SOURCE_LOST (R65): a hub that times its edges from a source has none. -/
def execSourceLost (s : State) : Host.Outcome State Fault Refusal :=
  .next (settle (if ownTimer s then s else sourceLost s))

/-- UNLOCKED_TIMEOUT (R65): 20 ms without a source. -/
def unlockedTimeout (s : State) : State :=
  match s.tick.noSource with
  | some t => if t + 40000000 ≤ s.now ∧ sourceOf s = 0 then setLock s 0 else s
  | none => s

def execUnlockedTimeout (s : State) : Host.Outcome State Fault Refusal := .next (settle (unlockedTimeout s))

/-- A quiet gap by the hub's own timer (R60): 2 µs after the end of a frame, 2 µs before the next. -/
def quietGap (s : State) : Bool :=
  let p := s.tick.phase
  let beats := decide (1000000 < period s)
  let since := if beats then p % 2000000 else p
  let next := 2 * period s - p
  decide (2 * (1040 + 2000) ≤ since) && decide (4000 ≤ (if beats then min next (2000000 - since) else next))

/-- The bypass is to be closed: without ring_en, and in a quiesced package (R59, Table 18.4). -/
def wantsBypass (s : State) : Bool := getF s F.TICK_CTRL_ring_en 0 == 0 || decide (s.pkg.state = .quiesced)

/-- BYPASS_SWITCH (R60). -/
def bypassSwitch (s : State) : State :=
  if wantsBypass s = s.tick.bypassClosed ∨ !quietGap s then s
  else
    let s1 := setF (updTick s (fun t => { t with bypassClosed := wantsBypass s })) F.PIN_RING_bypass_closed 0 (b2n (wantsBypass s))
    if wantsBypass s ∧ sourceOf s1 = 1 then sourceLost s1 else s1

def execBypassSwitch (s : State) : Host.Outcome State Fault Refusal := .next (settle (bypassSwitch s))

/-- RING_RETURN (R655): the frame that returns, or fails to, is checked against the oldest one sent. -/
def ringReturn (s : State) (f : Option (List Byte)) : State :=
  match s.tick.ringSent with
  | [] => s
  | w :: rest =>
    let intact := decide (f = some (ringFrame (w / 2) (w % 2)))
    let s1 := updTick s (fun t => { t with ringSent := rest })
    let s2 := setF (setF s1 F.PIN_RING_return_seen 0 (b2n intact)) F.PIN_RING_return_bad 0 (b2n (!intact))
    if intact then s2 else raise s2 pinPage 2

def execRingReturn (frame : Option (List Byte)) (s : State) : Host.Outcome State Fault Refusal :=
  .next (settle (ringReturn s frame))

/-! ### Requests of the management road (R76, R82) -/

/-- Queue a request of the management road; a full queue refuses it at once. -/
def manageRequest (s : State) (q : AdmRequest) (handle : Nat) : State :=
  let r := queueAdmission s q
  if r.2 then r.1 else admResult r.1 .management 7 0 0 handle

def execAdmGoAdmit (s : State) : Host.Outcome State Fault Refusal :=
  .next (settle (manageRequest s (.enter .management 0xFFFF (some (getF s F.TICK_ADM_ADDR_addr 0 * 64))) 0))

def execAdmGoWithdraw (handle : Nat) (s : State) : Host.Outcome State Fault Refusal :=
  .next (settle (manageRequest s (.withdraw .management 0xFFFF (handle % 8192)) (handle % 8192)))

/-! ### Marks, Wedges and recomputes -/

/-- The arrival of the flit that brought a packet to a port (R437). -/
def arrivalOf (s : State) (port : Nat) (p : Packet) : Nat :=
  match s.fabric.incoming.find? (fun e => e.1 == port && decide (e.2.2 = p)) with
  | some e => e.2.1
  | none => s.now

def execMark (port : Nat) (packet : Packet) (s : State) : Host.Outcome State Fault Refusal :=
  .next (settle (delivered s packet ptMark (fun a => markArrives a port (arrivalOf s port packet) packet)))

/-- A Wedge reaches the tick unit (R96): before the CLOSE of its tick it aborts that tick's runs of the job. -/
def wedgeDelivered (s : State) (job tick origin cause : Nat) : State :=
  let s1 := setF (setF (setF (addSatF s F.NFAB_WEDGE_count 0 1) F.NFAB_WEDGE_job 0 job) F.NFAB_WEDGE_origin 0 origin) F.NFAB_WEDGE_cause 0 cause
  let s2 := raise (updTick s1 (fun t => { t with wedgeSeen := t.wedgeSeen ++ [(job, tick)] })) 50 4
  let open_ := decide (tickNumber s < tick) || (tickNumber s == tick && s.tick.stage != 4)
  let hits := s2.tick.streams.any (fun e => e.2.budget.job == job && e.2.budget.multiHub &&
    e.2.ended.any (fun r => r.tick == tick && r.abortable))
  if open_ && hits then
    abortJob (fault s2 { cls := 2, cause := 0x001E, page := tickPage, actions := 1, detail := cause, agent := origin, job := job }) job tick
  else s2

/-- WEDGE (R96, R468): the copy is delivered here once, and its other hubs' bits go on. -/
def wedgeArrives (s : State) (p : Packet) : State :=
  let job := bits (p.unit 2) 0 32
  let tick := bits (p.unit 3) 0 64
  let hubs := setHubs (p.payload.drop 32)
  let s1 := spread s p 4 hubs
  if hubs.contains (hubId s) ∧ !s.tick.wedgeSeen.contains (job, tick) then
    wedgeDelivered s1 job tick (bits (p.unit 2) 40 10) (bits (p.unit 2) 32 8)
  else s1

def execWedge (packet : Packet) (s : State) : Host.Outcome State Fault Refusal :=
  .next (settle (delivered s packet ptWedge (fun s => wedgeArrives s packet)))

def execRecomputeStart (handle : Nat) (s : State) : Host.Outcome State Fault Refusal :=
  .next (settle (recompute s (handle % 8192)))

end Sys2Proof.Machine
end

