-- ==== Sys2Proof/Machine/RegView.lean ====
section
/-! DEFINITION. What a read of management space returns (R16 to R24, R499, R558 to R567, R601): the register file, and for each
field that shows other state of the hub the value of that state. -/

namespace Sys2Proof.Machine

/-- Place a value into a field of a register value. -/
def put (v : Nat) (r : FRef) (x : Nat) : Nat := setBits v r.lo r.len x

/-- Place a signed value into a field. -/
def putInt (v : Nat) (r : FRef) (x : Int) : Nat := setBits v r.lo r.len (unsigned r.len x)

/-- Place a saturated count into a field. -/
def putSat (v : Nat) (r : FRef) (x : Nat) : Nat := setBits v r.lo r.len (min x (2 ^ r.len - 1))

/-- A context is bound to a tenant: what R499 hides from management space. -/
def tenantContext (s : State) (c : Nat) : Bool := decide (0 < tidOf s c)

/-! ### The common registers (Table 16.2) -/

/-- The block of a page lies inside a partition (R565). -/
def Kind.inPartition : Kind → Bool
  | .kCORE | .kTE | .kVE | .kSE | .kSE_BMC | .kSYNC => true
  | _ => false

/-- The pages whose chapter defines INT_RAW sources. -/
def Kind.hasInts : Kind → Bool
  | .kHUB_ID | .kTICK_PART => false
  | _ => true

def Kind.staged (k : Kind) : Bool := k.fields.any (fun f => decide (f.access = .rws))

def Kind.lockable (k : Kind) : Bool := k.fields.any (fun f => decide (f.access = .rwl))

/-- Some staged value of a page differs from the applied one (PAGE_STATUS.staged). -/
def pageStaged (s : State) (page : Nat) : Bool :=
  s.staged.any (fun e => decide (e.1 / 512 = page) && decide (e.2 ≠ Tab.get regReset s.regs e.1))

/-- The kind code of Table 16.1. -/
def kindCode (k : Kind) : Nat := k.pages.2.2

/-- PAGE_ID, PAGE_CAPS and PAGE_STATUS. -/
def pageHead (s : State) (page : Nat) (k : Kind) (inst off : Nat) : Nat :=
  match off with
  | 0x000 => kindCode k + inst * 2 ^ 16 + 2 ^ 32
  | 0x008 => b2n k.staged + 2 * b2n k.lockable + 4 * b2n k.inPartition + 8 * b2n k.hasInts
  | _ => pageState s page + 4 * b2n (armed s page) + 8 * b2n (pageStaged s page) + 16 * b2n (pageLocked s page)

/-! ### Threads and engines -/

/-- Table 3.2. -/
def ThreadState.code : ThreadState → Nat
  | .free => 0 | .placed => 1 | .run => 2 | .waitSync => 3 | .waitQueue => 4 | .waitDrain => 5 | .stalled => 6 | .ended => 7 | .faulted => 8

/-- CORE pages (Table 3.16). -/
def coreView (s : State) (core off v : Nat) : Nat :=
  let th := thread s core (getF s F.CORE_THR_SEL_context core)
  match off with
  | 0x118 =>
    let depth (i : Nat) : Nat := (nth [] th.queues i).length
    put (put (put (put (put (put v F.CORE_THR_INFO_state th.state.code) F.CORE_THR_INFO_handle th.handle) F.CORE_THR_INFO_path (b2n th.path))
      F.CORE_THR_INFO_fault th.fault) F.CORE_THR_INFO_ordinal th.ordinal) F.CORE_THR_INFO_depths
      (depth 0 + depth 1 * 2 ^ 4 + depth 2 * 2 ^ 8 + depth 3 * 2 ^ 12)
  | 0x120 => if tenantContext s (streamCtx s th.handle) then 0 else put v F.CORE_THR_PC_pc th.pc
  | 0x128 =>
    put (put v F.CORE_STATUS_in_use ((List.range 64).countP (fun c => decide ((thread s core c).state ≠ .free))))
      F.CORE_STATUS_fenced (b2n (coreOf s core).fenced)
  | _ => v

/-- SYNC pages (Table 3.17). -/
def syncView (s : State) (p off v : Nat) : Nat :=
  let k := p * 6144 + getF s F.SYNC_SEL_index p
  match off with
  | 0x100 => put (put v F.SYNC_WAITERS_in_use (waitersIn s p)) F.SYNC_WAITERS_high (max (Tab.getC 0 s.sync.high p) (waitersIn s p))
  | 0x118 => if tenantContext s (Tab.getC 0 s.sync.assigned k) then 0 else stateWord s k
  | _ => v

/-- VE pages (Table 4.20). -/
def veView (s : State) (core off v : Nat) : Nat :=
  if off = 0x118 then tblEntry (getF s F.VE_TBL_SEL_table core) (getF s F.VE_TBL_SEL_index core) else v

/-- SE pages (Table 6.15). A microword tagged with a tenant's context is hidden (R499). -/
def seView (s : State) (core off v : Nat) : Nat :=
  let u := ucWordAt s core (getF s F.SE_UC_SEL_index core)
  let hidden : Bool := match u with | some w => !w.shared && tenantContext s w.context | none => false
  let word : Nat := match u with | some w => if hidden then 0 else w.word | none => 0
  let qs := (coreOf s core).search.qctxs
  match off with
  | 0x110 => put (put v F.SE_CTX_in_use (qs.countP (fun q => decide (q.2.state ≠ .free))))
      F.SE_CTX_wait_mem (qs.countP (fun q => decide (q.2.state = .waitMem)))
  | 0x120 => word % 2 ^ 64
  | 0x128 => word / 2 ^ 64
  | 0x130 => match u with
    | some w => put (put (put v F.SE_UC_TAG_context (if w.shared then 0 else w.context)) F.SE_UC_TAG_shared (b2n w.shared)) F.SE_UC_TAG_valid 1
    | none => v
  | 0x138 => put v F.SE_UC_VER_version (Tab.getC s.henyen.stock.version s.henyen.stockVer (partOfCore core))
  | _ => v

/-! ### The tick, the pools, Haul, translation, regions -/

/-- The TICK page (Table 2.14). -/
def tickView (s : State) (off v : Nat) : Nat :=
  match off with
  | 0x128 => putSat (put v F.TICK_STATUS_phase s.tick.stage) F.TICK_STATUS_holdover_ms
      (match s.tick.holdSince with | some t => (s.now - t) / 2000000 | none => 0)
  | 0x158 => put v F.TICK_ADM_DEPTH_depth s.tick.queue.length
  | _ => v

/-- TICK_PART pages (Table 2.15). -/
def tickPartView (s : State) (p off v : Nat) : Nat :=
  match off with
  | 0x110 => reservedSum s 1 p
  | 0x118 => reservedSum s 2 p
  | 0x120 => reservedSum s 3 p
  | 0x128 => put v F.TICK_PART_RSV_SLOTS_sum (reservedSum s 0 p)
  | 0x130 => put (put v F.TICK_PART_STATE_state (match (partition s p).state with | .up => 0 | .inReset => 1 | .asleep => 2))
      F.TICK_PART_STATE_memory_only (b2n (memOnly s p))
  | _ => v

/-- The HUB_POOL page (Table 8.9). -/
def poolView (s : State) (off v : Nat) : Nat :=
  match off with
  | 0x110 => put (put v F.HUB_POOL_HBM_free (hbmFree s)) F.HUB_POOL_HBM_face_free (faceFree s)
  | 0x118 => put (put v F.HUB_POOL_FAR_plain_free (plainFree s)) F.HUB_POOL_FAR_guard_free (guardFree s)
  | _ => v

/-- The HAUL page (Table 8.10). The identifier of a tenant's program is hidden (R499). -/
def haulView (s : State) (off v : Nat) : Nat :=
  match off with
  | 0x100 => put (put v F.HAUL_STATUS_in_use s.haul.length) F.HAUL_STATUS_resident (s.haul.countP (fun e => e.2.resident))
  | 0x118 => match Tab.find? s.haul (getF s F.HAUL_SEL_entry 0) with
    | none => v
    | some e => put (put (put (put (put (put (put v F.HAUL_ENTRY_context e.context) F.HAUL_ENTRY_valid 1) F.HAUL_ENTRY_resident (b2n e.resident))
        F.HAUL_ENTRY_held (b2n e.held)) F.HAUL_ENTRY_haul_late (b2n e.late)) F.HAUL_ENTRY_next e.next)
        F.HAUL_ENTRY_id (if tenantContext s e.context then 0 else e.id)
  | 0x120 => putSat v F.HAUL_THRU_refill ((s.haul.map (fun e => e.2.missed.length)).sum)
  | _ => v

/-- The XLT page (Table 9.14). -/
def xltView (s : State) (off v : Nat) : Nat :=
  let c := getF s F.XLT_EPOCH_SEL_context 0
  match off with
  | 0x130 => put (put v F.XLT_EPOCH_current (context s c).epoch) F.XLT_EPOCH_oldest (oldestEpoch s c)
  | 0x150 => if tenantContext s (getF s F.XLT_FAULT_context 0) then 0 else v
  | _ => v

/-- The HUB_RGN page (Table 10.12). -/
def rgnView (s : State) (off v : Nat) : Nat := if off = 0x120 then put v F.HUB_RGN_LEASES_in_use (leasesHeld s).length else v

/-- HPORT_Q pages (Table 10.12). -/
def portQView (s : State) (q off v : Nat) : Nat :=
  let y := hostQueue s q
  if off = 0x108 then
    put (put (put (put (put v F.HPORT_Q_STATE_tdisp (match y.tdisp with | .unlocked => 0 | .locked => 1 | .run => 2 | .error => 3))
      F.HPORT_Q_STATE_in_flight (y.cmds.countP (fun c => c.complete.isNone))) F.HPORT_Q_STATE_running_on y.runningOn)
      F.HPORT_Q_STATE_pending_bind (b2n (y.latched.any (fun b => b != (rawReg s (queuePage q) 0x100).toNat)))) F.HPORT_Q_STATE_core y.core
  else v

/-! ### The Seam, the links, the fabric -/

/-- SEAM pages (Table 11.11). -/
def seamView (s : State) (d off v : Nat) : Nat :=
  let x := seamDie s d
  let f := fenceOf s d (getF s F.SEAM_FENCE_SEL_agent d)
  match off with
  | 0x108 => put (put (put v F.SEAM_OCC_open x.txns.length) F.SEAM_OCC_waiting x.waiting.length)
      F.SEAM_OCC_full (b2n (decide (65536 ≤ x.waiting.length) || decide (32768 - 1024 ≤ x.txns.length)))
  | 0x138 => put (put (put v F.SEAM_FENCE_mark (match f.mark with | .none => 0 | .lost => 1 | .silent => 2 | .rejoin => 3))
      F.SEAM_FENCE_swept (b2n f.swept)) F.SEAM_FENCE_start f.start
  | 0x140 => put (put v F.SEAM_SWEEP_position x.position) F.SEAM_SWEEP_active (b2n x.sweeping)
  | 0x148 => put v F.SEAM_ABUF_lines x.abuf.length
  | _ => v

/-- Table 12.6. -/
def LinkState.code : LinkState → Nat
  | .disabled => 0 | .detect => 1 | .equalize => 2 | .align => 3 | .params => 4 | .secure => 5 | .delay => 6 | .active => 7
  | .retrain => 8 | .down => 9

/-- NLK pages (Table 12.9). -/
def nlkView (s : State) (n off v : Nat) : Nat :=
  let q := port s n
  match off with
  | 0x110 => put (put (put (put v F.NLK_STATUS_state q.state.code) F.NLK_STATUS_width q.width) F.NLK_STATUS_healthy q.healthy)
      F.NLK_STATUS_cause q.cause
  | 0x118 => put (put (put (put v F.NLK_PARTNER_hub q.partnerHub) F.NLK_PARTNER_port q.partnerPort) F.NLK_PARTNER_joined (b2n q.partnerJoined))
      F.NLK_PARTNER_epoch q.partnerEpoch
  | 0x138 => put (put v F.NLK_KEY_tx_gen q.txGen) F.NLK_KEY_rx_gen q.rxGen
  | 0x148 => put (put v F.NLK_UNACK_unacked q.replay.length) F.NLK_UNACK_nak_pending (b2n q.nakPending)
  | _ => v

/-- NFAB pages (Table 13.16). -/
def nfabView (s : State) (d off v : Nat) : Nat :=
  let p := getF s F.NFAB_RC_SEL_partition d
  match off with
  | 0x138 => s.fabric.dtime
  | 0x170 => put (put v F.NFAB_RC_in_use (resultsOf s p).length) F.NFAB_RC_high (max (Tab.getC 0 s.fabric.rcHigh p) (resultsOf s p).length)
  | _ => v

/-- NFAB_CMP pages (Table 5.12). -/
def cmpView (s : State) (d off v : Nat) : Nat :=
  match off with
  | 0x188 => put (put v F.NFAB_CMP_FILL_total (stagedBytes (cmpDie s d))) F.NFAB_CMP_FILL_raw (rawWaiting (cmpDie s d))
  | 0x1A0 => put v F.NFAB_CMP_TSTORE_in_use (((s.fabric.recvs.filter (fun x => x.die == d)).map RecvXfer.slots).sum)
  | 0x1B8 => put v F.NFAB_CMP_LHB_bin (keyOf s (getF s F.NFAB_CMP_LHB_SEL_key_id d)).bin
  | _ => v

/-! ### Secrecy and faults -/

/-- A number with bit p set for each partition of a list that passes a test. -/
def partMask (p : Nat → Bool) : Nat := ((List.range 12).map (fun i => b2n (p i) * 2 ^ i)).sum

def KeyState.code : KeyState → Nat
  | .free => 0 | .assigned => 1 | .keyed => 2 | .destroying => 3 | .scrub => 4

/-- ELN pages (Table 14.12); both roots hold the full state. -/
def elnView (s : State) (d off v : Nat) : Nat :=
  let e := s.eloan
  let k := keyOf s (getF s F.ELN_KEY_SEL_key_id d)
  match off with
  | 0x100 => put (put (put (put (put (put v F.ELN_STATE_lifecycle (if e.owned then 2 else 1)) F.ELN_STATE_owner_gen e.ownerGen)
      F.ELN_STATE_debug_open (partMask (fun p => (Tab.find? e.debugOpen p).isSome))) F.ELN_STATE_vendor_level (b2n (e.debugOpen.any (fun x => x.2 == 2))))
      F.ELN_STATE_mirror_ok (b2n e.mirrorOk)) F.ELN_STATE_owner_cosign (b2n e.cosign)
  | 0x108 => put (put (put (put v F.ELN_SVN_eloan e.minEloan) F.ELN_SVN_henyen e.minHenyen) F.ELN_SVN_ucode e.minUcode) F.ELN_SVN_min_peer e.minPeer
  | 0x110 => putSat (put (put (put v F.ELN_COUNTS_tenants e.tenants.length) F.ELN_COUNTS_windows e.windows.length)
      F.ELN_COUNTS_keyed (e.keys.countP (fun x => decide (x.2.state = .keyed)))) F.ELN_COUNTS_sig_fail e.sigFail
  | 0x120 => putSat (put (put (put (put v F.ELN_KEY_state k.state.code) F.ELN_KEY_integrity (b2n k.integrity)) F.ELN_KEY_bin k.bin) F.ELN_KEY_tid k.tid)
      F.ELN_KEY_grants (e.grants.countP (fun g => g.keyId == getF s F.ELN_KEY_SEL_key_id d && g.keyId != 0))
  | 0x128 => put (put v F.ELN_DBG_pending (partMask (fun p => (Tab.find? e.nonces p).isSome))) F.ELN_DBG_lockout (partMask (lockedOut s))
  | _ => v

/-- Requests that the stand-in of a partition holds (R534): those of the Seam and of transfers whose lines are of that partition. -/
def heldFor (s : State) (p : Nat) : Nat :=
  (s.seam.map (fun d => d.waiting.countP (fun r => homePart s (r.line * 64) == some p && lineHeld s r.line))).sum +
    (s.fabric.recvs.map (fun x => x.waiting.countP (fun w => homePart s (paOff w.1) == some p))).sum

/-- The RAS page (Table 15.13). -/
def rasView (s : State) (off v : Nat) : Nat :=
  let p := getF s F.RAS_PART_SEL_partition 0
  let u := getF s F.RAS_SPARE_SEL_unit 0
  let h := getF s F.RAS_LOST_SEL_hub 0
  let x := partition s p
  match off with
  | 0x140 =>
    if 12 ≤ p then 0
    else putSat (put (put (put (put v F.RAS_PART_INFO_epoch x.epoch) F.RAS_PART_INFO_failed (b2n x.failed)) F.RAS_PART_INFO_standin (b2n x.standin))
      F.RAS_PART_INFO_resync (b2n (!x.resync.isEmpty && decide (x.state = .up)))) F.RAS_PART_INFO_held (heldFor s p)
  | 0x148 => put v F.RAS_HUB_EPOCH_epoch s.ras.hubEpoch
  | 0x160 => put (put (put v F.RAS_SPARE_left (Tab.getC 0 s.ras.spareLeft u)) F.RAS_SPARE_used (Tab.getC 0 s.ras.spareUsed u))
      F.RAS_SPARE_retired (b2n (decide (u < 24) && s.ras.retiredChannels.contains u))
  | 0x168 => match s.ras.retireList with
    | f :: _ => put (put v F.RAS_RETIRE_valid 1) F.RAS_RETIRE_frame f
    | [] => v
  | 0x190 => put (put v F.RAS_LOST_lost (b2n (s.fabric.lostHubs.contains h))) F.RAS_LOST_epoch (Tab.getC 0 s.fabric.epochs (epochKey h 15))
  | _ => v

/-! ### Tally, power, clocks, lands -/

/-- TALLY pages (Table 17.6). Counters and samples of a tenant are hidden (R601, R606). -/
def tallyView (s : State) (p off v : Nat) : Nat :=
  let x := sampler s p
  if 0x300 ≤ off ∧ off < 0x700 then (if cfgF s p ((off - 0x300) / 8 % 64) F.TALLY_CFGn_tid = 0 then v else 0)
  else if off = 0x798 then put (put v F.TALLY_SAMP_STATUS_held x.records.length) F.TALLY_SAMP_STATUS_in_flight x.inFlight.length
  else if 0x7A0 ≤ off ∧ off < 0x7E0 then
    if getF s F.TALLY_SAMP_CTRL_tid p = 0 then leValue ((((x.records.head?).getD []).drop (off - 0x7A0)).take 8) else 0
  else v

/-- TALLY_BW pages (Table 17.7). -/
def bwView (s : State) (d off v : Nat) : Nat :=
  let b := Tab.getC BwPort.empty s.tally.bw (bwKey d (getF s F.TALLY_BW_SEL_unit d) (getF s F.TALLY_BW_SEL_dir d))
  match off with
  | 0x110 => put v F.TALLY_BW_LAST_bytes b.last
  | 0x118 => put (put v F.TALLY_BW_RATE_rate b.rate) F.TALLY_BW_RATE_peak b.peak
  | _ => v

/-- PWR_PART_STATUS.reason: power, temperature, neighbour, VIN, below its floor in this tick, asleep after a trip. -/
def pwrReason (s : State) (p : Nat) : Nat :=
  let x := powerOf s p
  let acts (l : Limit) : Bool := decide (ceiling s p l < topPoint s)
  b2n (acts .power || acts .sustained || decide (x.duty < 16)) + 2 * b2n (acts .temperature || acts .dieSensor) + 4 * b2n (acts .neighbour) +
    8 * b2n (decide (s.pkg.state ≠ .normal)) + 16 * b2n x.belowFloor + 32 * b2n x.tripped

/-- PWR pages of the partitions (Table 18.8). -/
def pwrView (s : State) (p off v : Nat) : Nat :=
  let x := powerOf s p
  match off with
  | 0x108 => put (put (put (put (put v F.PWR_PART_STATUS_point (pointNow s p)) F.PWR_PART_STATUS_duty x.duty) F.PWR_PART_STATUS_margin x.margin)
      F.PWR_PART_STATUS_lift x.lift) F.PWR_PART_STATUS_reason (pwrReason s p)
  | 0x110 => putInt (putInt v F.PWR_PART_TEMP_core x.coreTemp) F.PWR_PART_TEMP_hbm x.stackTemp
  | 0x120 => put v F.PWR_PART_POWER_power x.report
  | _ => v

/-- The PWR page of the package (Table 18.9). -/
def pkgView (s : State) (off v : Nat) : Nat :=
  let t (i : Nat) : Int := (s.pkg.dieTemp[i]?).getD 0
  match off with
  | 0x100 => put v F.PWR_PKG_VIN_state (match s.pkg.state with | .normal => 0 | .dip => 1 | .surge => 2 | .quiescing => 3 | .quiesced => 4)
  | 0x108 => put (put v F.PWR_PKG_POWER_inst (((s.pkg.reports.head?).map Prod.snd).getD 0 / 10000)) F.PWR_PKG_POWER_mean (sustainedMean s / 10000)
  | 0x118 => putSat v F.PWR_PKG_DIP_dip_us (dipTime s / 2000)
  | 0x120 => putInt (putInt (putInt (putInt v F.PWR_PKG_TEMP_sd0 (t 0)) F.PWR_PKG_TEMP_sd1 (t 1)) F.PWR_PKG_TEMP_id0 (t 2)) F.PWR_PKG_TEMP_id1 (t 3)
  | _ => v

/-- The CLK page (Table 18.10). -/
def clkView (s : State) (off v : Nat) : Nat :=
  if off = 0x100 then
    put (put (put v F.CLK_STATUS_ref_a (b2n s.clocks.refA)) F.CLK_STATUS_ref_b (b2n s.clocks.refB)) F.CLK_STATUS_on_b (b2n s.clocks.onB)
  else v

/-- The PIN page (Table 20.16). -/
def pinView (s : State) (off v : Nat) : Nat :=
  let each (n : Nat) (f : Nat → Nat) : Nat := ((List.range n).map f).sum
  match off with
  | 0x100 => each 12 (fun j => (landOf s j).wanted % 16 * 2 ^ (4 * j))
  | 0x108 => each 12 (fun j => (landOf s (12 + j)).wanted % 16 * 2 ^ (4 * j))
  | 0x110 => each 24 (fun l => (landOf s l).state % 4 * 2 ^ (2 * l))
  | 0x138 => put v F.PIN_RING_bypass_closed (b2n s.tick.bypassClosed)
  | 0x140 => put (put (put v F.PIN_STATUS_ready (b2n (decide (s.startup.phase ≠ .starting)))) F.PIN_STATUS_therm_trip (b2n s.pkg.byTemp))
      F.PIN_STATUS_alert (b2n (alertLow s))
  | _ => v

/-- The HUB_ID page (Table 16.7). -/
def hubIdView (s : State) (off v : Nat) : Nat :=
  match off with
  | 0x100 => put (put (put v F.HUB_ID_INFO_variant (b2n s.fuse.variantB)) F.HUB_ID_INFO_grade_l (b2n s.fuse.gradeL))
      F.HUB_ID_INFO_memory_only (partMask (memOnly s))
  | 0x108 => s.fuse.serial % 2 ^ 64
  | 0x110 => put (put v F.HUB_ID_REV_stepping s.fuse.stepping) F.HUB_ID_REV_layout 1
  | _ => v

/-- HEN pages (Table 16.8). -/
def henView (s : State) (c off v : Nat) : Nat :=
  let h := s.henyen
  let first := 1024 * getF s F.HEN_INT_SEL_group c + 64 * getF s F.HEN_INT_SEL_word c
  match off with
  | 0x100 => put (put (put (put (put v F.HEN_INFO_active (b2n (h.active == c))) F.HEN_INFO_slot (nth 0 h.slot c)) F.HEN_INFO_mirror_ok (b2n h.mirrorOk))
      F.HEN_INFO_svn (henImage s c).svn) F.HEN_INFO_version (henImage s c).version
  | 0x110 => ((intSum s.pendingPages).map (fun g => 2 ^ g)).sum
  | 0x120 => ((List.range 64).map (fun j => b2n (s.pendingPages.contains (first + j)) * 2 ^ j)).sum
  | 0x150 => put (put (put (put (put v F.HEN_UPD_STATUS_state h.updState) F.HEN_UPD_STATUS_busy (b2n (decide (h.updState = 1) || decide (h.updState = 3))))
      F.HEN_UPD_STATUS_next (if h.updState = 3 then nth 0 h.updOrder h.updNext else 0)) F.HEN_UPD_STATUS_code h.updCode)
      F.HEN_UPD_STATUS_loaded (match h.loaded with | some i => i.version | none => 0)
  | _ => v

/-! ### A read -/

/-- What a block adds to a register's stored value. -/
def blockView (s : State) (k : Kind) (i off v : Nat) : Nat :=
  match k with
  | .kHUB_ID => hubIdView s off v
  | .kHEN => henView s i off v
  | .kTICK => tickView s off v
  | .kHUB_RPT => v
  | .kHUB_POOL => poolView s off v
  | .kHAUL => haulView s off v
  | .kXLT => xltView s off v
  | .kHUB_RGN => rgnView s off v
  | .kRAS => rasView s off v
  | .kTICK_PART => tickPartView s i off v
  | .kSYNC => syncView s i off v
  | .kSEAM => seamView s i off v
  | .kNFAB => nfabView s i off v
  | .kNFAB_CMP => cmpView s i off v
  | .kELN => elnView s i off v
  | .kCRYP => v
  | .kHPORT => v
  | .kNLK => nlkView s i off v
  | .kSE_BMC => if off = 0x108 then put v F.SE_BMC_LINES_in_use (Tab.getC [] s.bitmaps i).length else v
  | .kTALLY => tallyView s i off v
  | .kTALLY_BW => bwView s i off v
  | .kPWR => pwrView s i off v
  | .kPWRPKG => pkgView s off v
  | .kCLK => clkView s off v
  | .kPIN => pinView s off v
  | .kCORE => coreView s i off v
  | .kTE => v
  | .kVE => veView s i off v
  | .kSE => seView s i off v
  | .kHPORT_Q => portQView s i off v

/-- The 64 bits that a read of a register returns. Pages that the part does not have and pages of a partition that is not up read
0 (R561, R565); an RWS field reads its staged value (R17); INT_CAUSE is INT_RAW AND INT_MASK. -/
def readReg (s : State) (page off : Nat) : Nat :=
  match pageKind page with
  | none => 0
  | some (k, i) =>
    if !pageExists s page then 0
    else if off = 0x000 ∨ off = 0x008 ∨ off = 0x018 then pageHead s page k i off
    else if pageDown s page then 0
    else if off = 0x030 then (rawReg s page 0x20 &&& rawReg s page 0x28).toNat
    else
      let fs := regFields k off
      let v := (rawReg s page off).toNat
      if fs.any (fun f => decide (f.access = .rws)) then (stagedReg s page off).toNat
      else if off < 0x100 then v else blockView s k i off v % 2 ^ 64

end Sys2Proof.Machine
end

