-- ==== Sys2Proof/Machine/Seam.lean ====
section
/-! DEFINITION. The Seam's commands (R373 to R407, R445, R451 to R461): coherent requests as they reach their lines' queues, the
answers that transactions await, timeouts, forwards, lease installation, sweeps and fence marks. -/

namespace Sys2Proof.Machine

/-! ### Requests of this hub's hosts, and of other hubs (R378, R392) -/

/-- A request of a host link that has been passed on reaches its line's queue. -/
def passedRow (s : State) (sel : SeamReq → Bool) (q : CohReq) : State :=
  match takeFirst (fun r => sel r && r.line == q.line && decide (r.who = .agent q.agent q.tag)) s.coherent with
  | some (r, rest) => seamRequest { s with coherent := rest } r
  | none => s

/-- The runs of ones of a 64-bit mask: first bit and length. -/
def maskRuns (mask : Nat) : List (Nat × Nat) :=
  ((List.range 64).filter (fun i => bit mask i && (i == 0 || !bit mask (i - 1)))).map (fun i =>
    (i, ((range i (64 - i)).takeWhile (bit mask)).length))

/-- A request of another hub for host space on a link of this hub (R343, R486). -/
def hostSpaceLine (s : State) (p : Packet) : State :=
  match hostRoad s none p.addr with
  | .link l =>
    if p.ptype = ptRdCur then
      answer (bwHost { s with free := s.free + 1 } l 1 64) p ptData 0 0 (hostBytesAt s (p.addr / 64 * 64) 64)
    else if p.ptype = ptWrCur then
      let s1 := (maskRuns p.word3).foldl (fun a r =>
        bwHost (emit a (.hostWrite l (hostBus a l (p.addr / 64 * 64 + r.1)) ((p.payload.drop r.1).take r.2))) l 0 r.2) s
      answer s1 p ptCmp 0 0 []
    else answer s p ptCmp 1 0 []
  | _ => answer s p ptCmp 1 0 []

/-- A coherent request of another hub, or of a host there: the checks of the home (R347, R485), then its line's queue. -/
def remoteCoherent (s : State) (k : SeamKind) (p : Packet) : State :=
  let off := paOff p.addr
  let write := p.ptype == ptWrCur
  let hub := (hubOfAgent s p.src).getD 1024
  if isHost p.addr then hostSpaceLine s p
  else if !isLocal s p.addr then answer s p ptCmp 1 0 []
  else if p.ptype ≠ ptEvictS ∧ (homeCause s p.src (.remote hub) write off).isSome then answer s p ptCmp 1 0 []
  else
    let s1 := if p.ptype = ptEvictS then s else hostLine s none p.src 8192 off write
    seamRequest s1 { SeamReq.plain k (.agent p.src p.tag) (off / 64) with
      data := if write then p.payload.take 64 else [], mask := if write then p.word3 else 0, packet := some p }

/-- A packet for a host link that is out of L0 is held (Table 10.8). -/
def hostHeld (s : State) (p : Packet) : Bool :=
  isHost p.addr && (match hostRoad s none p.addr with | .link l => linkOut s l | _ => false)

/-- A coherent request arrives, as a packet of a type or passed on from a host link. -/
def coherentRow (s : State) (ptype : Nat) (k : SeamKind) (sel : SeamReq → Bool) (q : CohReq) : State :=
  match q.packet with
  | some p => if hostHeld s p then s else delivered s p ptype (fun s => remoteCoherent s k p)
  | none => passedRow s sel q

/-- The directory records an agent as a line's owner. -/
def ownsLine (s : State) (r : SeamReq) : Bool :=
  decide ((dirEntry s r.line).state = .m) && (match r.who.agentId with | some a => (dirEntry s r.line).holders.contains a | none => false)

def execRdcur (req : CohReq) (s : State) : Host.Outcome State Fault Refusal :=
  .next (settle (coherentRow s ptRdCur .rdCur (fun r => decide (r.kind = .rdCur)) req))

def execRds (req : CohReq) (s : State) : Host.Outcome State Fault Refusal :=
  .next (settle (coherentRow s ptRdS .rdS (fun r => decide (r.kind = .rdS)) req))

def execRdm (req : CohReq) (s : State) : Host.Outcome State Fault Refusal :=
  .next (settle (passedRow s (fun r => decide (r.kind = .rdM)) req))

def execInvm (req : CohReq) (s : State) : Host.Outcome State Fault Refusal :=
  .next (settle (passedRow s (fun r => decide (r.kind = .invM)) req))

/-- A write from a non-owner: which of the two a host's write is, the entry says at its ordering point (R392). -/
def execWrcur (req : CohReq) (s : State) : Host.Outcome State Fault Refusal :=
  .next (settle (coherentRow s ptWrCur .wrCur (fun r => (match r.kind with | .wrCur | .wrBk _ => true | _ => false) && !ownsLine s r) req))

def execWrbk (req : CohReq) (metaS : Bool) (s : State) : Host.Outcome State Fault Refusal :=
  .next (settle (coherentRow s ptWrCur (.wrBk metaS) (fun r => decide (r.kind = .wrBk metaS) && ownsLine s r) req))

def execEvict (req : CohReq) (s : State) : Host.Outcome State Fault Refusal :=
  .next (settle (coherentRow s ptEvictS .evict (fun r => decide (r.kind = .evict)) req))

/-! ### Atomics from other hubs (R451, R455, R461) -/

/-- The members of a combined atomic: agent, tag, partition, epoch. -/
def atomMembers (p : Packet) : List (Nat × Nat × Nat × Nat) :=
  (List.range p.count).map (fun j =>
    let u := p.unit (2 + atomUnits p.word3 + j)
    (bits u 0 12, bits u 12 16, bits u 28 4, bits u 32 32))

/-- A hub, or the hub of a host agent, may operate on a line. -/
def atomPermitted (s : State) (a off : Nat) : Bool :=
  match hubOfAgent s a with
  | some h => (homeCause s a (.remote h) true off).isNone
  | none => false

/-- A member is permitted, fresh in epoch and absent from the result cache (R461). -/
def memberFresh (s : State) (part off : Nat) (m : Nat × Nat × Nat × Nat) : Bool :=
  let old : Bool := match Tab.find? s.fabric.epochs (epochKey m.1 m.2.2.1) with
    | some e => decide (m.1 < 1024) && olderEpoch m.2.2.2 e
    | none => false
  atomPermitted s m.1 off && !old && (storedResult s part m.1 m.2.1).isNone

/-- An atomic of a requester and tag is at its line already, and has not been applied. -/
def atomOpen (s : State) (p : Packet) : Bool :=
  (s.seam.flatMap (fun d => d.waiting ++ d.txns.map SeamTxn.req)).any (fun r =>
    match r.kind, r.packet with
    | .atomic, some q => q.src == p.src && q.tag == p.tag
    | _, _ => false)

/-- The status that refuses an atomic, if any: ACCESS for an address off this hub, unaligned or refused; INVALID for a reserved
operation or width. -/
def atomRefusal (s : State) (p : Packet) : Option Nat :=
  if !atomValid (bits p.word3 0 4) (bits p.word3 4 3) then some 8
  else if isHost p.addr ∨ !isLocal s p.addr ∨ p.addr % 2 ^ bits p.word3 4 3 ≠ 0 then some 1
  else if p.count = 0 ∧ !atomPermitted s p.src (paOff p.addr) then some 1
  else none

/-- An atomic arrives: a stored result is sent again, a full result cache answers NO_ROOM, a combined request that cannot be
applied whole answers SPLIT. -/
def atomicArrives (s : State) (p : Packet) : State :=
  let off := paOff p.addr
  let part := (homePart s off).getD 0
  if atomOpen s p then s
  else match (if p.count = 0 then storedResult s part p.src p.tag else none) with
  | some q => if resultDead s part p.src p.tag then s else send s q
  | none =>
    let room := decide ((resultsOf s part).length + weight p ≤ rcSize)
    if p.count = 0 ∧ !room then answer s p ptAtomRes 5 0 []
    else match atomRefusal s p with
      | some st => if p.count = 0 then answerAtomic s part p st 0 else answer s p ptAtomRes 4 0 []
      | none =>
        if p.count ≠ 0 ∧ (!room ∨ !(atomMembers p).all (memberFresh s part off)) then answer s p ptAtomRes 4 0 []
        else
          seamRequest (hostLine s none p.src 8192 off true) { SeamReq.plain .atomic (.agent p.src p.tag) (off / 64) with
            offset := off % 64, atom := p.word3 % 2 ^ 8, operand := atomOperand p, packet := some p }

def execAtomic (packet : Packet) (s : State) : Host.Outcome State Fault Refusal :=
  .next (settle (delivered s packet ptAtomic (fun s => atomicArrives s packet)))

/-! ### Transactions and their answers (R378, R381, R382, R393, R396) -/

/-- TRANSACTION_CLOSE: a transaction whose answers have all arrived closes. -/
def execTransactionClose (line : Nat) (s : State) : Host.Outcome State Fault Refusal :=
  .next (settle (settleRecvs (closeTxn s line)))

/-- An agent's answer reaches the transaction that awaits it; the line comes with it when the owner wrote it back. -/
def answered (s : State) (line a : Nat) (kinds : SnoopKind → Bool) (data : Option (List Byte)) (served : Bool) : State :=
  match txnOf s line with
  | none => s
  | some t =>
    if !t.awaits.any (fun w => w.agent == a && kinds w.kind) then s
    else
      let e := dirEntry s line
      let s1 := match data with
        | some d => if e.state = .m ∧ e.holders.contains a then lineWrite s line ((d ++ zeroBytes 64).take 64) (2 ^ 64 - 1) false else s
        | none => s
      updTxn s1 line (fun t => { t with
        awaits := t.awaits.filter (fun w => !(w.agent == a && kinds w.kind))
        served := t.served || served })

/-- The snoops that go to a host link of this hub. -/
def SnoopKind.isBi : SnoopKind → Bool
  | .biInv | .biData => true
  | _ => false

/-- The Fwd that this hub carries for a line and an owner. -/
def forwardOf (s : State) (line a : Nat) : Option Forward := s.fabric.forwards.find? (fun f => f.line == line && f.owner == a)

/-- Take a Fwd away. -/
def dropForward (s : State) (f : Forward) : State :=
  updFabric s (fun g => { g with forwards := g.forwards.filter (fun x => decide (x ≠ f)) })

/-- An owner's answer to a forwarded snoop leaves as FwdDone, with the line first sent to the requester that the Fwd names. The
status says that the owner did not answer in time: no field of FwdDone does. -/
def forwardDone (s0 : State) (f : Forward) (data : Option (List Byte)) (keepS : Bool) (status : Nat) : State :=
  let s := dropForward s0 f
  let pa := f.line * 64
  let line := match data with | some d => (d ++ zeroBytes 64).take 64 | none => []
  let s1 := match f.requester, data with
    | some h, some _ => send s (mkPacket s ptFwdData h f.tag pa 1 15 line)
    | _, _ => s
  let word := b2n keepS + 2 * b2n data.isSome + 4 * b2n (f.requester.isSome && data.isSome)
  send s1 { mkPacket s1 ptFwdDone f.home f.tag pa word 15 line with status := status }

/-- BIRSP: a host's response, with the line that it wrote back before it (R381). -/
def birsp (s : State) (pl a : Nat) (data : Option (List Byte)) (keepS : Bool) : State :=
  match forwardOf s pl a with
  | some f => forwardDone s f data keepS 0
  | none => if isLocal s (pl * 64) then answered s (paOff (pl * 64) / 64) a SnoopKind.isBi data false else s

def execBirsp (line : Nat) (agent : Nat) (data : Option (List Byte)) (keepS : Bool) (s : State) : Host.Outcome State Fault Refusal :=
  .next (settle (birsp s line agent data keepS))

/-- BICONFLICT: answered by where the host's own request stands: ahead of the transaction that sent the snoop, it has completed. -/
def biConflict (s : State) (a pl tag : Nat) : State :=
  let line := paOff (pl * 64) / 64
  let snooped : Bool := (forwardOf s pl a).isSome || (isLocal s (pl * 64) && (match txnOf s line with
    | some t => t.awaits.any (fun w => w.agent == a && w.kind.isBi)
    | none => false))
  if snooped then emit s (.conflictAck a pl (!(openTags s a).contains tag)) else s

def execBiconflict (agent : Nat) (line : Nat) (tag : Nat) (s : State) : Host.Outcome State Fault Refusal :=
  .next (settle (biConflict s agent line tag))

/-- INV: the proxy copy is dropped and the Inv answered; a Data on its way is not installed (R445). -/
def invArrives (s : State) (p : Packet) : State :=
  let key := p.addr / 64 * 64
  let coming := s.fabric.requests.any (fun r => r.packet.ptype == ptRdS && r.packet.addr == key)
  let s1 := updFabric s (fun f => { f with
    proxies := f.proxies.filter (fun q => q.1 != key)
    invFirst := if coming && !f.invFirst.contains key then f.invFirst ++ [key] else f.invFirst })
  send s1 (mkPacket s1 ptInvAck p.src p.tag p.addr 0 15 [])

def execInv (packet : Packet) (s : State) : Host.Outcome State Fault Refusal :=
  .next (settle (delivered s packet ptInv (fun s => invArrives s packet)))

/-- FWD: acknowledged at once, and the owner is snooped (R396). -/
def fwdArrives (s : State) (p : Packet) : State :=
  let a := bits p.word3 0 12
  let inv := bit p.word3 12
  let s1 := send s (mkPacket s ptFwdAck p.src p.tag p.addr 0 15 [])
  match linkOfAgent s1 a with
  | none => s1
  | some _ =>
    emit (updFabric s1 (fun f => { f with forwards := f.forwards ++
      [{ line := p.addr / 64, owner := a, home := p.src, tag := p.tag, inv := inv,
         requester := if bit p.word3 23 then some (bits p.word3 13 10) else none, start := s.now }] }))
      (.snoop a (p.addr / 64) (if inv then .biInv else .biData))

def execFwd (packet : Packet) (s : State) : Host.Outcome State Fault Refusal :=
  .next (settle (delivered s packet ptFwd (fun s => fwdArrives s packet)))

/-- The line of this hub that a coherence response names. -/
def respLine (s : State) (p : Packet) : Option Nat := if isLocal s p.addr then some (paOff p.addr / 64) else none

def execInvack (packet : Packet) (s : State) : Host.Outcome State Fault Refusal :=
  .next (settle (delivered s packet ptInvAck (fun s =>
    match respLine s packet with
    | some line => answered s line packet.src (fun k => decide (k = .inv)) none false
    | none => s)))

/-- The owner of a line that a transaction awaits through a hub. -/
def fwdOwner (s : State) (line hub : Nat) : Option Nat :=
  match txnOf s line with
  | none => none
  | some t => (t.awaits.find? (fun w => decide (w.kind = .fwd) && decide (hubOfAgent s w.agent = some hub))).map Await.agent

/-- FWDACK stops the forward timer. -/
def fwdAcked (s : State) (p : Packet) : State :=
  match respLine s p with
  | none => s
  | some line =>
    match fwdOwner s line p.src with
    | none => s
    | some a => updTxn s line (fun t => { t with awaits := t.awaits.map (fun w => if w.agent = a ∧ w.kind = .fwd then { w with acked := true } else w) })

def execFwdack (packet : Packet) (s : State) : Host.Outcome State Fault Refusal :=
  .next (settle (delivered s packet ptFwdAck (fun s => fwdAcked s packet)))

/-- FWDDATA: the line reaches its requester from the owner's hub. -/
def fwdData (s : State) (p : Packet) : State :=
  match findRequest s p.tag with
  | none => s
  | some r => if r.packet.addr = p.addr / 64 * 64 ∧ (r.packet.ptype = ptRdS ∨ r.packet.ptype = ptRdCur) then lineArrives s r p else s

def execFwddata (packet : Packet) (s : State) : Host.Outcome State Fault Refusal :=
  .next (settle (delivered s packet ptFwdData (fun s => fwdData s packet)))

/-! ### Timeouts (R403, Table 11.9) -/

/-- An agent on a die receives a silent mark, unless it has a mark already. -/
def markSilent (s : State) (a : Nat) : State :=
  (List.range 2).foldl (fun x d => if (fenceOf x d a).mark = .none then markAgent x d a .silent else x) s

/-- A wait of the Seam has expired: the record of its row, the counts, and the agent is gone. -/
def seamExpired (s : State) (line a row : Nat) : State :=
  let d := dieOfLine s line
  let page := F.SEAM_BI_sent.page + d
  let s1 := setF (addSatF s F.SEAM_BI_timeouts d 1) F.SEAM_BI_agent d a
  let s2 := fault s1 { cls := 2, cause := 0x000F, page := page, detail := row, agent := a, pa := localPa s (line * 64) }
  markSilent (agentGone (if row = 4 then s2 else raise s2 page 0) line a) a

/-- A wait for an agent's answer of some kinds began this long ago. -/
def awaitedFor (s : State) (line a halfNs : Nat) (want : Await → Bool) : Bool :=
  match txnOf s line with
  | some t => decide (t.opened + halfNs ≤ s.now) && t.awaits.any (fun w => w.agent == a && want w)
  | none => false

/-- FWDDONE: the owner's answer, the line when it wrote it back; a status that is not OK is the link hub's timeout. -/
def fwdDone (s : State) (p : Packet) : State :=
  match respLine s p with
  | none => s
  | some line =>
    match fwdOwner s line p.src with
    | none => s
    | some a =>
      if p.status ≠ 0 then seamExpired s line a 1
      else answered s line a (fun k => decide (k = .fwd)) (if bit p.word3 1 then some (p.payload.take 64) else none) (bit p.word3 2)

def execFwddone (packet : Packet) (s : State) : Host.Outcome State Fault Refusal :=
  .next (settle (delivered s packet ptFwdDone (fun s => fwdDone s packet)))

/-- BIRSP_TIMEOUT: 100 µs at the hub that carries the link. -/
def birspTimeout (s : State) (pl a : Nat) : State :=
  match forwardOf s pl a with
  | some f => if f.start + 200000 ≤ s.now then forwardDone s f none false 1 else s
  | none =>
    let line := paOff (pl * 64) / 64
    if isLocal s (pl * 64) && awaitedFor s line a 200000 (fun w => w.kind.isBi) then seamExpired s line a 1 else s

def execBirspTimeout (line : Nat) (agent : Nat) (s : State) : Host.Outcome State Fault Refusal :=
  .next (settle (birspTimeout s line agent))

/-- FWDACK_TIMEOUT: 50 µs, handled as the BIRsp timeout for the owner. -/
def fwdackTimeout (s : State) (pl a : Nat) : State :=
  let line := paOff (pl * 64) / 64
  if isLocal s (pl * 64) && awaitedFor s line a 100000 (fun w => decide (w.kind = .fwd) && !w.acked) then seamExpired s line a 2 else s

def execFwdackTimeout (line : Nat) (agent : Nat) (s : State) : Host.Outcome State Fault Refusal :=
  .next (settle (fwdackTimeout s line agent))

/-- INVACK_TIMEOUT: 50 µs; the hub is dropped with a silent mark. -/
def invackTimeout (s : State) (pl a : Nat) : State :=
  let line := paOff (pl * 64) / 64
  if isLocal s (pl * 64) && awaitedFor s line a 100000 (fun w => decide (w.kind = .inv)) then seamExpired s line a 4 else s

def execInvackTimeout (line : Nat) (agent : Nat) (s : State) : Host.Outcome State Fault Refusal :=
  .next (settle (invackTimeout s line agent))

/-! ### Leases at the home (R401, R402) -/

/-- LEASE_INSTALL: a die installs the oldest lease record that waits for it, and recalls the page's copies. -/
def leaseInstall (s : State) (d : Nat) : State :=
  match s.regions.leaseReqs.find? (fun r => r.dies.head? == some d) with
  | none => s
  | some r =>
    let s1 := updDie s d (fun x => { x with leases := x.leases ++ [r.lease] })
    let s2 := { s1 with regions := { s1.regions with
      leaseReqs := s1.regions.leaseReqs.map (fun x => if x = r then { x with dies := x.dies.drop 1 } else x) } }
    let mine := (linesOf r.lease.page r.lease.size).filter (fun line => dieOfLine s2 line == d)
    let s3 := mine.foldl (fun a line =>
      if r.lease.ro then (if (dirEntry a line).state = .m then recallLine a line .recallClean else a)
      else recallLine a line .recall) s2
    (List.range 2).foldl (fun a e => drainDie e (2 * (seamDie a e).waiting.length + 8) a) s3

def execLeaseInstall (die : Nat) (s : State) : Host.Outcome State Fault Refusal := .next (settle (leaseInstall s die))

/-! ### The atomic buffer (R398) -/

/-- A buffered line returns to its line cache. -/
def execAtomicBufferEvict (die : Nat) (line : Nat) (s : State) : Host.Outcome State Fault Refusal :=
  .next (settle (if (txnOf s line).isSome then s else updDie s die (fun d => { d with abuf := d.abuf.filter (fun l => l != line) })))

/-! ### The sweep (R352, R354, R404 to R407) -/

/-- The lines of a die's directory that a recall still names. -/
def stillNamed (s : State) (d : Nat) (rc : Recall) : Bool :=
  (seamDie s d).dir.any (fun b => b.2.any (fun w => recallNames s rc (lineOf b.1 w.tag)))

/-- Marks whose sweep returns to its start: a lost or rejoin mark clears, a silent one is swept. -/
def passMarks (s : State) (d pos : Nat) : State :=
  let hit := (seamDie s d).fences.filter (fun e => e.2.start == pos && !e.2.swept)
  hit.foldl (fun a e => raise (setFence a d e.1 (if e.2.mark = .silent then { e.2 with swept := true } else { mark := .none, swept := false, start := 0 }))
    (F.SEAM_CTRL_sweep_rate.page + d) 4) s

/-- Recalls whose sweep returns to its start complete, once no line that they name has a copy out. -/
def passRecalls (s : State) (d pos : Nat) : State :=
  let hit := (seamDie s d).recalls.filter (fun r => r.start == pos && !stillNamed s d r)
  hit.foldl (fun a r =>
    recallEnded (raise (updDie a d (fun x => { x with recalls := x.recalls.filter (fun y => decide (y ≠ r)) })) (F.SEAM_CTRL_sweep_rate.page + d) 4) r) s

/-- SWEEP: the next bucket is read: marked agents are purged, named lines recalled. -/
def sweepBucket (s : State) (d : Nat) : State :=
  let x := seamDie s d
  if 2 ≤ d ∨ !x.sweeping then s
  else
    let lines := (Tab.getC [] x.dir x.position).map (fun w => lineOf x.position w.tag)
    let s1 := lines.foldl (fun a line =>
      let b := if (txnOf a line).isSome then a else purge a line
      if x.recalls.any (fun r => recallNames b r line) then recallLine b line .recall else b) s
    let pos := (x.position + 1) % 2 ^ 25
    let s2 := passRecalls (passMarks (updDie s1 d (fun y => { y with position := pos })) d pos) d pos
    updDie s2 d (fun y => { y with sweeping := !y.recalls.isEmpty || !y.fences.isEmpty })

def execSweep (die : Nat) (s : State) : Host.Outcome State Fault Refusal := .next (settle (sweepBucket s die))

/-- SEAM_FENCE.clear clears a silent mark that the sweep has passed. -/
def fenceClear (s : State) (d : Nat) : State :=
  let a := getF s F.SEAM_FENCE_SEL_agent d
  if d < 2 ∧ (fenceOf s d a).mark = .silent ∧ (fenceOf s d a).swept then setFence s d a { mark := .none, swept := false, start := 0 } else s

def execFenceClear (die : Nat) (s : State) : Host.Outcome State Fault Refusal := .next (settle (fenceClear s die))

/-! ### The directory reserve (R388) -/

/-- RESERVE_REWRITE: the reserve of a partition that has returned is written again from the other copies. -/
def reserveRewrite (s : State) (d p : Nat) : State :=
  let v := getF s F.SEAM_DIR_copy_stale d
  if 2 ≤ d ∨ 12 ≤ p ∨ !bit v p ∨ !partUp s p then s
  else raise (setF s F.SEAM_DIR_copy_stale d (v - 2 ^ p)) (F.SEAM_DIR_copy_stale.page + d) 5

def execReserveRewrite (die : Nat) (part : Nat) (s : State) : Host.Outcome State Fault Refusal :=
  .next (settle (reserveRewrite s die part))

end Sys2Proof.Machine
end

