-- ==== Sys2Proof/Machine/XltOps.lean ====
section
/-! DEFINITION. The context operations, the drain watch and the end of a walk (R309, R317 to R319, R326 to R328). -/

namespace Sys2Proof.Machine

/-- The XLT page. -/
def xltPage : Nat := 8

/-- Answer an operation at once, without effect on the context: code, busy clear, INT_RAW bit 0 (R318). -/
def endOp (s : State) (c code : Nat) : State :=
  raise (setF (setF (setF s F.XLT_CTX_RESULT_code 0 code) F.XLT_CTX_RESULT_busy 0 0) F.XLT_CTX_RESULT_context 0 c) xltPage 0

/-- An operation is in progress until its accesses are performed (R318). -/
def openOp (s : State) (c : Nat) (scope : Option Nat) : State :=
  let s1 := setF (setF (setF s F.XLT_CTX_RESULT_code 0 0) F.XLT_CTX_RESULT_busy 0 1) F.XLT_CTX_RESULT_context 0 c
  { s1 with xlt := { s1.xlt with busy := some scope } }

/-- One operation at a time; one written meanwhile is lost (R309). -/
def oneOp (s : State) (f : State → State) : State :=
  if s.xlt.busy.isSome then raise (setF s F.XLT_CTX_RESULT_lost 0 1) xltPage 2 else f s

/-- What a LOAD does to the context's binding (R481). -/
def rebind (s : State) (c h : Nat) : State :=
  let b := Tab.getC Binding.unbound s.eloan.bindings c
  match b.hash with
  | none => s
  | some g => if g = h then s else loseBinding s c { b with bound := none, hash := none }

/-- LOAD (Table 9.4). -/
def loadContext (s : State) (c : Nat) : State :=
  let pa := getF s F.XLT_CTX_BASE_addr 0 * 2 ^ 21 + 512 * c
  match hubRead s pa 512 with
  | none =>
    let poisoned := isLocal s pa && (linesOf (paOff pa) 512).all (fun l => !refuses s (.tenant 0 false) .rd (l * 64))
    endOp (fault s { cls := 2, cause := causeXlate, page := xltPage, detail := if poisoned then 6 else 7, context := c,
                     pa := pa }) c 1
  | some d =>
    if !descOk s d then endOp s c 1
    else
      let s1 := updContext s c (fun x => contextOf d x.epoch)
      let s2 := rebind s1 c (Config.hash d)
      bumpEpoch (openOp (invalidate s2 (.ctx c)) c (some c)) c

/-- A stream of the context is admitted, or a host queue is bound to it (Table 9.4, UNLOAD). -/
def contextInUse (s : State) (c : Nat) : Bool :=
  s.tick.streams.any (fun e => e.2.budget.context == c) ||
  (List.range 1024).any (fun q => getF s F.HPORT_Q_BIND_enable q == 1 && getF s F.HPORT_Q_BIND_context q == c)

/-- UNLOAD (Table 9.4). -/
def unloadContext (s : State) (c : Nat) : State :=
  if contextInUse s c then endOp s c 2
  else bumpEpoch (openOp (invalidate (updContext s c (fun x => { Context.empty with epoch := x.epoch })) (.ctx c)) c (some c)) c

/-- The epochs an invalidation increments with bump (Table 9.4): every context for INV_ALL. -/
def bumpAll (s : State) : State := (List.range 4096).foldl bumpEpoch s

/-- INV_RANGE (Table 9.4). -/
def invRange (s : State) (c : Nat) (bump : Bool) : State :=
  let v := InvScope.range c (getF s F.XLT_INV_VA_va 0 * 4096) (getF s F.XLT_INV_PAGES_pages 0 * 4096)
  let s1 := openOp (invalidate s v) c (some c)
  if bump then bumpEpoch s1 c else s1

/-- INV_CTX (Table 9.4). -/
def invCtx (s : State) (c : Nat) (bump : Bool) : State :=
  let s1 := openOp (invalidate s (.ctx c)) c (some c)
  if bump then bumpEpoch s1 c else s1

/-- INV_ALL (Table 9.4). -/
def invAll (s : State) (bump : Bool) : State :=
  let s1 := openOp (invalidate s .all) 0 none
  if bump then bumpAll s1 else s1

/-- A context whose writes are not all performed, absent partitions apart (R318); reads are performed as they are made. -/
def contextBusy (s : State) (scope : Option Nat) : Bool :=
  (openWrites s).any (fun w => partUp s (partOfCore w.1) && (match scope with
    | none => true
    | some c => match Tab.find? s.tick.streams (Tab.getC Thread.empty s.threads (w.1 * 64 + w.2.2.1)).handle with
      | some st => st.budget.context == c
      | none => false))

/-- The end of an operation (R318). -/
def finishOp (s : State) : State :=
  match s.xlt.busy with
  | none => s
  | some scope =>
    if contextBusy s scope || !s.xlt.heldBumps.isEmpty then s
    else raise (setF { s with xlt := { s.xlt with busy := none } } F.XLT_CTX_RESULT_busy 0 0) xltPage 0

/-- A held increment takes effect (R327). -/
def releaseBump (s : State) (c : Nat) : State :=
  if s.xlt.heldBumps.contains c && !bumpWaits s c then
    updContext { s with xlt := { s.xlt with heldBumps := s.xlt.heldBumps.erase c } } c
      (fun x => { x with epoch := (x.epoch + 1) % 2 ^ 32 })
  else s

/-- Arm the drain watch (R328). -/
def armDrain (s : State) (c : Nat) : State :=
  setF (setF (setF s F.XLT_DRAIN_STATUS_armed 0 1) F.XLT_DRAIN_STATUS_context 0 c) F.XLT_DRAIN_STATUS_target 0
    (context s c).epoch

/-- The drain watch is complete: armed, and no live descriptor of its context is older than its target (R328). -/
def watchDone (s : State) : Bool :=
  getF s F.XLT_DRAIN_STATUS_armed 0 == 1 &&
  (liveOf s (getF s F.XLT_DRAIN_STATUS_context 0)).all (fun d => !olderEpoch d.epoch (getF s F.XLT_DRAIN_STATUS_target 0))

/-- The drain watch completes (R328). -/
def finishDrain (s : State) : State :=
  if watchDone s then raise (setF (setF s F.XLT_DRAIN_STATUS_armed 0 0) F.XLT_DRAIN_STATUS_done 0 1) xltPage 1 else s

/-- The oldest walk of a core returns: it fills both TLBs unless an invalidation of its context came first (R317, R319). -/
def finishWalk (s : State) (core : Nat) : State :=
  match takeFirst (fun w => w.core == core) s.xlt.walks with
  | none => s
  | some (w, rest) =>
    let s1 := addWrapF { s with xlt := { s.xlt with walks := rest } } F.XLT_WALKS_walks 0 1
    if w.stale || !partUp s (partOfCore core) then s1 else fillPart (fillCore s1 core w.entry) (partOfCore core) w.entry

def execLoad (context : Nat) (s : State) : Host.Outcome State Fault Refusal :=
  .next (settle (oneOp s (fun s => loadContext s context)))

def execUnload (context : Nat) (s : State) : Host.Outcome State Fault Refusal :=
  .next (settle (oneOp s (fun s => unloadContext s context)))

def execInvRange (context : Nat) (bump : Bool) (s : State) : Host.Outcome State Fault Refusal :=
  .next (settle (oneOp s (fun s => invRange s context bump)))

def execInvCtx (context : Nat) (bump : Bool) (s : State) : Host.Outcome State Fault Refusal :=
  .next (settle (oneOp s (fun s => invCtx s context bump)))

def execInvAll (bump : Bool) (s : State) : Host.Outcome State Fault Refusal :=
  .next (settle (oneOp s (fun s => invAll s bump)))

def execInvalidationDone (s : State) : Host.Outcome State Fault Refusal := .next (settle (finishOp s))

def execEpochIncrement (context : Nat) (s : State) : Host.Outcome State Fault Refusal := .next (settle (releaseBump s context))

def execXltDrain (context : Nat) (s : State) : Host.Outcome State Fault Refusal := .next (settle (armDrain s context))

def execDrainDone (s : State) : Host.Outcome State Fault Refusal := .next (settle (finishDrain s))

def execWalkComplete (core : Nat) (s : State) : Host.Outcome State Fault Refusal := .next (settle (finishWalk s core))

end Sys2Proof.Machine
end

