-- ==== Sys2Proof/Machine/RegWrite.lean ====
section
/-! DEFINITION. What a write to management space does (ch. 16): by the access types of the register's fields, with what the
block does on it. -/

namespace Sys2Proof.Machine

/-- A bit of a W1S or WO field that a write sets. -/
def wrote (h : Half) (v : Nat) (r : FRef) : Bool := bit (written h v) r.lo

/-- A write whose fields only start something: range-checked, nothing stored, then its effect. -/
def strobe (s : State) (page off : Nat) (h : Half) (v : Nat) (effect : State → State) : State × Bool :=
  let r := writeByAccess s page off h v
  (effect r.1, r.2)

/-- A W1S bit whose effect completes at once reads 0 again. -/
def lowered (s : State) (r : FRef) (inst : Nat) : State := setF s r inst 0

/-! ### The common registers (Table 16.2, R563, R568, R573) -/

/-- PAGE_CTRL.clamp_clear. -/
def clearClamps (s : State) (page : Nat) : State :=
  let w := (rawReg s page 0x40).toNat
  setReg (setReg s page 0x40 (BitVec.ofNat 64 (setBits w 24 1 0))) page 0x50 0

/-- PAGE_CTRL.lock, on a page that has RWL fields. -/
def lockPage (s : State) (page : Nat) : State :=
  match pageKind page with
  | none => s
  | some (k, _) => if k.lockable then setReg s page 0x10 (rawReg s page 0x10 ||| 1) else s

/-- A write of PAGE_CTRL: lock and int_en by access type, then clamp_clear and unstage. -/
def writePageCtrl (s : State) (page : Nat) (k : Kind) (h : Half) (v : Nat) : State × Bool :=
  let r := writeByAccess s page 0x10 h v
  let s1 := if k.lockable then r.1 else setReg r.1 page 0x10 (rawReg r.1 page 0x10 &&& ~~~(1#64))
  let s2 := if bit (written h v) 2 then clearClamps s1 page else s1
  (if bit (written h v) 3 then unstagePage s2 page else s2, r.2)

/-! ### The blocks -/

/-- TICK. -/
def tickWrite (s : State) (off : Nat) (h : Half) (v : Nat) : State × Bool :=
  match off with
  | 0x100 => strobe s 4 off h v roleWritten
  | 0x148 =>
    let handle := woField s h v F.TICK_ADM_GO_handle
    strobe s 4 off h v (fun a =>
      let a1 := if wrote h v F.TICK_ADM_GO_admit then
        manageRequest a (.enter .management 0xFFFF (some (getF a F.TICK_ADM_ADDR_addr 0 * 64))) 0 else a
      if wrote h v F.TICK_ADM_GO_withdraw then manageRequest a1 (.withdraw .management 0xFFFF handle) handle else a1)
  | _ => writeByAccess s 4 off h v

/-- HUB_POOL (R272, R277, R278). -/
def poolWrite (s : State) (off : Nat) (h : Half) (v : Nat) : State × Bool :=
  match off with
  | 0x100 => if s.pools.placed.any (fun e => !isHbmFrame e.1) then (s, false) else writeByAccess s poolPage off h v
  | 0x120 =>
    let r := writeByAccess s poolPage off h v
    let most := hbmFrames - (s.ras.retired.filter (fun f => isHbmFrame f && Tab.getC 0 s.pools.placed f == 0)).length
    let w := getF r.1 F.HUB_POOL_FACE_RSV_frames 0
    if w ≤ most then r
    else
      let f : Field := { off := 0x120, lo := 0, len := 19, access := .rw, reset := 0, legal := .any }
      (reportClamps (setF r.1 F.HUB_POOL_FACE_RSV_frames 0 most) poolPage 0x120 [(f, w, most)], true)
  | 0x130 =>
    let q : PoolReq := { place := true, region := woField s h v F.HUB_POOL_REQ_region, pmask := woField s h v F.HUB_POOL_REQ_pmask,
                         frames := woField s h v F.HUB_POOL_REQ_frames }
    strobe s poolPage off h v (fun a => match bits (written h v) F.HUB_POOL_REQ_op.lo 2 with
      | 1 => poolRequest a q
      | 2 => poolRequest a { q with place := false, pmask := 0 }
      | _ => a)
  | _ => writeByAccess s poolPage off h v

/-- XLT (Table 9.4). -/
def xltWrite (s : State) (off : Nat) (h : Half) (v : Nat) : State × Bool :=
  match off with
  | 0x108 =>
    let c := woField s h v F.XLT_CTX_OP_context
    let b := wrote h v F.XLT_CTX_OP_bump
    strobe s xltPage off h v (fun a => match bits (written h v) F.XLT_CTX_OP_op.lo 3 with
      | 1 => oneOp a (fun a => loadContext a c)
      | 2 => oneOp a (fun a => unloadContext a c)
      | 3 => oneOp a (fun a => invRange a c b)
      | 4 => oneOp a (fun a => invCtx a c b)
      | 5 => oneOp a (fun a => invAll a b)
      | _ => a)
  | 0x138 => strobe s xltPage off h v (fun a => armDrain a (woField s h v F.XLT_DRAIN_context))
  | _ => writeByAccess s xltPage off h v

/-- HUB_RGN (Table 10.12). -/
def rgnWrite (s : State) (off : Nat) (h : Half) (v : Nat) : State × Bool :=
  if off = 0x108 then
    let i := woField s h v F.HUB_RGN_OP_index
    strobe s rgnPage off h v (fun a => match bits (written h v) F.HUB_RGN_OP_op.lo 3 with
      | 1 => regionOp a (fun a => setRegionOp a i)
      | 2 => regionOp a (fun a => freeRegion a i)
      | 3 => regionOp a (fun a => endRegionOp (setF a F.HUB_RGN_ENTRY_entry 0 (regionEntry a i).toNat) 0)
      | 4 => regionOp a (fun a => shgSync a i)
      | _ => a)
  else writeByAccess s rgnPage off h v

/-- RAS (Table 15.13). -/
def rasWrite (s : State) (off : Nat) (h : Half) (v : Nat) : State × Bool :=
  match off with
  | 0x130 => strobe s rasPage off h v (fun a =>
      if wrote h v F.RAS_PRST_go then beginReset a (woField s h v F.RAS_PRST_partition) 0 else a)
  | 0x150 =>
    let c := woField s h v F.RAS_FENCE_core
    strobe s rasPage off h v (fun a => match bits (written h v) F.RAS_FENCE_op.lo 2 with
      | 1 => coreFence a c
      | 2 => coreUnfence a c
      | _ => a)
  | 0x168 => (if wrote h v F.RAS_RETIRE_next then retireNext s else s, false)
  | 0x170 => strobe s rasPage off h v (fun a =>
      if wrote h v F.RAS_WEDGE_go then managerAbort a (woField s h v F.RAS_WEDGE_job) else a)
  | _ => writeByAccess s rasPage off h v

/-- HPORT pages: retrain, and MAPINV of each link's block. -/
def hportWrite (s : State) (q off : Nat) (h : Half) (v : Nat) : State × Bool :=
  let page := F.HPORT_CFG_split.page + q
  match off with
  | 0x100 =>
    strobe s page off h v (fun a => if wrote h v F.HPORT_CFG_retrain then
      takeSplit (retrainLink (retrainLink (lowered a F.HPORT_CFG_retrain q) (2 * q)) (2 * q + 1)) q else a)
  | 0x1B0 => (if bit (written h v) 0 then mapInvalidate s (2 * q) else s, false)
  | 0x230 => (if bit (written h v) 0 then mapInvalidate s (2 * q + 1) else s, false)
  | _ => writeByAccess s page off h v

/-- NLK_CTRL: enable leaves or enters DISABLED, lane_off fails lanes, retrain takes the link to DETECT. -/
def nlkCtrl (s : State) (n : Nat) (h : Half) (v : Nat) : State × Bool :=
  let was := getF s F.NLK_CTRL_enable n
  let lanes := getF s F.NLK_CTRL_lane_off n
  let r := writeByAccess s (nlkPage n) 0x100 h v
  let on := getF r.1 F.NLK_CTRL_enable n
  let s1 := lowered r.1 F.NLK_CTRL_retrain n
  let s2 := if getF s1 F.NLK_CTRL_lane_off n = lanes then s1 else laneOff s1 n (getF s1 F.NLK_CTRL_lane_off n)
  let s3 := if was = 0 ∧ on = 1 then nlkEnable (setF s2 F.NLK_CTRL_enable n 0) n
    else if was = 1 ∧ on = 0 then nlkDisable s2 n
    else if wrote h v F.NLK_CTRL_retrain then nlkRetrain s2 n
    else s2
  (s3, r.2)

/-- NFAB_RC.clear: high becomes in_use. -/
def rcClear (s : State) (d : Nat) : State :=
  let p := getF s F.NFAB_RC_SEL_partition d
  updFabric s (fun f => { f with rcHigh := Tab.setC 0 f.rcHigh p (resultsOf s p).length })

/-- The HEN registers whose standby copies follow the active ones (Table 16.8). -/
def mirrored (off : Nat) : Bool := [0x108, 0x130, 0x138, 0x140, 0x148].contains off

/-- A LOAD written to HEN_UPD_CTRL: what the Eloan root finds in the image is a free value. -/
def loadWritten (s : State) : State :=
  let good := freeBelow s 2
  let fit := freeBelow good.2 2
  let ver := freeBelow fit.2 (2 ^ 32)
  let svn := freeBelow ver.2 (2 ^ 16)
  updLoad svn.2 (good.1 == 1) (fit.1 == 1) ver.1 svn.1

/-- HEN pages: the active controller's registers take effect and are copied to the standby's page. -/
def henWrite (s : State) (c off : Nat) (h : Half) (v : Nat) : State × Bool :=
  let page := 1 + c
  if !mirrored off then writeByAccess s page off h v
  else if c ≠ s.henyen.active then (s, false)
  else
    let r := writeByAccess s page off h v
    let s1 := if r.1.henyen.mirrorOk then setReg r.1 (2 - c) off (rawReg r.1 page off) else r.1
    if off = 0x138 then
      (match bits (written h v) F.HEN_UPD_CTRL_op.lo 3 with
        | 1 => loadWritten s1
        | 2 => updStart s1
        | 3 => updRollback s1
        | _ => s1, r.2)
    else (s1, r.2)

/-- A write to a block's registers, from +0x100. -/
def blockWrite (s : State) (page : Nat) (k : Kind) (i off : Nat) (h : Half) (v : Nat) : State × Bool :=
  match k with
  | .kTICK => tickWrite s off h v
  | .kHEN => henWrite s i off h v
  | .kHUB_POOL => poolWrite s off h v
  | .kXLT => xltWrite s off h v
  | .kHUB_RGN => rgnWrite s off h v
  | .kRAS => rasWrite s off h v
  | .kSYNC => if off = 0x100 then (if wrote h v F.SYNC_WAITERS_clear then waitersClear s i else s, false) else writeByAccess s page off h v
  | .kSEAM => if off = 0x138 then (if wrote h v F.SEAM_FENCE_clear then fenceClear s i else s, false) else writeByAccess s page off h v
  | .kNFAB => if off = 0x170 then (if wrote h v F.NFAB_RC_clear then rcClear s i else s, false) else writeByAccess s page off h v
  | .kNFAB_CMP => if off = 0x190 then (if wrote h v F.NFAB_CMP_HIGH_clear then cmpHighClear s i else s, false) else writeByAccess s page off h v
  | .kHPORT => hportWrite s i off h v
  | .kNLK => if off = 0x100 then nlkCtrl s i h v else writeByAccess s page off h v
  | .kSE_BMC => if off = 0x100 then (if bit (written h v) 0 then bmcFlush s i else s, false) else writeByAccess s page off h v
  | .kTALLY => tallyWrite s i off h v
  | .kTALLY_BW => bwWrite s i off h v
  | .kCLK => if off = 0x108 then strobe s page off h v preferRef else writeByAccess s page off h v
  | .kPIN =>
    if off = 0x100 then (pinFuncWrite s 0 h v, false) else if off = 0x108 then (pinFuncWrite s 1 h v, false)
    else writeByAccess s page off h v
  | .kCORE => if off = 0x130 then (if bit (written h v) 0 then coreFlush s i else s, false) else writeByAccess s page off h v
  | .kHPORT_Q => if off = 0x100 then strobe s page off h v (fun a => settleQueue a i) else writeByAccess s page off h v
  | .kHUB_ID | .kHUB_RPT | .kHAUL | .kTICK_PART | .kELN | .kCRYP | .kPWR | .kPWRPKG | .kTE | .kVE | .kSE => writeByAccess s page off h v

/-- A write ignored because its partition is not up (R565). -/
def ignoredWrite (s : State) : State := addSatF s F.HEN_MCTP_ignored s.henyen.active 1

/-- A write to a register: the state after it, and whether a field was clamped (R561, R565, R572). -/
def writeReg (s : State) (page off : Nat) (h : Half) (v : Nat) : State × Bool :=
  match pageKind page with
  | none => (s, false)
  | some (k, i) =>
    if !pageExists s page then (s, false)
    else if pageDown s page then (ignoredWrite s, false)
    else if off = 0x10 then writePageCtrl s page k h v
    else if off < 0x100 then writeByAccess s page off h v
    else blockWrite s page k i off h v

/-- The VF of queue q in the addresses of this model's commands: page 65,536 + q (Table 10.4). -/
def vfPage (page : Nat) : Option Nat := if 65536 ≤ page ∧ page < 65536 + 1024 then some (page - 65536) else none

/-- A write of a whole register, of management space or of a VF's BAR0. -/
def registerWrite (s : State) (page off v : Nat) : State :=
  match vfPage page with
  | some q => vfWrite s q off v
  | none => (writeReg s page off .both v).1

/-! ### The commands -/

/-- REGISTER_WRITE (R17): a write takes effect by the access types of its fields. -/
def execRegisterWrite (page offset value : Nat) (s : State) : Host.Outcome State Fault Refusal :=
  .next (settle (registerWrite s page offset value))

/-- PAGE_LOCK (R563). -/
def execPageLock (page : Nat) (s : State) : Host.Outcome State Fault Refusal :=
  .next (settle (if pageDown s page ∨ !pageExists s page then s else lockPage s page))

/-- CLAMP_CLEAR (R573). -/
def execClampClear (page : Nat) (s : State) : Host.Outcome State Fault Refusal :=
  .next (settle (if pageDown s page ∨ !pageExists s page then s else clearClamps s page))

/-- UNSTAGE (R568). -/
def execUnstage (page : Nat) (s : State) : Host.Outcome State Fault Refusal :=
  .next (settle (if pageDown s page ∨ !pageExists s page then s else unstagePage s page))

/-- UPD_LOAD (R585): HEN_UPD_CTRL.op LOAD, with what the Eloan root finds in the image. -/
def execUpdLoad (verified compatible : Bool) (version svn : Nat) (s : State) : Host.Outcome State Fault Refusal :=
  .next (settle (updLoad s verified compatible version svn))

/-- UPD_START (R586). -/
def execUpdStart (s : State) : Host.Outcome State Fault Refusal := .next (settle (updStart s))

/-- UPD_ROLLBACK (R589). -/
def execUpdRollback (s : State) : Host.Outcome State Fault Refusal := .next (settle (updRollback s))

end Sys2Proof.Machine
end

