-- ==== Sys2Proof/Machine/Henyen.lean ====
section
/-! DEFINITION. The Henyen controllers (ch. 16, R637): register messages and their operations, interrupt events, the mirror, the
lease cells, step-down and takeover. -/

namespace Sys2Proof.Machine

/-! ### Register operations (Table 16.4) -/

def opRead : Nat := 1
def opWrite : Nat := 2
def opReadLo : Nat := 3
def opReadHi : Nat := 4
def opWriteLo : Nat := 5
def opWriteHi : Nat := 6
def opArm : Nat := 7

/-- An operation: op, page, offset, value. -/
abbrev RegOp := Nat × Nat × Nat × Nat

/-- Status of a write: CLAMPED when a field was clamped, ABSENT when the page is not ready. -/
def writeStatus (ready clamped : Bool) : Nat := if !ready then 4 else if clamped then 1 else 0

/-- The effect of an operation on an offset that exists: status, value read, state. -/
def regEffect (s : State) (op page off v : Nat) : (Nat × Nat) × State :=
  let ready := pageState s page == 1
  let rd (f : Nat → Nat) : (Nat × Nat) × State := ((if ready then 0 else 4, f (readReg s page off)), s)
  let wr (off : Nat) (h : Half) (v : Nat) : (Nat × Nat) × State :=
    let r := writeReg s page off h v
    ((writeStatus ready r.2, 0), r.1)
  match op with
  | 1 => rd id
  | 2 => wr off .both v
  | 3 => rd (fun x => x % 2 ^ 32)
  | 4 => rd (fun x => x / 2 ^ 32)
  | 5 => wr off .lower v
  | 6 => wr off .upper v
  | _ => wr 0x60 .both 1

/-- An operation (R578): BAD_OFFSET and BAD_OP are not performed. -/
def regOp (s : State) (o : RegOp) : (Nat × Nat) × State :=
  if o.2.2.1 % 8 ≠ 0 ∨ 0xFF8 < o.2.2.1 then ((2, 0), s)
  else if o.1 = 0 ∨ 7 < o.1 then ((3, 0), s)
  else regEffect s o.1 (o.2.1 % 65536) o.2.2.1 o.2.2.2

/-- The active controller performs register operations: it runs, and the hub is owned (R560). -/
def henServes (s : State) : Bool := nth false s.henyen.running s.henyen.active && s.eloan.owned

/-- A message refused (R560, R578). -/
def refuseMessage (s : State) : State := addSatF s F.HEN_MCTP_refused s.henyen.active 1

/-! ### The log (R579, R581) -/

/-- Bytes of a message. -/
def HenMsg.size (m : HenMsg) : Nat := 8 + 16 * m.ops.length

/-- The next operation of a message. -/
def HenMsg.next (m : HenMsg) : Option RegOp := m.ops[m.results.length]?

/-- The response of a message leaves and its buffer is free. -/
def respond (s : State) (m : HenMsg) : State :=
  let s1 := m.results.foldl (fun a r => emit a (.regResult r.1 r.2)) s
  let k := m.die * 4 + m.transport
  updHen s1 (fun h => { h with buffers := Tab.setC 0 h.buffers k (Tab.getC 0 h.buffers k - m.size) })

/-- What the active controller does is copied to the standby while the mirror is current (R581). -/
def noteMirror (s : State) : State := if s.henyen.mirrorOk then updHen s (fun h => { h with mirrorAt := s.now }) else s

/-- The next operation of the oldest message is performed; its response leaves after its last one. -/
def serveHead (s : State) (m : HenMsg) (rest : List HenMsg) (o : RegOp) : State :=
  let r := regOp s o
  let m1 := { m with results := m.results ++ [r.1] }
  let s1 := noteMirror r.2
  if m1.results.length < m1.ops.length then updHen s1 (fun h => { h with log := m1 :: rest })
  else respond (updHen s1 (fun h => { h with log := rest })) m1

/-- An operation without what its op does not use (Table 16.4). -/
def RegOp.plain (o : RegOp) : RegOp :=
  match o.1 with
  | 1 | 3 | 4 => (o.1, o.2.1, o.2.2.1, 0)
  | 5 | 6 => (o.1, o.2.1, o.2.2.1, o.2.2.2 % 2 ^ 32)
  | 7 => (7, o.2.1, 0, 0)
  | _ => o

/-- Undefined operations of the message in progress are answered BAD_OP or BAD_OFFSET as their turn comes. -/
def skipUndefined : Nat → State → State
  | 0, s => s
  | n + 1, s =>
    match s.henyen.log with
    | [] => s
    | m :: rest =>
      match m.next with
      | some o => if o.1 = 0 ∨ 7 < o.1 then skipUndefined n (serveHead s m rest o) else s
      | none => s

/-- Operations that the log holds. -/
def loggedOps (s : State) : Nat := (s.henyen.log.map (fun m => m.ops.length)).sum

/-- A register operation takes effect: the next one of the message in progress, or, when none is in progress, of a message of its
own (R579). -/
def performOp (s : State) (o : RegOp) : State :=
  if !henServes s then refuseMessage s
  else
    let alone (s : State) : State :=
      let r := regOp s o
      emit (noteMirror r.2) (.regResult r.1.1 r.1.2)
    match s.henyen.log with
    | [] => alone s
    | m :: rest =>
      if m.next.map RegOp.plain = some (RegOp.plain o) then
        (match m.next with
          | some x => skipUndefined (loggedOps s) (serveHead s m rest x)
          | none => s)
      else if m.results.isEmpty then alone s
      else s

/-- Every operation of a message that has no recorded result is performed, in order, and the message is answered (R583). -/
def finishMessage (s : State) (m : HenMsg) : State :=
  let r := (m.ops.drop m.results.length).foldl (fun (a : State × List (Nat × Nat)) o =>
    let e := regOp a.1 o
    (e.2, a.2 ++ [e.1])) (s, m.results)
  respond r.1 { m with results := r.2 }

/-! ### MCTP (R577, R578) -/

/-- The operations of a register message, when its header obeys Table 16.4. -/
def messageOps (bs : List Byte) : Option (Nat × List RegOp) :=
  let f (off n : Nat) : Nat := leValue ((bs.drop off).take n)
  let n := f 2 2
  if f 0 1 = 1 ∧ f 1 1 = 0 ∧ 1 ≤ n ∧ n ≤ 128 ∧ bs.length = 8 + 16 * n then
    some (f 4 4, (List.range n).map (fun i => (f (8 + 16 * i) 1, f (0x0A + 16 * i) 2, f (0x0C + 16 * i) 2, f (0x10 + 16 * i) 8)))
  else none

/-- A transport of a die carries messages: 0 its I3C port, 1 PCIe, on a host link of the die that is up. -/
def transportLive (s : State) (die transport : Nat) : Bool :=
  if transport = 0 then i3cLive s die
  else (List.range 8).any (fun l => getL s F.HPORT_LINK_STATUS_state (8 * die + l) == 2)

/-- A message at a full buffer: the I3C target refuses it, over PCIe it is discarded and counted. -/
def bufferFull (s : State) (die transport : Nat) : State :=
  if transport = 0 then emit s (.nack die)
  else raise (addSatF s F.HEN_MCTP_dropped s.henyen.active 1) (henPage s) 4

/-- An MCTP message of the register type arrives: in a manager's session or outside one. -/
def mctpReceive (s : State) (die transport endpoint : Nat) (session : Bool) (bs : List Byte) : State :=
  if 2 ≤ die ∨ 2 ≤ transport ∨ !transportLive s die transport then s
  else
    let k := die * 4 + transport
    if 65536 < Tab.getC 0 s.henyen.buffers k + bs.length then bufferFull s die transport
    else if !session ∨ !s.eloan.owned then refuseMessage s
    else
      let s1 := updHen s (fun h => { h with sessions := if h.sessions.contains endpoint then h.sessions else h.sessions ++ [endpoint] })
      match messageOps bs with
      | none => refuseMessage s1
      | some m =>
        let s2 := addWrapF (noteMirror (updHen s1 (fun h => { h with
          buffers := Tab.setC 0 h.buffers k (Tab.getC 0 h.buffers k + bs.length)
          log := h.log ++ [{ die := die, transport := transport, endpoint := endpoint, seq := m.1, ops := m.2, results := [] }] })))
          F.HEN_MCTP_accepted s.henyen.active 1
        if henServes s2 then skipUndefined (loggedOps s2) s2 else s2

/-! ### Interrupt events (R575) -/

/-- The event message of a group goes to every manager session. -/
def sendEvent (s : State) (g : Nat) : State := s.henyen.sessions.foldl (fun a e => emit a (.event e g)) s

/-- A group that has become pending: its event leaves. -/
def intEvent (s : State) (g : Nat) : State :=
  if s.eventsDue.contains g ∧ nth false s.henyen.running s.henyen.active then sendEvent { s with eventsDue := s.eventsDue.erase g } g else s

/-- The events are repeated while interrupts pend and remind_ms is not 0. -/
def intRemind (s : State) : State :=
  if getF s F.HEN_CTRL_remind_ms s.henyen.active = 0 ∨ !nth false s.henyen.running s.henyen.active then s
  else (intSum s.pendingPages).foldl sendEvent s

/-! ### The mirror and the lease (R581, R583, R637) -/

/-- The mirror stops being current. -/
def mirrorLost (s : State) : State :=
  if s.henyen.mirrorOk then raise (updHen s (fun h => { h with mirrorOk := false })) (henPage s) 1 else s

/-- The mirror is rebuilt in the standby: the registers whose copies follow the active ones are copied. -/
def rebuildMirror (s : State) : State :=
  let a := s.henyen.active
  let s1 := [0x108, 0x130, 0x138, 0x140, 0x148].foldl (fun x off => setReg x (2 - a) off (rawReg x (1 + a) off)) s
  updHen s1 (fun h => { h with mirrorOk := true, mirrorAt := s.now })

/-- Change the cells that a controller reaches. -/
def mapCells (l : List Nat) (reach : List Bool) (f : Nat → Nat) : List Nat :=
  (l.zip reach).map (fun c => if c.2 then f c.1 else c.1)

/-- The active controller adds 1 to the count of each cell it reaches. -/
def leaseRenew (s : State) (reach : List Bool) : State :=
  if !nth false s.henyen.running s.henyen.active || !reach.any id then s
  else updHen s (fun h => { h with
    cells := mapCells h.cells reach (fun c => c / 2 ^ 32 * 2 ^ 32 + (c + 1) % 2 ^ 32), lastRenew := s.now })

/-- The standby samples the cells it reaches. A cell that it does not reach has shown it no count. A controller that had stopped
reads a cell again and the mirror is rebuilt: it is standby. -/
def leaseSample (s : State) (reach : List Bool) : State :=
  let b := 1 - s.henyen.active
  if nth false s.henyen.running b then
    updHen s (fun h => { h with
      sampled := ((h.sampled.zip h.cells).zip reach).map (fun x => if x.2 then x.1.2 else x.1.1)
      lastMove := ((h.lastMove.zip (h.sampled.zip h.cells)).zip reach).map (fun x =>
        if x.2 && x.1.2.1 == x.1.2.2 then x.1.1 else s.now) })
  else if reach.any id && nth false s.henyen.running s.henyen.active then
    rebuildMirror (updHen s (fun h => { h with running := setNth h.running b true, sampled := h.cells, lastMove := [s.now, s.now] }))
  else s

/-- The active controller has renewed neither cell for 4 ms: it stops. -/
def stepDown (s : State) : State :=
  if nth false s.henyen.running s.henyen.active && decide (s.henyen.lastRenew + 8000000 ≤ s.now) then
    updHen s (fun h => { h with running := setNth h.running h.active false })
  else s

/-- The standby may take over: the mirror silent for 5 ms, both cells unmoved in its samples for 5 ms and still as it saw them, so
that both swaps succeed. -/
def mayTakeOver (s : State) (reach : List Bool) : Bool :=
  let h := s.henyen
  nth false h.running (1 - h.active) && decide (h.mirrorAt + 10000000 ≤ s.now) && reach.length == 2 && reach.all id &&
    h.lastMove.all (fun t => decide (t + 10000000 ≤ s.now)) && h.sampled == h.cells

/-- Takeover: the standby is active, the former active controller has stopped, and every logged message is answered from its
records or performed and answered. -/
def takeover (s : State) (reach : List Bool) : State :=
  if !mayTakeOver s reach then s
  else
    let old := s.henyen.active
    let s1 := switchActive (updHen s (fun h => { h with running := setNth h.running old false }))
    let log := s1.henyen.log
    log.foldl finishMessage (mirrorLost (updHen s1 (fun h => { h with log := [] })))

/-! ### The commands -/

/-- READ (R578). The VF pages of a host queue are read by its host (Table 10.4). -/
def execRead (page offset : Nat) (s : State) : Host.Outcome State Fault Refusal :=
  .next (settle (match vfPage page with
    | some q => emit s (.regResult 0 (vfRead s q offset))
    | none => performOp s (opRead, page, offset, 0)))

/-- WRITE (R578). -/
def execWrite (page offset value : Nat) (s : State) : Host.Outcome State Fault Refusal :=
  .next (settle (performOp s (opWrite, page, offset, value)))

/-- READ_LO (R578). -/
def execReadLo (page offset : Nat) (s : State) : Host.Outcome State Fault Refusal :=
  .next (settle (performOp s (opReadLo, page, offset, 0)))

/-- READ_HI (R578). -/
def execReadHi (page offset : Nat) (s : State) : Host.Outcome State Fault Refusal :=
  .next (settle (performOp s (opReadHi, page, offset, 0)))

/-- WRITE_LO (R22). -/
def execWriteLo (page offset value : Nat) (s : State) : Host.Outcome State Fault Refusal :=
  .next (settle (performOp s (opWriteLo, page, offset, value)))

/-- WRITE_HI (R22). -/
def execWriteHi (page offset value : Nat) (s : State) : Host.Outcome State Fault Refusal :=
  .next (settle (performOp s (opWriteHi, page, offset, value)))

/-- ARM (R25). -/
def execArm (page : Nat) (s : State) : Host.Outcome State Fault Refusal :=
  .next (settle (performOp s (opArm, page, 0x60, 1)))

/-- MCTP_RECEIVE (R577). -/
def execMctpReceive (die transport endpoint : Nat) (session : Bool) (message : List Byte) (s : State) : Host.Outcome State Fault Refusal :=
  .next (settle (mctpReceive s die transport endpoint session message))

/-- INT_EVENT (R575). -/
def execIntEvent (group : Nat) (s : State) : Host.Outcome State Fault Refusal := .next (settle (intEvent s group))

/-- INT_REMIND (R575). -/
def execIntRemind (s : State) : Host.Outcome State Fault Refusal := .next (settle (intRemind s))

/-- MIRROR_LOST (R581). -/
def execMirrorLost (s : State) : Host.Outcome State Fault Refusal := .next (settle (mirrorLost s))

/-- LEASE_RENEW (R637): which of SD0 and SD1 the active controller reaches. -/
def execLeaseRenew (sd0 sd1 : Bool) (s : State) : Host.Outcome State Fault Refusal := .next (settle (leaseRenew s [sd0, sd1]))

/-- LEASE_SAMPLE (R637): which of SD0 and SD1 the standby reaches. -/
def execLeaseSample (sd0 sd1 : Bool) (s : State) : Host.Outcome State Fault Refusal := .next (settle (leaseSample s [sd0, sd1]))

/-- STEP_DOWN (R637). -/
def execStepDown (s : State) : Host.Outcome State Fault Refusal := .next (settle (stepDown s))

/-- TAKEOVER (R583, R637). -/
def execTakeover (sd0 sd1 : Bool) (s : State) : Host.Outcome State Fault Refusal := .next (settle (takeover s [sd0, sd1]))

end Sys2Proof.Machine
end

