-- ==== Sys2Proof/Machine/Query.lean ====
section
/-! DEFINITION. The messages of Secrecy that report state (ch. 14): QUERY (R499, R500, R603), SVN_COMMIT (R504) and
GET_MEASUREMENTS (R505). -/

namespace Sys2Proof.Machine

/-! ### QUERY -/

/-- Partitions of the hub. -/
def allParts : List Nat := List.range 12

/-- A counter item of Table 17.2. -/
def counterItem (s : State) (p n : Nat) : List Byte :=
  let r (off : Nat) : Nat := (rawReg s (tallyPage p) (off + 8 * n)).toNat
  leBytes 1 p ++ leBytes 1 n ++ leBytes 6 0 ++ leBytes 8 (r 0x100) ++ leBytes 8 (r 0x300) ++ leBytes 8 (r 0x500)

/-- The counter items of a tenant, in rising partition and counter. -/
def countersOf (s : State) (t : Nat) : List Byte :=
  allParts.flatMap (fun p => ((List.range 64).filter (fun n => cfgF s p n F.TALLY_CFGn_tid == t)).flatMap (counterItem s p))

/-- Partitions whose sampler samples a tenant. -/
def sampledFor (s : State) (t : Nat) : List Nat := allParts.filter (fun p => getF s F.TALLY_SAMP_CTRL_tid p == t)

/-- The sample records of a tenant, oldest first in each partition. -/
def samplesOf (s : State) (t : Nat) : List Byte := (sampledFor s t).flatMap (fun p => (sampler s p).records.flatten)

/-- The records returned leave the buffers. -/
def takeSamples (s : State) (t : Nat) : State := (sampledFor s t).foldl (fun a p => updSampler a p (fun x => { x with records := [] })) s

/-- The full copies of the fault records of a tenant, newest first (R520). -/
def copiesOf (s : State) (t : Nat) : List Byte := (Tab.getC [] s.eloan.fullCopies t).flatten

/-- What Table 14.7 hides and the tenant may read: microwords tagged with its contexts, state words of its objects, program
counters of its streams' threads, the latest fault address, the identifiers of its resident programs. -/
def hiddenOf (s : State) (t : Nat) : List Byte :=
  let mine (c : Nat) : Bool := tidOf s c == t
  s.cores.flatMap (fun e => (e.2.ucode.filter (fun w => !w.2.shared && mine w.2.context)).flatMap (fun w =>
    leBytes 2 e.1 ++ leBytes 2 w.1 ++ leBytes 16 w.2.word)) ++
  (s.sync.assigned.filter (fun e => mine e.2)).flatMap (fun e => leBytes 4 e.1 ++ leBytes 8 (stateWord s e.1)) ++
  (s.threads.filter (fun e => decide (e.2.state ≠ .free) && mine (streamCtx s e.2.handle))).flatMap (fun e => leBytes 4 e.1 ++ leBytes 8 e.2.pc) ++
  (if mine (getF s F.XLT_FAULT_context 0) then leBytes 8 (rawReg s 8 0x150).toNat else []) ++
  (s.haul.filter (fun e => mine e.2.context)).flatMap (fun e => leBytes 4 e.1 ++ leBytes 8 e.2.id)

/-- QUERY of a tenant: its counters, its samples, which leave the buffers, the full copies of its fault records, and what is
hidden from management space. -/
def queryMsg (s : State) (t : Nat) : State :=
  checked s [(t == 0 || !tidKnown s t, elnNotFound)] (fun s =>
    let s1 := [countersOf s t, samplesOf s t, copiesOf s t, hiddenOf s t].foldl (fun a d => emit a (.records d)) s
    elnAnswer (takeSamples s1 t) elnOk)

def execQuery (tid : Nat) (s : State) : Host.Outcome State Fault Refusal := .next (settle (queryMsg s tid))

/-! ### SVN_COMMIT -/

/-- Raises left for a class: 0 Eloan runtime, 1 Henyen, 2 microcode and stock images. -/
def raisesLeft (s : State) (cls : Nat) : Nat := nth 0 s.eloan.raises cls

/-- The fused minimum and the running version of a class. -/
def classSvn (s : State) (cls : Nat) : Nat × Nat :=
  match cls with
  | 0 => (s.eloan.minEloan, s.henyen.eloan.svn)
  | 1 => (s.eloan.minHenyen, (henImage s s.henyen.active).svn)
  | _ => (s.eloan.minUcode, min s.henyen.micro.svn s.henyen.stock.svn)

/-- A class's minimum rises to its running image's version, at the cost of one raise. -/
def raiseMin (s : State) (cls v : Nat) : State :=
  updEloan s (fun e => { e with
    minEloan := if cls = 0 then v else e.minEloan
    minHenyen := if cls = 1 then v else e.minHenyen
    minUcode := if cls = 2 then v else e.minUcode
    raises := setNth e.raises cls (nth 0 e.raises cls - 1) })

/-- SVN_COMMIT (R504). -/
def svnCommit (s : State) (cls : Nat) (owner : Bool) : State :=
  if !(owner && s.eloan.owned) then badSignature s
  else
    let v := classSvn s cls
    checked s [(decide (2 < cls), elnBadArg), (decide (v.1 < v.2) && raisesLeft s cls == 0, elnFuses)]
      (fun s => elnAnswer (if v.1 < v.2 then raiseMin s cls v.2 else s) elnOk)

def execSvnCommit (cls : Nat) (ownerSigned : Bool) (s : State) : Host.Outcome State Fault Refusal :=
  .next (settle (svnCommit s cls ownerSigned))

/-! ### Measurements -/

/-- The state that an index of Table 14.8 covers. -/
def measured14 (s : State) (t i : Nat) : List Nat :=
  let e := s.eloan
  let image (x : Image) : List Nat := [x.cls, x.version, x.svn]
  match i with
  | 1 => [s.fuse.serial]
  | 2 => image s.henyen.eloan
  | 3 => image (henImage s s.henyen.active)
  | 4 => image (henImage s (1 - s.henyen.active))
  | 5 => allParts.map (fun p => Tab.getC s.henyen.micro.version s.henyen.microVer p)
  | 6 => allParts.map (fun p => Tab.getC s.henyen.stock.version s.henyen.stockVer p)
  | 7 => [b2n e.owned, e.ownerHash, e.ownerGen, e.minEloan, e.minHenyen, e.minUcode, e.minPeer, b2n e.cosign] ++
      allParts.map (fun p => Tab.getC 0 e.debugOpen p)
  | 8 => [hubId s, s.startup.domain, b2n s.fuse.variantB, b2n s.fuse.gradeL] ++ s.fuse.memOnly ++ allParts.map (fun p => b2n (partUp s p)) ++
      (List.range 48).map (fun n => (port s n).partnerHub)
  | _ => (e.bindings.filter (fun b => b.2.bound == some t)).flatMap (fun b => [b.1, b.2.hash.getD 0]) ++
      (e.keys.filter (fun k => k.2.tid == t)).flatMap (fun k => [k.1, k.2.state.code, b2n k.2.integrity, k.2.bin]) ++
      (e.windows.filter (fun w => w.tid == t)).flatMap (fun w => [w.kind, w.hub, w.first, w.count, w.region]) ++
      (e.linkTid.filter (fun l => l.2 == t)).map Prod.fst ++ (e.clusterTid.filter (fun c => c.2 == t + 1)).map Prod.fst ++
      (s.cores.filter (fun c => c.2.ucode.any (fun w => !w.2.shared && tidOf s w.2.context == t))).flatMap (fun c => [c.1, c.2.imageId])

/-- A controller's image has been verified under R504; measurements 3 and 4 are 0 without one (R630). -/
def imageVerified (s : State) (c : Nat) : Bool := (nth (false, 0, 0) s.board.images (nth 0 s.henyen.slot c)).1

/-- An index is reported as 0: a controller that runs no verified image. -/
def notMeasured (s : State) (i : Nat) : Bool :=
  (i == 3 && !imageVerified s s.henyen.active) || (i == 4 && !imageVerified s (1 - s.henyen.active))

/-- The measurements of a session: index 9 only in a tenant's own. -/
def measurementsFor (s : State) (t : Nat) : List Nat :=
  (range 1 8).map (fun i => if notMeasured s i then 0 else Config.measure i (measured14 s t i)) ++ [if 0 < t then Config.measure 9 (measured14 s t 9) else 0]

/-- GET_MEASUREMENTS (R505), in a session of TID t, 0 for any other. -/
def execGetMeasurements (session : Nat) (s : State) : Host.Outcome State Fault Refusal :=
  .next (settle (emit s (.measurements (measurementsFor s session))))

end Sys2Proof.Machine
end

