-- ==== Sys2Proof/Machine/Start.lean ====
section
/-! DEFINITION. Start-up, joining and leaving (ch. 19): cold start and cold reset, the domain messages, warm reset and the return
from QUIESCED. Times are in half-nanoseconds. -/

namespace Sys2Proof.Machine

/-! ### Cold reset (R628, R650, R653) -/

/-- What stands in one-time fuses and flash outlives every reset: the owner record, the minimum versions. -/
def fusedEloan (e : Eloan) : Eloan :=
  { Eloan.reset with
    owned := e.owned, ownerGen := e.ownerGen, ownerHash := e.ownerHash, managerHash := e.managerHash, cosign := e.cosign,
    minEloan := e.minEloan, minHenyen := e.minHenyen, minUcode := e.minUcode, minPeer := e.minPeer, raises := e.raises }

/-- A partition's power machinery with its sensors, and the trip that holds it asleep (R622). -/
def sensorsOnly (x : PowerPart) : PowerPart :=
  { PowerPart.cold with coreTemp := x.coreTemp, stackTemp := x.stackTemp, tripped := x.tripped }

/-- A cold reset: everything is lost but what is fused, soldered or in flash, the supplies, the references and the heat. -/
def coldReset (s : State) : State :=
  { State.reset with
    pending := s.pending, free := s.free, out := s.out, fuse := s.fuse, board := s.board, eloan := fusedEloan s.eloan
    henyen := { Henyen.reset with eloan := s.henyen.eloan, micro := s.henyen.micro, stock := s.henyen.stock }
    power := s.power.map (fun e => (e.1, sensorsOnly e.2))
    pkg := { PowerPkg.reset with vin := s.pkg.vin, dieTemp := s.pkg.dieTemp }
    pins := { s.pins with lands := [] }, clocks := s.clocks }

/-! ### Stages that cold start and warm reset share (Tables 19.1 and 19.4) -/

/-- The flash slot whose image runs: of those that verify, under R504, the one of the higher version (R580). -/
def bestSlot (s : State) : Option Nat :=
  let ok (i : Nat) : Bool := let x := nth (false, 0, 0) s.board.images i; x.1 && decide (s.eloan.minHenyen ≤ x.2.2)
  let ver (i : Nat) : Nat := (nth (false, 0, 0) s.board.images i).2.1
  if ok 0 && (!ok 1 || decide (ver 1 ≤ ver 0)) then some 0 else if ok 1 then some 1 else none

/-- Both controllers run: ID0 active, ID1 standby with the mirror built, the lease cells with ID0 as holder (R580, R637). -/
def startHenyen (s : State) (slot : Nat) : State :=
  updHen s (fun h => { h with
    active := 0, running := [true, true], cells := [0, 0], sampled := [0, 0], lastMove := [s.now, s.now], lastRenew := s.now,
    mirrorOk := true, mirrorAt := s.now, slot := [slot, slot] })

/-- Registers whose reset values the straps and the variant give: PIN_STRAP, HPORT_CFG.split and the split it trains with (R339),
PWR_PART_TARGET.point (Table 18.8). -/
def strapRegs (s : State) : State :=
  let s1 := setF (setF (setF s F.PIN_STRAP_split 0 (s.board.split % 256)) F.PIN_STRAP_addr 0 (s.board.i3cAddr % 4))
    F.PIN_STRAP_owner_clear 0 (b2n s.board.ownerClear)
  let s2 := (List.range 8).foldl (fun a q => setF a F.HPORT_CFG_split q (b2n (bit s.board.split q))) s1
  let s3 := { s2 with splits := (List.range 8).filterMap (fun q => if bit s.board.split q then some (q, 1) else none) }
  (List.range 12).foldl (fun a p => setF a F.PWR_PART_TARGET_point p (topPoint s)) s3

/-- HUB_POOL_ROWS over the channels that are not retired (R271, R630). -/
def setRows (s : State) : State :=
  let caps := ((List.range 24).filter (fun c => !s.ras.retiredChannels.contains c)).map (fun c => nth 0 s.board.channelFrames c)
  let rows := match caps with | [] => 0 | c :: cs => min 262144 (cs.foldl min c)
  setF (setF s F.HUB_POOL_ROWS_rows 0 rows) F.HUB_POOL_ROWS_uneven 0 (b2n (caps.any (fun c => decide (rows < c))))

/-- Every PLL locks (Table 18.10). -/
def lockPlls (s : State) : State := (List.range 17).foldl (fun a i => setF a (lockBit i) 0 1) s

/-- The tick runs on the hub's own timer from tick number 0 (R630). -/
def ownTick (s : State) : State :=
  setF (setF { s with tick := TickUnit.reset } F.TICK_STATUS_lock 0 1) F.TICK_STATUS_source 0 3

/-- Self-test: a partition that passes comes up, or sleeps on while its sensors hold it; one that fails is failed (R535). -/
def testPartitions (s : State) (failed : List Nat) : State :=
  (List.range 12).foldl (fun a p => if failed.contains p then partitionFail a p else partitionUp a p) s

/-! ### Cold start (R628 to R630) -/

/-- Both supplies lie within their operating ranges, and the reset land is high. -/
def supplyGood (s : State) : Bool := decide (10800 ≤ s.pkg.vin) && decide (s.pkg.vin ≤ 13200)

/-- The spares that a unit starts with; the spec gives no count (R542). -/
def freeSpares (s : State) (u : Nat) : State :=
  let r := freeBelow s (2 ^ 16)
  { r.2 with ras := { r.2.ras with spareLeft := Tab.setC 0 r.2.ras.spareLeft u r.1 } }

/-- The Eloan roots set the hub's epoch and every partition's from the DRBG (R524). -/
def freeEpochs (s : State) : State :=
  let h := freeBelow s (2 ^ 32)
  (List.range 12).foldl (fun a p => let r := freeBelow a (2 ^ 32); updPart r.2 p (fun x => { x with epoch := r.1 }))
    { h.2 with ras := { h.2.ras with hubEpoch := h.1 } }

/-- A channel that fails training, or has no DIMM, is retired (R544, R630, R661). -/
def trainChannels (s : State) (bad : List Nat) : State :=
  (List.range 24).foldl (fun a c => if bad.contains c || nth 0 a.board.channelFrames c == 0 then channelRetire a c else a) s

/-- Stages of Table 19.1 after the Eloan stage, to READY. -/
def bringUp (s : State) (slot : Nat) (failed channels : List Nat) : State :=
  let s1 := lockPlls (strapRegs (freeEpochs (startHenyen s slot)))
  let units := List.range 24 ++ range 32 12
  let s2 := setRows (trainChannels (units.foldl freeSpares s1) channels)
  let s3 := testPartitions (ownTick s2) failed
  { s3 with startup := { s3.startup with phase := .ready } }

/-- COLD_START: from supplies valid to READY. `failed` names the partitions whose stack or self-test fails, `channels` the
channels that fail training. Without an image that verifies no controller starts (R630). -/
def coldStart (s0 : State) (failed channels : List Nat) : State :=
  let again := decide (s0.pkg.state = .quiesced) && s0.pkg.below75
  if !supplyGood s0 ∨ (s0.startup.phase ≠ .starting ∧ again = false) then s0
  else
    let s1 := coldReset s0
    let s := { s1 with pins := { s1.pins with vstby := true, coldResetLow := false }, eloan := { s1.eloan with mirrorOk := true } }
    match bestSlot s with
    | none => s
    | some slot => bringUp s slot failed channels

def execColdStart (failed channels : List Nat) (s : State) : Host.Outcome State Fault Refusal :=
  .next (settle (coldStart s failed channels))

/-- VSTBY_LOST (R650): a cold reset. -/
def vstbyLost (s : State) : State :=
  let s1 := coldReset s
  { s1 with pins := { s1.pins with vstby := false } }

def execVstbyLost (s : State) : Host.Outcome State Fault Refusal := .next (settle (vstbyLost s))

/-- COLD_RESET_PIN (Table 20.6): a cold reset, in which the land holds the hub until COLD_START. -/
def coldResetPin (s : State) : State :=
  let s1 := coldReset s
  { s1 with pins := { s1.pins with coldResetLow := true } }

def execColdResetPin (s : State) : Host.Outcome State Fault Refusal := .next (settle (coldResetPin s))

/-! ### Domain messages (R631) -/

/-- Codes of Table 19.2. -/
def domSuccess : Nat := 0
def domBusy : Nat := 0x80
def domBadState : Nat := 0x81
def domBadArg : Nat := 0x82

/-- A domain message: served by the active controller, refused while the hub is UNOWNED, and before READY answered BAD_STATE. -/
def domainMessage (s : State) (f : State → State) : State :=
  if !nth false s.henyen.running s.henyen.active then s
  else if !s.eloan.owned then refuseMessage s
  else if s.startup.phase = .starting then domainAnswer s domBadState
  else f s

/-- A message is answered with the code of the first check that fails; else it has its effect. -/
def domainChecked (s : State) (checks : List (Bool × Nat)) (f : State → State) : State :=
  match checks.find? (fun c => c.1) with
  | some c => domainAnswer s c.2
  | none => domainAnswer (f s) domSuccess

/-- A region is valid. -/
def anyRegion (s : State) : Bool := s.regions.entries.any (fun e => rgnValid e.2)

/-- The hub has a warm record under another ID. -/
def otherRecord (s : State) (hub : Nat) : Bool :=
  let other (r : Option WarmRecord) : Bool := match r with | some x => x.hubId != hub | none => false
  s.startup.warmArea.isSome && (other s.startup.warmA || other s.startup.warmB)

/-- The hub waits for a JOIN under its own ID (R640, R642). -/
def inRejoin (s : State) : Bool := decide (s.startup.phase = .rejoin)

/-- A port past PARAMS. -/
def pastParams (p : Port) : Bool :=
  decide (p.state = .secure) || decide (p.state = .delay) || decide (p.state = .active) || decide (p.state = .retrain)

/-- Every port past PARAMS goes to DETECT with cause SOFTWARE (R632). -/
def retrainAll (s : State) : State :=
  (List.range 48).foldl (fun a n => if pastParams (port a n) then restPort (portDown a n causeSoftware) n .detect a.now else a) s

/-- The hub epoch advances, and every partition's with it (R524). -/
def advanceEpochs (s : State) : State :=
  (List.range 12).foldl nextEpoch { s with ras := { s.ras with hubEpoch := (s.ras.hubEpoch + 1) % 2 ^ 32 } }

/-- FORM and JOIN (R632): ID, joined and domain; the ports train again. The epoch notice leaves with the first link (R634). -/
def joinDomain (s : State) (domain hub : Nat) (first : Bool) : State :=
  let s1 := setF (setF s F.HUB_ID_INFO_hub_id 0 hub) F.HUB_ID_INFO_joined 0 1
  let s2 := { s1 with startup := { s1.startup with
    phase := .joined, domain := domain, firstSource := !first, noticeSent := false } }
  retrainAll (if first then updFabric s2 (fun f => { f with dtime := 0 }) else s2)

/-- The arguments of FORM and JOIN lie outside their ranges. -/
def badDomain (domain hub : Nat) : Bool := domain == 0 || decide (2 ^ 64 ≤ domain) || decide (1023 < hub)

/-- FORM. -/
def formDomain (s : State) (domain hub : Nat) : State :=
  domainChecked s [(joined s, domBadState), (anyRegion s || otherRecord s hub, domBusy), (badDomain domain hub, domBadArg)]
    (fun s => joinDomain s domain hub true)

/-- JOIN. A hub in REJOIN keeps its regions and joins under its present ID; one that was declared lost advances its epochs. -/
def joinMsg (s : State) (domain hub : Nat) : State :=
  let again := inRejoin s
  domainChecked s [(joined s && !again, domBadState), (!again && (anyRegion s || otherRecord s hub), domBusy),
      (badDomain domain hub || (again && hub != hubId s), domBadArg)]
    (fun s => joinDomain (if joined s then advanceEpochs s else s) domain hub false)

def execForm (domain hub : Nat) (s : State) : Host.Outcome State Fault Refusal :=
  .next (settle (domainMessage s (fun s => formDomain s domain hub)))

def execJoin (domain hub : Nat) (s : State) : Host.Outcome State Fault Refusal :=
  .next (settle (domainMessage s (fun s => joinMsg s domain hub)))

/-- What LEAVE finds still in use (R641). -/
def stillInUse (s : State) : Bool :=
  anyRegion s || !s.tick.streams.isEmpty || !s.eloan.windows.isEmpty || !s.eloan.grants.isEmpty || !(leasesHeld s).isEmpty ||
    role s == 2 || role s == 3

/-- The steps of LEAVE: the ports, the identity and the role, the warm designation. -/
def leaveDomain (s : State) : State :=
  let s1 := (List.range 48).foldl (fun a n => if (port a n).state = .disabled then a else portDown a n causeSoftware) s
  let s2 := setF (setF (setF s1 F.HUB_ID_INFO_joined 0 0) F.HUB_ID_INFO_hub_id 0 0) F.TICK_CTRL_role 0 0
  roleWritten { s2 with startup := { s2.startup with
    phase := .ready, domain := 0, warmArea := none, warmA := none, warmB := none, firstSource := false } }

def execLeave (s : State) : Host.Outcome State Fault Refusal :=
  .next (settle (domainMessage s (fun s => domainChecked s [(!joined s, domBadState), (stillInUse s, domBusy)] leaveDomain)))

/-- FORGET (R635): the entries of a hub and its partitions are unset, its lost flag cleared. -/
def forgetHub (s : State) (hub : Nat) : State :=
  updFabric s (fun f => { f with
    epochs := f.epochs.filter (fun e => e.1 / 16 != hub), lostHubs := f.lostHubs.filter (fun h => h != hub) })

def execForget (hub : Nat) (s : State) : Host.Outcome State Fault Refusal :=
  .next (settle (domainMessage s (fun s =>
    domainChecked s [(hub == hubId s || decide (1023 < hub), domBadArg)] (fun s => forgetHub s hub))))

/-- The region in which 16 frames from one on are placed, when its key is bound to TID 0 and it is engine-only (R638). -/
def areaRegion (s : State) (first : Nat) : Option Nat :=
  match Tab.getC 0 s.pools.placed first with
  | 0 => none
  | r + 1 =>
    let e := regionEntry s r
    let k := keyOf s (rgnKey e)
    if (range first 16).all (fun f => Tab.getC 0 s.pools.placed f == r + 1) && rgnAmode e == 0 && decide (k.state ≠ .free) && k.tid == 0
    then some r else none

/-- WARM_AREA (R638): the Eloan root keeps the designation and the region's key ID; 0 cancels it. -/
def warmAreaMsg (s : State) (first : Nat) : State :=
  let set (a : Option (Nat × Nat)) (s : State) : State :=
    { s with startup := { s.startup with warmArea := a, warmA := none, warmB := none } }
  if first = 0 then domainAnswer (set none s) domSuccess
  else match areaRegion s first with
    | none => domainAnswer s domBadArg
    | some r => domainAnswer (set (some (first, rgnKey (regionEntry s r))) s) domSuccess

def execWarmArea (frame : Nat) (s : State) : Host.Outcome State Fault Refusal :=
  .next (settle (domainMessage s (fun s => warmAreaMsg s frame)))

/-- SLEEP (R643, R645): one that arrives while the partition is in reset waits. -/
def sleepMsg (s : State) (p : Nat) : State :=
  if 12 ≤ p then domainAnswer s domBadArg
  else if (partition s p).state = .inReset ∧ !(partition s p).failed then
    { s with startup := { s.startup with waitingPower := s.startup.waitingPower ++ [(p, 0)] } }
  else sleepNow s p

def execSleep (part : Nat) (s : State) : Host.Outcome State Fault Refusal :=
  .next (settle (domainMessage s (fun s => sleepMsg s part)))

/-- WAKE (R644, R645). -/
def wakeMsg (s : State) (p : Nat) : State :=
  if 12 ≤ p then domainAnswer s domBadArg
  else if (partition s p).state = .inReset ∧ (!(partition s p).failed ∨ s.startup.waitingPower.contains (p, 2)) then
    { s with startup := { s.startup with waitingPower := s.startup.waitingPower ++ [(p, 1)] } }
  else wakeNow s p

def execWake (part : Nat) (s : State) : Host.Outcome State Fault Refusal :=
  .next (settle (domainMessage s (fun s => wakeMsg s part)))

/-- STATUS.state. -/
def HubPhase.code : HubPhase → Nat
  | .starting => 0
  | .ready => 1
  | .joined => 2
  | .rejoin => 3

/-- STATUS: state, hub, domain and lock, also before READY. -/
def statusMsg (s : State) : State :=
  if !nth false s.henyen.running s.henyen.active then s
  else if !s.eloan.owned then refuseMessage s
  else emit s (.domainAnswer domSuccess [s.startup.phase.code, hubId s, s.startup.domain, lockOf s])

def execStatus (s : State) : Host.Outcome State Fault Refusal := .next (settle (statusMsg s))

/-! ### Warm reset (R638 to R640) -/

/-- A copy of the warm record reads good: it has been written, and its 8 frames hold no poison and lie on no lost unit. -/
def copyGood (s : State) (first : Nat) (r : Option WarmRecord) : Bool :=
  r.isSome && (range first 8).all (fun f => match homePart s (f * twoMiB) with
    | some p => !((partition s p).lost && isHbmFrame f)
    | none => false) &&
    !s.ras.poison.any (fun e => decide (first * (twoMiB / 64) ≤ e.1) && decide (e.1 < (first + 8) * (twoMiB / 64)))

/-- The copy with a good check and the higher sequence. -/
def readRecord (s : State) : Option WarmRecord :=
  match s.startup.warmArea with
  | none => none
  | some (first, _) =>
    let a := if copyGood s first s.startup.warmA then s.startup.warmA else none
    let b := if copyGood s (first + 8) s.startup.warmB then s.startup.warmB else none
    match a, b with
    | some x, some y => if x.sequence < y.sequence then b else a
    | some _, none => a
    | none, _ => b

/-- Every lease that is left ends, its pages poisoned when it was read-write (R361, R640). -/
def endAllLeases (s : State) : State := (((s.seam.flatMap SeamDie.leases).map Lease.agent).eraseDups).foldl endLeases s

/-- The holdings of agents that are lost leave the directory: what the sweep of R405 does, all at once. -/
def purgeAll (s : State) : State :=
  (s.seam.flatMap (fun d => d.dir.flatMap (fun b => b.2.map (fun w => lineOf b.1 w.tag)))).foldl purge s

/-- The Eloan roots' state lives on VSTBY; links are new, debug is closed, clusters are empty. -/
def keptEloan (e : Eloan) : Eloan :=
  { e with linkTid := [], linkKey := [], clusterTid := [], scrubbing := [], scrubbed := [], debugOpen := [], debugOpening := [],
           mirrorOk := true }

/-- A partition in the reset of a warm reset, under its next epoch. -/
def warmPart (x : Partition) : Partition :=
  { Partition.cold with epoch := (x.epoch + 1) % 2 ^ 32, lost := x.lost, standin := x.lost, resync := x.resync }

/-- The hub with its memory and keys and nothing else (R639, Table 15.6). -/
def warmBase (s : State) : State :=
  let head := rawReg s (rasPage) F.RAS_LOG_HEAD_seq.off
  let s1 : State := { State.reset with
    pending := s.pending, now := s.now, free := s.free, out := s.out, fuse := s.fuse, board := s.board, store := s.store
    seam := s.seam.map (fun d => { SeamDie.empty with dir := d.dir, failed := d.failed })
    eloan := keptEloan s.eloan
    ras := { Ras.reset with
      parts := (List.range 12).map (fun p => (p, warmPart (partition s p))), hubEpoch := (s.ras.hubEpoch + 1) % 2 ^ 32
      correctedTotal := s.ras.correctedTotal, spareLeft := s.ras.spareLeft, spareUsed := s.ras.spareUsed, retired := s.ras.retired
      retireList := s.ras.retireList, retiredChannels := s.ras.retiredChannels, poison := s.ras.poison, errors := s.ras.errors }
    henyen := { Henyen.reset with eloan := s.henyen.eloan, micro := s.henyen.micro, stock := s.henyen.stock, sessions := s.henyen.sessions }
    tally := { State.reset.tally with samplers := s.tally.samplers.map (fun e => (e.1, { Sampler.idle with nextSeq := e.2.nextSeq })) }
    power := s.power.map (fun e => (e.1, sensorsOnly e.2))
    pkg := { s.pkg with state := .normal, dips := [], below75 := false, reports := [] }
    pins := { s.pins with lands := [] }, clocks := s.clocks, startup := { s.startup with waitingPower := [], firstSource := false, noticeSent := false } }
  setReg s1 rasPage F.RAS_LOG_HEAD_seq.off head

/-- The frames that count on a Face reserve: those of FACE regions, up to its size. -/
def faceFramesOf (r : WarmRecord) : List Nat :=
  ((r.frames.filter (fun e => isHbmFrame e.1 && e.2 != 0 && rgnHint (Tab.getC 0 r.regions (e.2 - 1)) % 8 == 3)).map Prod.fst).take r.faceReserve

/-- What the warm record restores: identity, guard_rows under HUB_POOL's lock, regions, frame map and Face reserve (Table 19.4). -/
def restoreRecord (s : State) (r : WarmRecord) : State :=
  let s1 := setF (setF (setF s F.HUB_ID_INFO_hub_id 0 r.hubId) F.HUB_POOL_SPLIT_guard_rows 0 r.guardRows) F.HUB_POOL_FACE_RSV_frames 0 r.faceReserve
  let s2 := setReg s1 poolPage 0x10 (rawReg s1 poolPage 0x10 ||| 1)
  let s3 := setF (setF s2 F.HUB_SHG_BASE_addr 0 r.shgBase) F.XLT_CTX_BASE_addr 0 r.ctxBase
  { s3 with
    regions := { entries := r.regions, groups := [], leaseReqs := [] }
    pools := { placed := r.frames, faceTaken := faceFramesOf r, waiting := none }
    startup := { s3.startup with phase := .rejoin, domain := r.domain } }

/-- The contexts of the record are loaded, one after another. -/
def loadContexts (s : State) (cs : List Nat) : State := cs.foldl (fun a c => finishOp (loadContext a c)) s

/-- Table 19.4, from logic reset on. -/
def warmRestart (s : State) (r : WarmRecord) (slot : Nat) (failed : List Nat) : State :=
  let s1 := lockPlls (strapRegs (startHenyen (warmBase s) slot))
  let s2 := testPartitions (ownTick (restoreRecord (setRows s1) r)) failed
  loadContexts s2 r.contexts

/-- A warm reset, or a cold one when no area is designated or no copy checks good (R640). -/
def warmReset (s : State) (failed : List Nat) : State :=
  let s1 := purgeAll (endAllLeases (if outOfService s then s else stopHub s false))
  match readRecord s1, bestSlot s1 with
  | some r, some slot => warmRestart s1 r slot failed
  | _, _ => coldReset s1

/-- WARM_RESET: the answer leaves before the reset begins. -/
def warmResetMsg (s : State) (failed : List Nat) : State :=
  if s.henyen.updState = 1 ∨ s.henyen.updState = 3 then domainAnswer s domBusy
  else warmReset (domainAnswer s domSuccess) failed

def execWarmReset (failed : List Nat) (s : State) : Host.Outcome State Fault Refusal :=
  .next (settle (domainMessage s (fun s => warmResetMsg s failed)))

/-- QUIESCED_RESTART (R624): VIN has held 11.4 V for 10 ms and never fell below 7.5 V. -/
def quiescedRestart (s0 : State) (failed : List Nat) : State :=
  let s := quiesceTime s0
  let held : Bool := match s.pkg.above114 with | some t => decide (t + 20000000 ≤ s.now) | none => false
  if s.pkg.state = .quiesced ∧ held ∧ s.pkg.below75 = false then warmReset s failed else s

def execQuiescedRestart (failed : List Nat) (s : State) : Host.Outcome State Fault Refusal :=
  .next (settle (quiescedRestart s failed))

end Sys2Proof.Machine
end

