-- ==== Sys2Proof/Machine/TensorEngine.lean ====
section
/-! DEFINITION. The tensor engine (ch. 4): MMA with its shape record, delta variants (ch. 5), tiles and outputs. -/

namespace Sys2Proof.Machine

/-! ### Records read once -/

/-- A shape record (Table 4.8). -/
structure Shape where
  m : Nat
  n : Nat
  k : Nat
  ktot : Nat
  tm : Nat
  tn : Nat
  lda : Nat
  ldb : Nat
  ldo : Nat
  anchor : Nat
  ebA : Int
  ebB : Int
  fsa : Nat
  sca : Nat
  lsa : Nat
  scb : Nat
  lsb : Nat
  dsel : Nat
  deriving DecidableEq, Repr

/-- The fields of a shape record's 64 bytes. -/
def shapeOf (d : List Byte) : Shape :=
  { m := field d 0 2, n := field d 2 2, k := field d 4 4, ktot := field d 8 4, tm := field d 0x0C 2, tn := field d 0x0E 2,
    lda := field d 0x10 4, ldb := field d 0x14 4, ldo := field d 0x18 4, anchor := field d 0x1C 2,
    ebA := signed 16 (field d 0x1E 2), ebB := signed 16 (field d 0x20 2), fsa := field d 0x24 4, sca := field d 0x28 4,
    lsa := field d 0x2C 4, scb := field d 0x30 4, lsb := field d 0x34 4, dsel := field d 0x38 4 }

/-- Fields of an MMA word that its run needs. -/
structure MmaWord where
  fa : Nat
  fb : Nat
  fo : Nat
  fp32 : Bool
  init : Bool
  sat : Bool
  fen : Bool
  deriving DecidableEq, Repr

/-- Read an MMA word. -/
def mmaWord (w : Nat) : MmaWord :=
  { fa := bits w 224 4, fb := bits w 228 4, fo := bits w 232 4, fp32 := bit w 236, init := bits w 237 2 == 1, sat := bit w 239,
    fen := bit w 240 }

/-- Bytes of an output element: whole bytes for every output format (Table 4.1). -/
def outBytes (code : Nat) : Nat := fmtBits code / 8

/-- The anchor of a command (R149); none for an illegal field. -/
def shapeAnchor (h : Shape) : Option Int := anchorOf h.anchor (h.ebA + h.ebB + 1 + (clog2 h.ktot : Int))

/-- A shape record obeys Table 4.8 (R160). -/
def shapeOk (d : List Byte) (w : MmaWord) : Bool :=
  let h := shapeOf d
  decide (1 ≤ h.m) && decide (h.m ≤ 64) && decide (1 ≤ h.n) && decide (h.n ≤ 48) && decide (1 ≤ h.k) && decide (h.k ≤ 2 ^ 24) &&
  (!(isMx w.fa || isMx w.fb) || h.k % 32 == 0) && (!(w.fa == 11 || w.fb == 11) || h.k % 2 == 0) &&
  decide (h.k ≤ h.ktot) && decide (h.ktot < 2 ^ 31) && decide (1 ≤ h.tm) && decide (h.tm ≤ 1024) && decide (1 ≤ h.tn) &&
  decide (h.tn ≤ 1024) && h.lda % 32 == 0 && decide (packedSize w.fa h.k ≤ h.lda) && h.ldb % 32 == 0 &&
  decide (packedSize w.fb h.k ≤ h.ldb) && h.ldo % 32 == 0 && decide (h.tn * h.n * outBytes w.fo ≤ h.ldo) &&
  (shapeAnchor h).isSome && decide (-200 ≤ h.ebA) && decide (h.ebA ≤ 200) && decide (-200 ≤ h.ebB) && decide (h.ebB ≤ 200) &&
  field d 0x22 2 == 0 && (!w.fen || (h.fsa % 4 == 0 && decide (h.fsa < sSize))) && field d 0x3C 4 == 0

/-! ### Delta variants (R175 to R178) -/

/-- A variant descriptor (Table 5.3). -/
structure Variant where
  fmt : Nat
  id : Nat
  dref : Ref
  sref : Ref
  ldd : Nat
  lds : Nat
  deriving DecidableEq, Repr

/-- A descriptor's 64 bytes as a variant; none when they break Table 5.3. -/
def variantOf (counters : List W64) (k : Nat) (d : List Byte) : Option Variant :=
  let fmt := field d 0 1
  let dr := field d 8 8
  let sr := field d 0x10 8
  let ldd := field d 0x18 4
  let lds := field d 0x1C 4
  if (fmt = 1 ∨ fmt = 2) ∧ field d 1 3 = 0 ∧ dr < 2 ^ 48 ∧ sr < 2 ^ 48 ∧ ldd % 32 = 0 ∧ k / 32 * deltaBlock fmt ≤ ldd ∧ k / 32 ≤ lds ∧
      field d 0x20 32 = 0 ∧ refStatic dr 32 [0, 1, 2] ∧ refStatic sr 32 [0, 1, 2] then
    match refOf counters dr, refOf counters sr with
    | some a, some b => if a.addr % 32 = 0 ∧ b.addr % 32 = 0 then some { fmt := fmt, id := field d 4 4, dref := a, sref := b, ldd := ldd, lds := lds } else none
    | _, _ => none
  else none

/-- Read the descriptors that dsel names, one entry per tile row: an empty entry for the base alone (R177, R178). -/
def readVariants (r : Run) (h : Shape) : List (List Byte) × Run :=
  let off := bits h.dsel 0 16
  match bits h.dsel 16 2 with
  | 1 => let g := r.bytes (.s (off * 64)) 64; (List.replicate h.tm g.1, g.2)
  | 2 =>
    let l := r.bytes (.s (off * 64)) (2 * h.tm)
    (List.range h.tm).foldl (fun (a : List (List Byte) × Run) i =>
      let e := field l.1 (2 * i) 2
      if e = 0xFFFF then (a.1 ++ [[]], a.2)
      else if 0x8000 ≤ e then (a.1 ++ [[]], a.2.fail errDelta)
      else let g := a.2.bytes (.s (e * 64)) 64; (a.1 ++ [g.1], g.2)) ([], l.2)
  | _ => (List.replicate h.tm [], r)

/-- dsel obeys Table 5.2 and R176. -/
def dselOk (h : Shape) : Bool :=
  decide (bits h.dsel 0 16 < 0x8000) && bits h.dsel 16 2 != 3 && bits h.dsel 18 14 == 0 &&
    (bits h.dsel 16 2 != 0 || bits h.dsel 0 16 == 0) && (h.dsel == 0 || h.k % 32 == 0)

/-- What an MMA reads as it is popped: the shape record and its variants (R160, R178). -/
def mmaPre (h : Held) (r : Run) : List (List Byte) × Run :=
  let w := mmaWord h.entry.word
  let g := r.bytes (.s (bits h.entry.word 208 16 * 64)) 64
  if !g.2.going then ([], g.2)
  else if !shapeOk g.1 w then ([], g.2.fail errShape)
  else
    let sh := shapeOf g.1
    if !dselOk sh then ([], g.2.fail errDelta)
    else
      let v := readVariants g.2 sh
      if v.1.all (fun d => d.isEmpty || (variantOf h.entry.counters sh.k d).isSome) then (g.1 :: v.1, v.2)
      else (g.1 :: v.1, v.2.fail errDelta)

/-! ### Operands -/

/-- A row of A or a column of B as the array sees it: values, whether a NaN or a scale of 0xFF was read, and flags. -/
structure Vec where
  vals : List FV
  nan : Bool
  flags : Nat
  deriving DecidableEq, Repr

/-- The flags of operand values (Table 4.10). -/
def vecOf (eb : Int) (vals : List FV) (scales : List Byte) (extra : Nat) : Vec :=
  let nan := vals.any FV.isNan
  { vals := vals, nan := nan,
    flags := extra ||| (if nan then flNanIn else 0) ||| (if scales.any (fun s => s == 255) then flScaleNan else 0) |||
      (if vals.any (breaksBound eb) then flBound else 0) }

/-- Read packed elements, with their scales when the format is MX. -/
def readVec (r : Run) (base : Ref) (i stride code k sOff sStride : Nat) : (Nat × List Byte) × Run :=
  let d := r.bytes (base.plus (i * stride)) (packedSize code k)
  if isMx code then
    let g := d.2.bytes (base.plus (sOff + i * sStride)) (k / 32)
    ((leValue d.1, g.1), g.2)
  else ((leValue d.1, []), d.2)

/-- Column c of B with its delta variant, if any (R179, R180, R183). -/
def readColumn (r : Run) (h : Shape) (w : MmaWord) (base : Ref) (c : Nat) (v : Option Variant) : Vec × Run :=
  let g := readVec r base c h.ldb w.fb h.k h.scb h.lsb
  let plain := decodeRun w.fb g.1.1 g.1.2 h.k
  match v, fmtOf w.fb with
  | some v, some f =>
    let r1 := { g.2 with variant := v.id }
    let d := r1.bytes (v.dref.plus (c * v.ldd)) (h.k / 32 * deltaBlock v.fmt)
    let s := d.2.bytes (v.sref.plus (c * v.lds)) (h.k / 32)
    let ws := (List.range h.k).map (fun kk =>
      let nb := deltaBits v.fmt
      let blk := leValue ((d.1.drop (kk / 32 * deltaBlock v.fmt)).take (deltaBlock v.fmt))
      expandWeight f (nth 0 g.1.2 (kk / 32)).toNat (nth .nan plain kk) (deltaValue nb (bits blk (kk % 32 * nb) nb)) (nth 0 s.1 (kk / 32)).toNat)
    (vecOf h.ebB (ws.map Prod.fst) g.1.2 (ws.foldl (fun a x => a ||| x.2) 0), s.2)
  | _, _ => (vecOf h.ebB plain g.1.2 0, g.2)

/-! ### A tile -/

/-- One output element: its bytes as a number and its flags (R149 to R156, Table 4.10). -/
def mmaCell (h : Shape) (w : MmaWord) (a b : Vec) (init : Option Nat) : Nat × Nat :=
  let anchor := (shapeAnchor h).getD 0
  if w.fp32 then
    let start : FV := match init with | some x => val32 x | none => .fin false 0 0
    let pairs := fmtClass w.fa == 0 && fmtClass w.fb == 0
    let c := cellFp32 pairs a.vals b.vals (start, 0)
    let nanIn := a.nan || b.nan || start.isNan
    let o := encodeVal w.fo w.sat c.1
    ((o.1.getD 0), o.2 ||| c.2 ||| (if start.isNan then flNanIn else 0) ||| (if c.1.isNan && !nanIn then flInv else 0))
  else
    let start := match init with | some x => Partial.decode x | none => Partial.zero anchor
    let c := cellExact { start with sat := false, bound := false } a.vals b.vals
    let bound := bit (a.flags ||| b.flags) 1
    let nanIn := a.nan || b.nan || decide (start.tag = .nan)
    let fl := (if c.sat then flSat else 0) ||| (if start.tag = .nan then flNanIn else 0) ||| (if c.tag = .nan ∧ !nanIn then flInv else 0)
    if w.fo = 13 then ({ c with sat := c.sat || start.sat, bound := bound || start.bound : Partial }.encode, fl)
    else (let o := encodeVal w.fo w.sat c.value; (o.1.getD 0, o.2 ||| fl))

/-- Fold a read over indices, keeping the run. -/
def readAll {α : Type} (n : Nat) (r : Run) (f : Run → Nat → α × Run) : List α × Run :=
  (List.range n).foldl (fun (acc : List α × Run) i => let g := f acc.2 i; (acc.1 ++ [g.1], g.2)) ([], r)

/-- One tile (R161): every operand and initial value is read before any output is written. -/
def mmaTile (h : Shape) (w : MmaWord) (aref bref oref : Ref) (v : Option Variant) (i j : Nat) (r : Run) : Run :=
  let es := outBytes w.fo
  let rows := readAll h.m r (fun r q =>
    let g := readVec r aref (i * h.m + q) h.lda w.fa h.k h.sca h.lsa
    (vecOf h.ebA (decodeRun w.fa g.1.1 g.1.2 h.k) g.1.2 0, g.2))
  let cols := readAll h.n rows.2 (fun r c => readColumn r h w bref (j * h.n + c) v)
  let inits := if w.init then
      readAll h.m cols.2 (fun r q =>
        let g := r.bytes (oref.plus ((i * h.m + q) * h.ldo + j * h.n * es)) (h.n * es)
        (leValue g.1, g.2))
    else ([], cols.2)
  let r1 := inits.2
  let initAt (q c : Nat) : Option Nat := if w.init then some (bits (nth 0 inits.1 q) (c * es * 8) (es * 8)) else none
  let badAnchor := w.init && !w.fp32 && (List.range h.m).any (fun q => (List.range h.n).any (fun c =>
    match initAt q c with | some x => decide ((Partial.decode x).anchor ≠ (shapeAnchor h).getD 0) | none => false))
  if !r1.going then r1
  else if badAnchor then r1.fail errAnchor
  else
    let fl := (rows.1 ++ cols.1).foldl (fun a v => a ||| v.flags) 0
    (List.range h.m).foldl (fun (acc : Run) q =>
      let cells := (List.range h.n).map (fun c => mmaCell h w (nth ⟨[], false, 0⟩ rows.1 q) (nth ⟨[], false, 0⟩ cols.1 c) (initAt q c))
      (acc.write (oref.plus ((i * h.m + q) * h.ldo + j * h.n * es)) (leBytes (h.n * es) (packElems (es * 8) (cells.map Prod.fst)))).flag
        (cells.foldl (fun a c => a ||| c.2) 0)) (r1.flag fl)

/-- The variant of a tile row. -/
def rowVariant (h : Held) (k i : Nat) : Option Variant :=
  match nth [] (h.latch.getD []) (i + 1) with
  | [] => none
  | d => variantOf h.entry.counters k d

/-- MMA (R160 to R162): its tiles in order from the one it stands at, then its flag word. -/
def mmaMain (h : Held) (r : Run) : Run :=
  let w := mmaWord h.entry.word
  let sh := shapeOf (nth [] (h.latch.getD []) 0)
  match refOf h.entry.counters (bits h.entry.word 64 48), refOf h.entry.counters (bits h.entry.word 112 48),
      refOf h.entry.counters (bits h.entry.word 160 48) with
  | some a, some b, some o =>
    let total := sh.tm * sh.tn
    let r1 := (range h.pos (total - h.pos)).foldl (fun (r : Run) t =>
      if r.going then (mmaTile sh w a b o (rowVariant h sh.k (t / sh.tn)) (t / sh.tn) (t % sh.tn) r).commit h (fun x => { x with pos := t + 1 })
      else r) r
    if !r1.going then r1
    else
      let fl := (match heldCmd r1.s r1.core r1.unit h.seq with | some x => x.flags | none => 0) ||| r1.flags
      { r1 with cycles := mmaCycles (max (fmtClass w.fa) (fmtClass w.fb)) sh.tm sh.tn sh.k
                s := if w.fen then flagWord r1.s r1.core sh.fsa fl else r1.s }
  | _, _, _ => r.fail errShape

/-- MMA: unit 1, operation 0x01. -/
def execMma (core : Nat) (s : State) : Host.Outcome State Fault Refusal :=
  .next (settle (engineRow s core 1 0x01 (fun _ _ => true) { pre := mmaPre, main := mmaMain }))

end Sys2Proof.Machine
end

