-- ==== Sys2Proof/Machine/VectorEngine.lean ====
section
/-! DEFINITION. The vector engine (ch. 4, VDQ of ch. 5): VMAP, VBIN, VRED, VQNT, PADD, PCVT and VDQ. A command reads every
source before it writes, which R253 allows. -/

namespace Sys2Proof.Machine

/-- The fields of a VE word (Table 4.12). -/
structure VeWord where
  src1 : Ref
  src2 : Nat
  dst : Ref
  count : Nat
  fin : Nat
  fout : Nat
  fn : Nat
  sat : Bool
  fen : Bool
  deriving DecidableEq, Repr

/-- Read a VE word with the counters of its push. -/
def veWord (h : Held) : VeWord :=
  let w := h.entry.word
  { src1 := (refOf h.entry.counters (bits w 64 48)).getD (.s 0), src2 := bits w 112 48,
    dst := (refOf h.entry.counters (bits w 160 48)).getD (.s 0), count := bits w 208 24, fin := bits w 232 4,
    fout := bits w 236 4, fn := bits w 240 8, sat := bit w 248, fen := bit w 249 }

/-- The second source of a word that has one. -/
def veSrc2 (h : Held) : Ref := (refOf h.entry.counters (bits h.entry.word 112 48)).getD (.s 0)

/-- Round up to a multiple of 32. -/
def to32 (n : Nat) : Nat := ceilDiv n 32 * 32

/-- Read n elements of a format, MX scales from the first 32-byte boundary after them: values as the VE sees them, and the
flags of the reading (R167). -/
def veRead (r : Run) (f : Ref) (code n : Nat) : List (FV × Nat) × Run :=
  let d := r.bytes f (packedSize code n)
  let sc := if isMx code then d.2.bytes (f.plus (to32 (packedSize code n))) (ceilDiv n 32) else ([], d.2)
  let vals := decodeRun code (leValue d.1) sc.1 n
  ((List.range n).map (fun i =>
    let v := nth .nan vals i
    let x := veIn v
    (x.1, (if code = 14 ∨ !isMx code then 0 else x.2) ||| (if v.isNan then flNanIn else 0) |||
      (if isMx code && (nth 0 sc.1 (i / 32)).toNat == 255 then flScaleNan else 0))), sc.2)

/-- Write packed elements. -/
def veWrite (r : Run) (f : Ref) (code : Nat) (es : List Nat) : Run :=
  r.write f (leBytes (packedSize code es.length) (packElems (fmtBits code) es))

/-- The end of a VE command: its cycles and its flag word. -/
def veEnd (r : Run) (cycles : Nat) (fen : Bool) (off : Nat) : Run :=
  if !r.going then r
  else { r with cycles := cycles, s := if fen then flagWord r.s r.core off r.flags else r.s }

/-- Cycles of a command (Table 4.14). -/
def veCycles (w : VeWord) (op n : Nat) : Nat := 16 + ceilDiv n (veRate op w.fn w.fin w.fout)

/-- The MX count rule of R168. -/
def mxCountOk (w : VeWord) : Bool := !(isMx w.fin || isMx w.fout) || w.count % 32 == 0

/-- VMAP (Table 4.13, R167, R171). -/
def vmapMain (h : Held) (r : Run) : Run :=
  let w := veWord h
  if !mxCountOk w then r.fail errCount
  else
    let g := veRead r w.src1 w.fin w.count
    let out := g.1.map (fun x => match vmapFn w.fn x.1 with
      | some y => let o := veOut w.fout w.sat (bit x.2 5) y; (o.1, o.2 ||| x.2)
      | none => (0, 0))
    veEnd ((veWrite g.2 w.dst w.fout (out.map Prod.fst)).flag (out.foldl (fun a o => a ||| o.2) 0)) (veCycles w 1 w.count) w.fen (bits w.src2 0 21)

/-- VBIN (Table 4.13). -/
def vbinMain (h : Held) (r : Run) : Run :=
  let w := veWord h
  if !mxCountOk w then r.fail errCount
  else
    let a := veRead r w.src1 w.fin w.count
    let b := veRead a.2 (veSrc2 h) w.fin (if bit w.fn 7 then 1 else w.count)
    let out := (List.range w.count).map (fun i =>
      let x := nth (.nan, 0) a.1 i
      let y := nth (.nan, 0) b.1 (if bit w.fn 7 then 0 else i)
      match vbinFn (w.fn % 128) x.1 y.1 with
      | some z => let o := veOut w.fout w.sat (bit (x.2 ||| y.2) 5) z; (o.1, o.2 ||| x.2 ||| y.2)
      | none => (0, 0))
    veEnd ((veWrite b.2 w.dst w.fout (out.map Prod.fst)).flag (out.foldl (fun a o => a ||| o.2) 0)) (veCycles w 2 w.count) false 0

/-- One row of VRED reduced to its record or element, with flags (R169). -/
def vredRow (w : VeWord) (anchor eb : Int) (xs : List (FV × Nat)) : Nat × Nat :=
  let vals := xs.map Prod.fst
  let inF := xs.foldl (fun a x => a ||| x.2) 0 ||| (if vals.any (breaksBound eb) then flBound else 0)
  let nanIn := bit inF 5
  match w.fn with
  | 0 =>
    let p := vals.foldl Partial.addTerm (Partial.zero anchor)
    let fl := inF ||| (if p.sat then flSat else 0) ||| (if p.tag = .nan ∧ !nanIn then flInv else 0)
    if w.fout = 13 then ({ p with bound := bit inF 1 : Partial }.encode, fl)
    else (let o := encodeVal w.fout w.sat p.value; (o.1.getD 0, o.2 ||| fl))
  | f =>
    let m := match vals with
      | [] => FV.nan
      | v :: vs => vs.foldl (fun a b => if f = 1 then a.max b else a.min b) v
    if w.fout = 13 then ((Partial.zero anchor).addTerm m |>.encode, inF)
    else (let o := encodeVal w.fout w.sat m; (o.1.getD 0, o.2 ||| inF))

/-- VRED (Table 4.13, R169): its parameters break their ranges with SHAPE, a row that is no multiple of 32 bytes with
COUNT. -/
def vredMain (h : Held) (r : Run) : Run :=
  let w := veWord h
  let rows := bits w.src2 32 16
  let eb := signed 16 (bits w.src2 16 16)
  match anchorOf (bits w.src2 0 16) (eb + (clog2 w.count : Int)) with
  | none => r.fail errShape
  | some anchor =>
    if rows = 0 ∨ eb < -200 ∨ 200 < eb then r.fail errShape
    else if !mxCountOk w ∨ packedSize w.fin w.count % 32 ≠ 0 then r.fail errCount
    else
      let size := packedSize w.fin w.count
      let n := rows * w.count
      -- MX scales follow all rows, from the first 32-byte boundary after them
      let g := veRead r w.src1 w.fin n
      let out := (List.range rows).map (fun q => vredRow w anchor eb ((g.1.drop (q * w.count)).take w.count))
      let es := fmtBits w.fout
      veEnd ((g.2.write w.dst (leBytes (ceilDiv (rows * es) 8) (packElems es (out.map Prod.fst)))).flag (out.foldl (fun a o => a ||| o.2) 0))
        (veCycles w 3 (if size = 0 then 0 else n)) false 0

/-- VQNT (R170, Table 4.3). -/
def vqntMain (h : Held) (r : Run) : Run :=
  let w := veWord h
  if !mxCountOk w then r.fail errCount
  else
    let g := veRead r w.src1 w.fin w.count
    let inF := g.1.foldl (fun a x => a ||| x.2) 0
    if isMx w.fout then
      let blocks := (List.range (w.count / 32)).map (fun q =>
        let xs := ((g.1.drop (32 * q)).take 32).map Prod.fst
        let fr := fun (j : Nat) => bits (Config.freeNat g.2.s.free) (8 * (32 * q + j)) 8
        vqntBlock w.fout fr xs)
      let es := blocks.flatMap (fun b => b.2.1)
      let r1 := (veWrite { g.2 with s := { g.2.s with free := g.2.s.free + 1 } } w.dst w.fout es).write
        (w.dst.plus (to32 (packedSize w.fout w.count))) (blocks.map (fun b => BitVec.ofNat 8 b.1))
      veEnd (r1.flag (blocks.foldl (fun a b => a ||| b.2.2) inF)) (veCycles w 4 w.count) w.fen (bits w.src2 0 21)
    else
      let sh := if 10 ≤ w.fout then signed 8 w.fn else 0
      let out := g.1.map (fun x =>
        let v : FV := match x.1 with | .fin n m e => .fin n m (e + sh) | y => y
        let o := encodeVal w.fout w.sat v
        (o.1.getD 0, o.2 ||| x.2))
      veEnd ((veWrite g.2 w.dst w.fout (out.map Prod.fst)).flag (out.foldl (fun a o => a ||| o.2) 0)) (veCycles w 4 w.count) w.fen (bits w.src2 0 21)

/-- Records of an operand. -/
def partials (bs : List Byte) (n : Nat) : List Partial := (List.range n).map (fun i => Partial.decode (field bs (32 * i) 32))

/-- PADD (R163, R164): records before one whose anchors differ are written. -/
def paddMain (h : Held) (r : Run) : Run :=
  let w := veWord h
  let a := r.bytes w.src1 (32 * w.count)
  let b := a.2.bytes (veSrc2 h) (32 * w.count)
  if !b.2.going then b.2
  else
    let ps := List.zip (partials a.1 w.count) (partials b.1 w.count)
    let good := ps.takeWhile (fun p => decide (p.1.anchor = p.2.anchor))
    let out := good.map (fun p => p.1.add p.2)
    let fl := (List.zip good out).foldl (fun acc x =>
      let sat := (satX (x.1.1.x + x.1.2.x)).2
      let nanIn := decide (x.1.1.tag = .nan ∨ x.1.2.tag = .nan)
      acc ||| (if sat then flSat else 0) ||| (if nanIn then flNanIn else 0) ||| (if x.2.tag = .nan ∧ !nanIn then flInv else 0)) 0
    let r1 := (b.2.write w.dst (out.flatMap (fun p => leBytes 32 p.encode))).flag fl
    if good.length < w.count then r1.fail errAnchor else veEnd r1 (veCycles w 5 w.count) false 0

/-- PCVT (R155). -/
def pcvtMain (h : Held) (r : Run) : Run :=
  let w := veWord h
  let a := r.bytes w.src1 (32 * w.count)
  let out := (partials a.1 w.count).map (fun p =>
    let o := encodeVal w.fout w.sat p.value
    (o.1.getD 0, o.2 ||| (if p.tag = .nan then flNanIn else 0)))
  veEnd ((veWrite a.2 w.dst w.fout (out.map Prod.fst)).flag (out.foldl (fun x o => x ||| o.2) 0)) (veCycles w 6 w.count) w.fen (bits w.src2 0 21)

/-- VDQ (R184, R185). -/
def vdqMain (h : Held) (r : Run) : Run :=
  let w := veWord h
  if w.count % 32 ≠ 0 then r.fail errCount
  else
    let g := veRead r w.src1 0 w.count
    let nb := if w.fn = 0 then 2 else 3
    let blocks := (List.range (w.count / 32)).map (fun q => vdqBlock nb (bits w.src2 0 16) (((g.1.drop (32 * q)).take 32).map Prod.fst))
    let size := w.count / 32 * (4 * nb)
    let r1 := (g.2.write w.dst (leBytes size (packElems nb (blocks.flatMap (fun b => b.2.1))))).write (w.dst.plus (to32 size))
      (blocks.map (fun b => BitVec.ofNat 8 b.1))
    veEnd (r1.flag (blocks.foldl (fun a b => a ||| b.2.2) (g.1.foldl (fun a x => a ||| x.2) 0))) (16 + ceilDiv w.count 128) w.fen (bits w.src2 16 21)

/-- A VE command reads no record at its pop. -/
def noPre (_ : Held) (r : Run) : List (List Byte) × Run := ([], r)

/-- A VE row. -/
def veRow (s : State) (core op : Nat) (main : Held → Run → Run) : State :=
  engineRow s core 2 op (fun _ _ => true) { pre := noPre, main := main }

def execVmap (core : Nat) (s : State) : Host.Outcome State Fault Refusal := .next (settle (veRow s core 0x01 vmapMain))
def execVbin (core : Nat) (s : State) : Host.Outcome State Fault Refusal := .next (settle (veRow s core 0x02 vbinMain))
def execVred (core : Nat) (s : State) : Host.Outcome State Fault Refusal := .next (settle (veRow s core 0x03 vredMain))
def execVqnt (core : Nat) (s : State) : Host.Outcome State Fault Refusal := .next (settle (veRow s core 0x04 vqntMain))
def execPadd (core : Nat) (s : State) : Host.Outcome State Fault Refusal := .next (settle (veRow s core 0x05 paddMain))
def execPcvt (core : Nat) (s : State) : Host.Outcome State Fault Refusal := .next (settle (veRow s core 0x06 pcvtMain))
def execVdq (core : Nat) (s : State) : Host.Outcome State Fault Refusal := .next (settle (veRow s core 0x07 vdqMain))

end Sys2Proof.Machine
end

