-- ==== Sys2Proof/Machine/Dispatch.lean ====
section
/-! DEFINITION. One arm per command: each calls the command's own meaning. -/

namespace Sys2Proof.Machine

def exec (i : Instr) (s : State) : Host.Outcome State Fault Refusal :=
  match i with
  | .open_ => Sys2Proof.Machine.execOpen s
  | .watch => Sys2Proof.Machine.execWatch s
  | .deadline => Sys2Proof.Machine.execDeadline s
  | .close => Sys2Proof.Machine.execClose s
  | .tickFrame frame => Sys2Proof.Machine.execTickFrame frame s
  | .beatFrame frame => Sys2Proof.Machine.execBeatFrame frame s
  | .beatSend => Sys2Proof.Machine.execBeatSend s
  | .ringLost => Sys2Proof.Machine.execRingLost s
  | .sourceLost => Sys2Proof.Machine.execSourceLost s
  | .unlockedTimeout => Sys2Proof.Machine.execUnlockedTimeout s
  | .bypassSwitch => Sys2Proof.Machine.execBypassSwitch s
  | .ringReturn frame => Sys2Proof.Machine.execRingReturn frame s
  | .admGoAdmit => Sys2Proof.Machine.execAdmGoAdmit s
  | .admGoWithdraw handle => Sys2Proof.Machine.execAdmGoWithdraw handle s
  | .mark port packet => Sys2Proof.Machine.execMark port packet s
  | .wedge packet => Sys2Proof.Machine.execWedge packet s
  | .recomputeStart handle => Sys2Proof.Machine.execRecomputeStart handle s
  | .commandFetch core => Sys2Proof.Machine.execCommandFetch core s
  | .nop core => Sys2Proof.Machine.execNop core s
  | .end_ core => Sys2Proof.Machine.execEnd core s
  | .jump core => Sys2Proof.Machine.execJump core s
  | .call core => Sys2Proof.Machine.execCall core s
  | .ret core => Sys2Proof.Machine.execRet core s
  | .setc core => Sys2Proof.Machine.execSetc core s
  | .addc core => Sys2Proof.Machine.execAddc core s
  | .loop core => Sys2Proof.Machine.execLoop core s
  | .brc core => Sys2Proof.Machine.execBrc core s
  | .brs core => Sys2Proof.Machine.execBrs core s
  | .wait core => Sys2Proof.Machine.execWait core s
  | .signal core => Sys2Proof.Machine.execSignal core s
  | .waitq core => Sys2Proof.Machine.execWaitq core s
  | .progress core => Sys2Proof.Machine.execProgress core s
  | .launch core => Sys2Proof.Machine.execLaunch core s
  | .sinit core => Sys2Proof.Machine.execSinit core s
  | .qmode core => Sys2Proof.Machine.execQmode core s
  | .enginePush core => Sys2Proof.Machine.execEnginePush core s
  | .queuePushRetry core ctx => Sys2Proof.Machine.execQueuePushRetry core ctx s
  | .cheaperRestart core ctx => Sys2Proof.Machine.execCheaperRestart core ctx s
  | .commandComplete core unit ctx => Sys2Proof.Machine.execCommandComplete core unit ctx s
  | .watchdogExpire core unit seq => Sys2Proof.Machine.execWatchdogExpire core unit seq s
  | .qmonFire core ctx unit => Sys2Proof.Machine.execQmonFire core ctx unit s
  | .syncopWait req => Sys2Proof.Machine.execSyncopWait req s
  | .syncopSignal req => Sys2Proof.Machine.execSyncopSignal req s
  | .syncopSinit req => Sys2Proof.Machine.execSyncopSinit req s
  | .syncopSample req => Sys2Proof.Machine.execSyncopSample req s
  | .syncopCancel req => Sys2Proof.Machine.execSyncopCancel req s
  | .syncopAbandon req => Sys2Proof.Machine.execSyncopAbandon req s
  | .syncAnswer core ctx => Sys2Proof.Machine.execSyncAnswer core ctx s
  | .waitTimeout core ctx => Sys2Proof.Machine.execWaitTimeout core ctx s
  | .syncRetry core ctx => Sys2Proof.Machine.execSyncRetry core ctx s
  | .syncStateRead obj => Sys2Proof.Machine.execSyncStateRead obj s
  | .syncWaitersClear part => Sys2Proof.Machine.execSyncWaitersClear part s
  | .trigger packet => Sys2Proof.Machine.execTrigger packet s
  | .coreFlush core => Sys2Proof.Machine.execCoreFlush core s
  | .operandFill core => Sys2Proof.Machine.execOperandFill core s
  | .mma core => Sys2Proof.Machine.execMma core s
  | .vmap core => Sys2Proof.Machine.execVmap core s
  | .vbin core => Sys2Proof.Machine.execVbin core s
  | .vred core => Sys2Proof.Machine.execVred core s
  | .vqnt core => Sys2Proof.Machine.execVqnt core s
  | .padd core => Sys2Proof.Machine.execPadd core s
  | .pcvt core => Sys2Proof.Machine.execPcvt core s
  | .vdq core => Sys2Proof.Machine.execVdq core s
  | .sload core => Sys2Proof.Machine.execSload core s
  | .scan core => Sys2Proof.Machine.execScan core s
  | .gprobe core => Sys2Proof.Machine.execGprobe core s
  | .kmerge core => Sys2Proof.Machine.execKmerge core s
  | .candidateInsert core => Sys2Proof.Machine.execCandidateInsert core s
  | .ucNop core => Sys2Proof.Machine.execUcNop core s
  | .ucJmp core => Sys2Proof.Machine.execUcJmp core s
  | .br core => Sys2Proof.Machine.execBr core s
  | .emiti core => Sys2Proof.Machine.execEmiti core s
  | .emitf core => Sys2Proof.Machine.execEmitf core s
  | .ucRet core => Sys2Proof.Machine.execUcRet core s
  | .skip core => Sys2Proof.Machine.execSkip core s
  | .vdot core => Sys2Proof.Machine.execVdot core s
  | .vsqd core => Sys2Proof.Machine.execVsqd core s
  | .vabsd core => Sys2Proof.Machine.execVabsd core s
  | .vwabsd core => Sys2Proof.Machine.execVwabsd core s
  | .vxpop core => Sys2Proof.Machine.execVxpop core s
  | .vlut core => Sys2Proof.Machine.execVlut core s
  | .vclr core => Sys2Proof.Machine.execVclr core s
  | .vsqdx core => Sys2Proof.Machine.execVsqdx core s
  | .rsum core => Sys2Proof.Machine.execRsum core s
  | .smov core => Sys2Proof.Machine.execSmov core s
  | .sadd core => Sys2Proof.Machine.execSadd core s
  | .ssub core => Sys2Proof.Machine.execSsub core s
  | .smul core => Sys2Proof.Machine.execSmul core s
  | .sneg core => Sys2Proof.Machine.execSneg core s
  | .saddi core => Sys2Proof.Machine.execSaddi core s
  | .fcvt core => Sys2Proof.Machine.execFcvt core s
  | .fmul core => Sys2Proof.Machine.execFmul core s
  | .fadd core => Sys2Proof.Machine.execFadd core s
  | .frsq core => Sys2Proof.Machine.execFrsq core s
  | .fneg core => Sys2Proof.Machine.execFneg core s
  | .sth core => Sys2Proof.Machine.execSth core s
  | .seBmcFlush cluster => Sys2Proof.Machine.execSeBmcFlush cluster s
  | .copy core => Sys2Proof.Machine.execCopy core s
  | .gather core => Sys2Proof.Machine.execGather core s
  | .scatter core => Sys2Proof.Machine.execScatter core s
  | .fatom core => Sys2Proof.Machine.execFatom core s
  | .ftrig core => Sys2Proof.Machine.execFtrig core s
  | .haul core => Sys2Proof.Machine.execHaul core s
  | .haulDrop core => Sys2Proof.Machine.execHaulDrop core s
  | .descriptorSubmit core => Sys2Proof.Machine.execDescriptorSubmit core s
  | .layerLand entry => Sys2Proof.Machine.execLayerLand entry s
  | .haulRefill part => Sys2Proof.Machine.execHaulRefill part s
  | .poolPlace region pmask frames => Sys2Proof.Machine.execPoolPlace region pmask frames s
  | .poolFree region frames => Sys2Proof.Machine.execPoolFree region frames s
  | .load context => Sys2Proof.Machine.execLoad context s
  | .unload context => Sys2Proof.Machine.execUnload context s
  | .invRange context bump => Sys2Proof.Machine.execInvRange context bump s
  | .invCtx context bump => Sys2Proof.Machine.execInvCtx context bump s
  | .invAll bump => Sys2Proof.Machine.execInvAll bump s
  | .invalidationDone => Sys2Proof.Machine.execInvalidationDone s
  | .epochIncrement context => Sys2Proof.Machine.execEpochIncrement context s
  | .xltDrain context => Sys2Proof.Machine.execXltDrain context s
  | .drainDone => Sys2Proof.Machine.execDrainDone s
  | .walkComplete core => Sys2Proof.Machine.execWalkComplete core s
  | .hostLinkUp link width rate noFlit memBi => Sys2Proof.Machine.execHostLinkUp link width rate noFlit memBi s
  | .hostLinkLossTimeout link => Sys2Proof.Machine.execHostLinkLossTimeout link s
  | .presenceLost port => Sys2Proof.Machine.execPresenceLost port s
  | .ideFailure link => Sys2Proof.Machine.execIdeFailure link s
  | .perst port => Sys2Proof.Machine.execPerst port s
  | .hostRetrain port => Sys2Proof.Machine.execHostRetrain port s
  | .cxlMemRequest link op dpa tag data mask poison => Sys2Proof.Machine.execCxlMemRequest link op dpa tag data mask poison s
  | .mapInvalidate link => Sys2Proof.Machine.execMapInvalidate link s
  | .mapinvDone link => Sys2Proof.Machine.execMapinvDone link s
  | .set_ index => Sys2Proof.Machine.execSet index s
  | .free index => Sys2Proof.Machine.execFree index s
  | .rgnRead index => Sys2Proof.Machine.execRgnRead index s
  | .shgSync group => Sys2Proof.Machine.execShgSync group s
  | .sqTail queue tail => Sys2Proof.Machine.execSqTail queue tail s
  | .cqHead queue head => Sys2Proof.Machine.execCqHead queue head s
  | .queueReset queue => Sys2Proof.Machine.execQueueReset queue s
  | .queueFetch queue entry => Sys2Proof.Machine.execQueueFetch queue entry s
  | .queueNop queue => Sys2Proof.Machine.execQueueNop queue s
  | .copyIn queue data poison => Sys2Proof.Machine.execCopyIn queue data poison s
  | .copyOut queue => Sys2Proof.Machine.execCopyOut queue s
  | .pageOut queue => Sys2Proof.Machine.execPageOut queue s
  | .pageIn queue data poison => Sys2Proof.Machine.execPageIn queue data poison s
  | .sync queue => Sys2Proof.Machine.execSync queue s
  | .admit_ queue => Sys2Proof.Machine.execAdmit queue s
  | .withdraw queue => Sys2Proof.Machine.execWithdraw queue s
  | .queueCompletion queue => Sys2Proof.Machine.execQueueCompletion queue s
  | .hostReadTimeout queue cid => Sys2Proof.Machine.execHostReadTimeout queue cid s
  | .lockInterface queue => Sys2Proof.Machine.execLockInterface queue s
  | .stopInterface queue => Sys2Proof.Machine.execStopInterface queue s
  | .rdcur req => Sys2Proof.Machine.execRdcur req s
  | .rds req => Sys2Proof.Machine.execRds req s
  | .rdm req => Sys2Proof.Machine.execRdm req s
  | .invm req => Sys2Proof.Machine.execInvm req s
  | .wrcur req => Sys2Proof.Machine.execWrcur req s
  | .wrbk req metaS => Sys2Proof.Machine.execWrbk req metaS s
  | .evict req => Sys2Proof.Machine.execEvict req s
  | .atomic packet => Sys2Proof.Machine.execAtomic packet s
  | .transactionClose line => Sys2Proof.Machine.execTransactionClose line s
  | .birsp line agent data keepS => Sys2Proof.Machine.execBirsp line agent data keepS s
  | .biconflict agent line tag => Sys2Proof.Machine.execBiconflict agent line tag s
  | .inv packet => Sys2Proof.Machine.execInv packet s
  | .fwd packet => Sys2Proof.Machine.execFwd packet s
  | .invack packet => Sys2Proof.Machine.execInvack packet s
  | .fwdack packet => Sys2Proof.Machine.execFwdack packet s
  | .fwddata packet => Sys2Proof.Machine.execFwddata packet s
  | .fwddone packet => Sys2Proof.Machine.execFwddone packet s
  | .birspTimeout line agent => Sys2Proof.Machine.execBirspTimeout line agent s
  | .fwdackTimeout line agent => Sys2Proof.Machine.execFwdackTimeout line agent s
  | .invackTimeout line agent => Sys2Proof.Machine.execInvackTimeout line agent s
  | .leaseInstall die => Sys2Proof.Machine.execLeaseInstall die s
  | .atomicBufferEvict die line => Sys2Proof.Machine.execAtomicBufferEvict die line s
  | .sweep die => Sys2Proof.Machine.execSweep die s
  | .fenceClear die => Sys2Proof.Machine.execFenceClear die s
  | .reserveRewrite die part => Sys2Proof.Machine.execReserveRewrite die part s
  | .dataFlit port flit => Sys2Proof.Machine.execDataFlit port flit s
  | .sealFlit port flit verified => Sys2Proof.Machine.execSealFlit port flit verified s
  | .sealSend port => Sys2Proof.Machine.execSealSend port s
  | .nakReceive port ack => Sys2Proof.Machine.execNakReceive port ack s
  | .nakResend port => Sys2Proof.Machine.execNakResend port s
  | .replayTimeout port => Sys2Proof.Machine.execReplayTimeout port s
  | .probe port t1 => Sys2Proof.Machine.execProbe port t1 s
  | .probeReply port t1 t2 t3 => Sys2Proof.Machine.execProbeReply port t1 t2 t3 s
  | .probeSend port => Sys2Proof.Machine.execProbeSend port s
  | .laneFail port lane => Sys2Proof.Machine.execLaneFail port lane s
  | .retrainRequest port healthy => Sys2Proof.Machine.execRetrainRequest port healthy s
  | .retrainDone port healthy lastSeal credits => Sys2Proof.Machine.execRetrainDone port healthy lastSeal credits s
  | .laneRecover port lane => Sys2Proof.Machine.execLaneRecover port lane s
  | .partnerDetect port => Sys2Proof.Machine.execPartnerDetect port s
  | .trainingStep port healthy => Sys2Proof.Machine.execTrainingStep port healthy s
  | .params port fields => Sys2Proof.Machine.execParams port fields s
  | .secure port accepted => Sys2Proof.Machine.execSecure port accepted s
  | .trainingTimeout port => Sys2Proof.Machine.execTrainingTimeout port s
  | .linkSilent port => Sys2Proof.Machine.execLinkSilent port s
  | .nlkEnable port => Sys2Proof.Machine.execNlkEnable port s
  | .nlkRetrain port => Sys2Proof.Machine.execNlkRetrain port s
  | .laneOff port lanes => Sys2Proof.Machine.execLaneOff port lanes s
  | .packetRoute entry packet => Sys2Proof.Machine.execPacketRoute entry packet s
  | .bulkget packet => Sys2Proof.Machine.execBulkget packet s
  | .place packet => Sys2Proof.Machine.execPlace packet s
  | .bulkdata packet => Sys2Proof.Machine.execBulkdata packet s
  | .tableSetUnit packet => Sys2Proof.Machine.execTableSetUnit packet s
  | .tableans packet => Sys2Proof.Machine.execTableans packet s
  | .segmentEnqueue die => Sys2Proof.Machine.execSegmentEnqueue die s
  | .segmentEncode die => Sys2Proof.Machine.execSegmentEncode die s
  | .segmentExpand hub xfer => Sys2Proof.Machine.execSegmentExpand hub xfer s
  | .nfabCmpHighClear die => Sys2Proof.Machine.execNfabCmpHighClear die s
  | .data packet => Sys2Proof.Machine.execData packet s
  | .cmp packet => Sys2Proof.Machine.execCmp packet s
  | .atomres packet => Sys2Proof.Machine.execAtomres packet s
  | .syncres packet => Sys2Proof.Machine.execSyncres packet s
  | .trigres packet => Sys2Proof.Machine.execTrigres packet s
  | .nakpath packet => Sys2Proof.Machine.execNakpath packet s
  | .bulkdone packet => Sys2Proof.Machine.execBulkdone packet s
  | .requestResend tag => Sys2Proof.Machine.execRequestResend tag s
  | .requestTimeout tag => Sys2Proof.Machine.execRequestTimeout tag s
  | .fence packet => Sys2Proof.Machine.execFence packet s
  | .echo packet => Sys2Proof.Machine.execEcho packet s
  | .reconcile packet => Sys2Proof.Machine.execReconcile packet s
  | .reconans packet => Sys2Proof.Machine.execReconans packet s
  | .reconcileTimeout port => Sys2Proof.Machine.execReconcileTimeout port s
  | .loss packet => Sys2Proof.Machine.execLoss packet s
  | .epochNotice packet => Sys2Proof.Machine.execEpochNotice packet s
  | .hubLost hub => Sys2Proof.Machine.execHubLost hub s
  | .tenantCreate sender keyHash => Sys2Proof.Machine.execTenantCreate sender keyHash s
  | .tenantDelete sender tid => Sys2Proof.Machine.execTenantDelete sender tid s
  | .keyidAssign sender keyId tid => Sys2Proof.Machine.execKeyidAssign sender keyId tid s
  | .keyidRevoke sender keyId => Sys2Proof.Machine.execKeyidRevoke sender keyId s
  | .ctxBind sender context tid => Sys2Proof.Machine.execCtxBind sender context tid s
  | .objAssign sender obj context => Sys2Proof.Machine.execObjAssign sender obj context s
  | .envelope sender hub envelope good => Sys2Proof.Machine.execEnvelope sender hub envelope good s
  | .keyGen tid keyId integrity => Sys2Proof.Machine.execKeyGen tid keyId integrity s
  | .keyImport tid keyId integrity material => Sys2Proof.Machine.execKeyImport tid keyId integrity material s
  | .keyDestroy tid keyId => Sys2Proof.Machine.execKeyDestroy tid keyId s
  | .bin tid keyId value => Sys2Proof.Machine.execBin tid keyId value s
  | .ctxConfirm tid context hash => Sys2Proof.Machine.execCtxConfirm tid context hash s
  | .linkBind tid agent keyHash => Sys2Proof.Machine.execLinkBind tid agent keyHash s
  | .windowReq tid kind hub first count region rd wr atm => Sys2Proof.Machine.execWindowReq tid kind hub first count region rd wr atm s
  | .windowGrant hub number keyId => Sys2Proof.Machine.execWindowGrant hub number keyId s
  | .windowDrop tid number => Sys2Proof.Machine.execWindowDrop tid number s
  | .share tid region keyHash rd wr atm => Sys2Proof.Machine.execShare tid region keyHash rd wr atm s
  | .query tid => Sys2Proof.Machine.execQuery tid s
  | .debugChallenge part level => Sys2Proof.Machine.execDebugChallenge part level s
  | .nonceExpire part => Sys2Proof.Machine.execNonceExpire part s
  | .debugOpen part level ownerSigned vendorSigned => Sys2Proof.Machine.execDebugOpen part level ownerSigned vendorSigned s
  | .debugClose part ownerSigned => Sys2Proof.Machine.execDebugClose part ownerSigned s
  | .setOwner keyHash => Sys2Proof.Machine.execSetOwner keyHash s
  | .transfer keyHash ownerSigned => Sys2Proof.Machine.execTransfer keyHash ownerSigned s
  | .reclaim vendorSigned => Sys2Proof.Machine.execReclaim vendorSigned s
  | .managerCert keyHash ownerSigned => Sys2Proof.Machine.execManagerCert keyHash ownerSigned s
  | .svnCommit cls ownerSigned => Sys2Proof.Machine.execSvnCommit cls ownerSigned s
  | .getMeasurements session => Sys2Proof.Machine.execGetMeasurements session s
  | .keyProg link stream keyHash => Sys2Proof.Machine.execKeyProg link stream keyHash s
  | .clusterScrub cluster => Sys2Proof.Machine.execClusterScrub cluster s
  | .keyidFree keyId => Sys2Proof.Machine.execKeyidFree keyId s
  | .heartbeatLoss part => Sys2Proof.Machine.execHeartbeatLoss part s
  | .partitionReset part => Sys2Proof.Machine.execPartitionReset part s
  | .partitionUp part => Sys2Proof.Machine.execPartitionUp part s
  | .partitionFail part => Sys2Proof.Machine.execPartitionFail part s
  | .resync part => Sys2Proof.Machine.execResync part s
  | .coreFence core => Sys2Proof.Machine.execCoreFence core s
  | .coreUnfence core => Sys2Proof.Machine.execCoreUnfence core s
  | .managerAbort job => Sys2Proof.Machine.execManagerAbort job s
  | .rowSpare unit => Sys2Proof.Machine.execRowSpare unit s
  | .frameRetire frames => Sys2Proof.Machine.execFrameRetire frames s
  | .channelRetire channel => Sys2Proof.Machine.execChannelRetire channel s
  | .retireNext => Sys2Proof.Machine.execRetireNext s
  | .read page offset => Sys2Proof.Machine.execRead page offset s
  | .write page offset value => Sys2Proof.Machine.execWrite page offset value s
  | .readLo page offset => Sys2Proof.Machine.execReadLo page offset s
  | .readHi page offset => Sys2Proof.Machine.execReadHi page offset s
  | .writeLo page offset value => Sys2Proof.Machine.execWriteLo page offset value s
  | .writeHi page offset value => Sys2Proof.Machine.execWriteHi page offset value s
  | .arm page => Sys2Proof.Machine.execArm page s
  | .registerWrite page offset value => Sys2Proof.Machine.execRegisterWrite page offset value s
  | .pageLock page => Sys2Proof.Machine.execPageLock page s
  | .clampClear page => Sys2Proof.Machine.execClampClear page s
  | .unstage page => Sys2Proof.Machine.execUnstage page s
  | .mctpReceive die transport endpoint session message => Sys2Proof.Machine.execMctpReceive die transport endpoint session message s
  | .intEvent group => Sys2Proof.Machine.execIntEvent group s
  | .intRemind => Sys2Proof.Machine.execIntRemind s
  | .leaseRenew sd0 sd1 => Sys2Proof.Machine.execLeaseRenew sd0 sd1 s
  | .leaseSample sd0 sd1 => Sys2Proof.Machine.execLeaseSample sd0 sd1 s
  | .stepDown => Sys2Proof.Machine.execStepDown s
  | .takeover sd0 sd1 => Sys2Proof.Machine.execTakeover sd0 sd1 s
  | .updLoad verified compatible version svn => Sys2Proof.Machine.execUpdLoad verified compatible version svn s
  | .updStart => Sys2Proof.Machine.execUpdStart s
  | .updRollback => Sys2Proof.Machine.execUpdRollback s
  | .tallyCfgWrite part n value => Sys2Proof.Machine.execTallyCfgWrite part n value s
  | .snapshot part => Sys2Proof.Machine.execSnapshot part s
  | .sampleSeed part seed => Sys2Proof.Machine.execSampleSeed part seed s
  | .sampCtrlWrite part value => Sys2Proof.Machine.execSampCtrlWrite part value s
  | .samplePop part => Sys2Proof.Machine.execSamplePop part s
  | .bwCtrlWrite die value => Sys2Proof.Machine.execBwCtrlWrite die value s
  | .bwWindowEnd die => Sys2Proof.Machine.execBwWindowEnd die s
  | .peakClear die => Sys2Proof.Machine.execPeakClear die s
  | .powerReport vin amps parts => Sys2Proof.Machine.execPowerReport vin amps parts s
  | .dutyReplace part => Sys2Proof.Machine.execDutyReplace part s
  | .dutyRecover part => Sys2Proof.Machine.execDutyRecover part s
  | .sustainedCheck => Sys2Proof.Machine.execSustainedCheck s
  | .sensorRead coreTemps stackTemps dies => Sys2Proof.Machine.execSensorRead coreTemps stackTemps dies s
  | .thermalCheck => Sys2Proof.Machine.execThermalCheck s
  | .vinChange mv => Sys2Proof.Machine.execVinChange mv s
  | .quiescedRestart failed => Sys2Proof.Machine.execQuiescedRestart failed s
  | .droop part => Sys2Proof.Machine.execDroop part s
  | .droopMarginDecay part => Sys2Proof.Machine.execDroopMarginDecay part s
  | .calibrationSlot part => Sys2Proof.Machine.execCalibrationSlot part s
  | .refClockLost b => Sys2Proof.Machine.execRefClockLost b s
  | .refSelect b => Sys2Proof.Machine.execRefSelect b s
  | .coldStart failed channels => Sys2Proof.Machine.execColdStart failed channels s
  | .form domain hub => Sys2Proof.Machine.execForm domain hub s
  | .join domain hub => Sys2Proof.Machine.execJoin domain hub s
  | .leave => Sys2Proof.Machine.execLeave s
  | .forget hub => Sys2Proof.Machine.execForget hub s
  | .warmArea frame => Sys2Proof.Machine.execWarmArea frame s
  | .warmReset failed => Sys2Proof.Machine.execWarmReset failed s
  | .sleep part => Sys2Proof.Machine.execSleep part s
  | .wake part => Sys2Proof.Machine.execWake part s
  | .status => Sys2Proof.Machine.execStatus s
  | .vstbyLost => Sys2Proof.Machine.execVstbyLost s
  | .coldResetPin => Sys2Proof.Machine.execColdResetPin s
  | .pinFuncWrite die value => Sys2Proof.Machine.execPinFuncWrite die value s
  | .functionSwitch land => Sys2Proof.Machine.execFunctionSwitch land s
  | .switchAbandon land => Sys2Proof.Machine.execSwitchAbandon land s
  | .idleFlit port flit => Sys2Proof.Machine.execIdleFlit port flit s
  | .badCrcFlit port uncorrectable => Sys2Proof.Machine.execBadCrcFlit port uncorrectable s
  | .partnerTrainingPattern port => Sys2Proof.Machine.execPartnerTrainingPattern port s
  | .releaseRecordExpire port => Sys2Proof.Machine.execReleaseRecordExpire port s
  | .resultCacheExpire part agent tag => Sys2Proof.Machine.execResultCacheExpire part agent tag s
  | .hostLinkL0Exit link => Sys2Proof.Machine.execHostLinkL0Exit link s
  | .hostLinkL0Return link => Sys2Proof.Machine.execHostLinkL0Return link s
  | .startInterface queue => Sys2Proof.Machine.execStartInterface queue s
  | .mirrorLost => Sys2Proof.Machine.execMirrorLost s
  | .eloanOutOfStep root => Sys2Proof.Machine.execEloanOutOfStep root s
  | .refClockReturn b => Sys2Proof.Machine.execRefClockReturn b s
  | .pllLockLost pll => Sys2Proof.Machine.execPllLockLost pll s
  | .vioChange present => Sys2Proof.Machine.execVioChange present s
  | .gpioInputChange land level => Sys2Proof.Machine.execGpioInputChange land level s
  | .oldFunctionIdle land => Sys2Proof.Machine.execOldFunctionIdle land s

end Sys2Proof.Machine
end

