-- ==== Sys2Proof/Machine/Errors.lean ====
section
/-! DEFINITION. What the hub does with an error of the silicon when a check finds it (R494, R517 to R520, R532, R391): its class
and record, and the place that becomes poison, is dropped, rebuilt, reset or fenced (Table 15.2). -/

namespace Sys2Proof.Machine

/-! ### Memory (R494, R518, R539) -/

/-- A line of this hub's store is read from its DRAM: its home is up and the line lies in no erased block. -/
def inDram (s : State) (line : Nat) : Bool :=
  match homePart s (line * 64), farSlot s (line * 64) with
  | none, _ => false
  | some p, none => partUp s p
  | some p, some f => partUp s p && !(f.guarded && ownErased s f)

/-- A line becomes poison (Table 15.2), under a cause. -/
def lineLost (s : State) (line cause : Nat) : State :=
  fault (poisonLines s [line]) { cls := 2, cause := cause, page := rasPage, actions := 16, pa := localPa s (line * 64) }

/-- A guarded line that DRAM no longer gives is rebuilt from the rest of its stripe: none where it is no guarded line or three
blocks or more are erased with it (R539). The detail has the bit of its block's place among the erased ones. -/
def rebuiltFrom (s : State) (line : Nat) : Option Nat :=
  match farSlot s (line * 64) with
  | some f =>
    if f.guarded && decide (erasedCount s f.frame < 2) then
      some (2 ^ ((List.range f.channel).countP (fun ch => channelErased s f.frame ch)))
    else none
  | none => none

/-- A DRAM line that its code does not correct: rebuilt and rewritten, or poison. -/
def dramFailed (s : State) (line : Nat) : State :=
  match rebuiltFrom s line with
  | some b => fault s { cls := 1, cause := 0x0004, page := rasPage, actions := 32, detail := b, pa := localPa s (line * 64) }
  | none => lineLost s line 0x0002

/-- The key ID of a line's region. -/
def lineKey (s : State) (line : Nat) : Nat :=
  match regionOf s (line * 64) with
  | some r => rgnKey (regionEntry s r)
  | none => 0

/-- A MAC fails (R494, Tables 14.11 and 14.13): the line is rebuilt and counted, or written as poison with cause INTEGRITY. -/
def macFailed (s : State) (line : Nat) : State :=
  if !(keyOf s (lineKey s line)).integrity then s
  else
    let p := (homePart s (line * 64)).getD 0
    let die := p / 3
    let s1 := setF (setF s F.CRYP_LAST_key_id die (lineKey s line)) F.CRYP_LAST_partition die p
    match rebuiltFrom s line with
    | some b =>
      fault (raise (addSatF s1 F.CRYP_INTEG_corrected die 1) (F.CRYP_INTEG_corrected.page + die) 1)
        { cls := 1, cause := 0x0003, page := F.CRYP_INTEG_corrected.page + die, actions := 32, detail := b, pa := localPa s (line * 64) }
    | none =>
      fault (raise (addSatF (poisonLines s1 [line]) F.CRYP_INTEG_poisoned die 1) (F.CRYP_INTEG_poisoned.page + die) 0)
        { cls := 2, cause := 0x0003, page := F.CRYP_INTEG_poisoned.page + die, actions := 16, pa := localPa s (line * 64) }

/-! ### Caches, scratchpads and buffers (R518, R532) -/

/-- Data of a cached line: a clean one is dropped and fetched again, a dirty one becomes poison. -/
def cacheFailed (s : State) (line : Nat) (dirty : Bool) : State :=
  match homePart s (line * 64) with
  | none => s
  | some p =>
    if !partUp s p then s
    else if dirty then dirtyLost s line
    else fault s { cls := 1, cause := 0x0005, page := rasPage, pa := localPa s (line * 64) }

/-- Tag or state of a line cache: every line that it held dirty becomes poison, and its partition resets (R532). -/
def cacheUntrusted (s : State) (p : Nat) (dirty : List Nat) : State :=
  if 12 ≤ p ∨ !partUp s p then s
  else
    beginReset (poisonLines s (dirty.filter (fun l => homePart s (l * 64) == some p && !guardedLine s l))) p 0x0006

/-- A word of S-space or C-space: it stays poisoned until one write writes all of it. -/
def wordLost (s : State) (cspace : Bool) (word : Nat) : State :=
  let core := if cspace then word * 8 / cSize * 16 else word * 8 / sSize
  if 384 ≤ core ∨ !partUp s (partOfCore core) then s
  else
    let s1 := { s with ras :=
      if cspace then { s.ras with poisonC := Tab.insert s.ras.poisonC word () }
      else { s.ras with poisonS := Tab.insert s.ras.poisonS word () } }
    fault s1 { cls := 2, cause := 0x0007, page := corePage core, actions := 16, detail := b2n cspace, core := if cspace then 0x1FF else core }

/-- A cached copy is dropped; the next use fetches it again. Which walker-cache entry it was shows nowhere (R663). -/
def copyDropped (s : State) (kind unit place : Nat) : State :=
  let found (p core : Nat) (a : State) : State :=
    if 12 ≤ p ∨ !partUp s p then s
    else fault a { cls := 1, cause := 0x0008, page := if core = 0x1FF then rasPage else corePage core, detail := kind, core := core }
  match kind with
  | 0 => found (partOfCore unit) unit (updCore s unit (fun c => { c with opLines := c.opLines.eraseIdx place }))
  | 1 => found (unit / 2) 0x1FF { s with bitmaps := Tab.upd [] s.bitmaps unit (fun l => l.eraseIdx place) }
  | 2 =>
    if unit < 384 then found (partOfCore unit) unit { s with xlt := { s.xlt with coreTlb := Tab.upd [] s.xlt.coreTlb unit (fun l => l.eraseIdx place) } }
    else found (unit - 384) 0x1FF { s with xlt := { s.xlt with partTlb := Tab.upd [] s.xlt.partTlb (unit - 384) (fun l => l.eraseIdx place) } }
  | 3 => found unit 0x1FF s
  | _ => s

/-! ### Engines, threads, objects -/

/-- The command that an engine carries out: its oldest that is not done. -/
def carried (s : State) (core unit : Nat) : Option Held := (engineOf s core unit).held.find? (fun h => !h.done && h.error == 0)

/-- The query context that holds a command of a search engine. -/
def queryOf (s : State) (core unit seq : Nat) : Option Nat :=
  if unit = 3 then
    (List.find? (fun (q : Nat × QCtx) => q.2.heldSeq == seq && decide (q.2.state ≠ .free)) (coreOf s core).search.qctxs).map Prod.fst
  else none

/-- A residue check fails (Table 15.2): the command fails with CHECK, and the third within a millisecond fences the core. -/
def residueFailed (s : State) (core unit : Nat) : State :=
  match carried s core unit with
  | none => s
  | some h =>
    let s1 := match queryOf s core unit h.seq with
      | some q => failPlain s core q h errCheck
      | none => failCommand s core unit h errCheck 0 0 .rd
    let recent := (s1.ras.checks.filter (fun c => decide (s1.now < c.2 + 2000000))) ++ [(core, s1.now)]
    let s2 := { s1 with ras := { s1.ras with checks := recent } }
    if 3 ≤ recent.countP (fun c => c.1 == core) then fenceCore s2 core 0x0009 else s2

/-- An object whose state is lost resets as R136 lays down. -/
def objectLost (s : State) (k : Nat) : State :=
  if 12 * 6144 ≤ k ∨ !partUp s (k / 6144) then s
  else resetObj (fault s { cls := 2, cause := 0x000E, page := F.SYNC_SEL_index.page + k / 6144 }) k

/-! ### The Seam and the fabric -/

/-- A result-cache entry fails: its key is kept and never answered. -/
def resultLost (s : State) (part agent tag : Nat) : State :=
  if (storedResult s part agent tag).isNone then s
  else
    let s1 := updFabric s (fun f => { f with results := Tab.upd [] f.results part (fun l =>
      l.map (fun r => if r.agent == agent && r.tag == tag then { r with dead := true } else r)) })
    fault s1 { cls := 2, cause := 0x0010, page := rasPage, agent := agent }

/-- The page of a seam die. -/
def seamPage (d : Nat) : Nat := F.SEAM_UNCORR_entries.page + d

/-- A directory entry fails its check (R391): one copy serves for the other; lost in both, it is replaced by a recall that goes
to the whole share group. -/
def entryLost (s : State) (line : Nat) (both : Bool) : State :=
  let d := dieOfLine s line
  let info : FaultInfo := { cls := 1, cause := 0x000F, page := seamPage d, pa := localPa s (line * 64) }
  if (dirEntry s line).state = .i then s
  else if !both then fault s info
  else recallLine (broadcastEntry (raise (addSatF (fault s info) F.SEAM_UNCORR_entries d 1) (seamPage d) 2) line) line .recall

/-- The tag block of a bucket fails its check (R391): lost in both copies, the bucket is failed. -/
def bucketLost (s : State) (d b : Nat) (both : Bool) : State :=
  if 2 ≤ d ∨ 2 ^ 25 ≤ b then s
  else
    let s1 := fault s { cls := 1, cause := 0x000F, page := seamPage d }
    if !both ∨ (seamDie s d).failed.contains b then s1
    else raise (addSatF (updDie s1 d (fun x => { x with failed := x.failed ++ [b] })) F.SEAM_UNCORR_buckets d 1) (seamPage d) 2

/-- A checked pair disagrees twice on one operation (R518): what it worked on is discarded, and its sender's timeout applies. -/
def pairFailed (s : State) (unit which : Nat) : State :=
  let s1 := match unit with
    | 1 => updDie s which (fun d => { d with waiting := d.waiting.drop 1 })
    | 2 => updFabric s (fun f => { f with incoming := f.incoming.drop 1 })
    | 3 => (match s.henyen.log with
      | m :: rest =>
        { s with henyen := { s.henyen with
            log := rest
            buffers := Tab.setC 0 s.henyen.buffers (m.die * 4 + m.transport)
              (Tab.getC 0 s.henyen.buffers (m.die * 4 + m.transport) - (8 + 16 * m.ops.length)) } }
      | [] => s)
    | _ => s
  if unit = 0 ∨ 4 < unit ∨ 2 ≤ which then s
  else fault s1 { cls := 2, cause := 0x0011, page := rasPage, detail := unit }

/-! ### The checks -/

/-- A check finds an error (Table 15.2). -/
def detect (s : State) (e : SiliconError) : State :=
  match e with
  | .dramOne line device =>
    if inDram s line then fault s { cls := 1, cause := 0x0001, page := rasPage, detail := device, pa := localPa s (line * 64) } else s
  | .dramLost line => if inDram s line then dramFailed s line else s
  | .mac line => if inDram s line then macFailed s line else s
  | .cacheData line dirty => cacheFailed s line dirty
  | .cacheState p dirty => cacheUntrusted s p dirty
  | .scratch cspace word => wordLost s cspace word
  | .copy kind unit place => copyDropped s kind unit place
  | .residue core unit => if core < 384 ∧ partUp s (partOfCore core) then residueFailed s core unit else s
  | .sequencer core => if core < 384 ∧ partUp s (partOfCore core) then fenceCore s core 0x000A else s
  | .object k => objectLost s k
  | .seamArray line => if (homePart s (line * 64)).isSome then lineLost s line 0x000F else s
  | .result part agent tag => resultLost s part agent tag
  | .dirEntry line both => entryLost s line both
  | .dirBucket d b both => bucketLost s d b both
  | .pair unit which => pairFailed s unit which
  | .rail p => beginReset s p 0x0018
  | .codeword n => if n < 48 then addSatF s F.NLK_FEC_corrected n 1 else s

/-- The checks find the next error of the silicon, if there is one. -/
def checkSilicon (s : State) : State :=
  match s.ras.errors with
  | [] => s
  | e :: rest => detect { s with ras := { s.ras with errors := rest } } e

end Sys2Proof.Machine
end

