-- ==== Sys2Proof/Machine/Idle.lean ====
section
/-! DEFINITION. What time does when no command waits: the fabric timer counts 0.5 ns, and with it what the hub does by time alone. -/

namespace Sys2Proof.Machine

/-- Core clock cycles of a partition in the half-nanosecond that now begins. -/
def cyclesNow (s : State) (p : Nat) : Nat :=
  let f := pointMHz (pointNow s p)
  (s.now + 1) * f / 2000 - s.now * f / 2000

/-- Each partition that is up counts its clock cycles (event CYCLES, Table 17.1). -/
def countCycles (s : State) : State :=
  (List.range 12).foldl (fun a p => let n := cyclesNow s p; if n = 0 then a else tally a { part := p, code := 0x01, n := n }) s

/-- The timers count: the fabric timer (R54), the tick's phase, and domain time, which counts nanoseconds (R471). -/
def countTime (s : State) : State :=
  { s with
    now := s.now + 1
    tick := { s.tick with phase := s.tick.phase + 1 }
    fabric := { s.fabric with dtime := (s.fabric.dtime + (s.now + 1) % 2) % 2 ^ 64 } }

/-- No command waits: time passes, a check may find an error of the silicon, the package follows its supply, receipts that are
due leave. -/
def idle (s : State) : State := settle (settleReceipts (followSupply (checkSilicon (countTime (countCycles s)))))

end Sys2Proof.Machine
end

