-- ==== Sys2Proof/Machine/Parity.lean ====
section
/-! DEFINITION. The parity of the guarded far tier (R536 to R539): P and Q of a stripe as its data blocks give them, the change a
write makes to them, and what a rebuild serves in an erased block's place. The store holds the bytes that reads are served;
the P and Q blocks are functions of it. -/

namespace Sys2Proof.Machine

/-! ### GF(2^8) with polynomial 0x11D (R536) -/

/-- The product of an element with g = 0x02. -/
def gfDouble (a : Byte) : Byte := (a <<< 1) ^^^ (if a.msb then 0x1D else 0)

/-- g^i times an element. -/
def gfShift : Nat → Byte → Byte
  | 0, a => a
  | i + 1, a => gfDouble (gfShift i a)

/-- The power g^i. -/
def gfPow (i : Nat) : Byte := gfShift i 1

/-- The product of two elements: one term per bit of the first. -/
def gfMul (a b : Byte) : Byte :=
  (List.range 8).foldl (fun acc i => acc ^^^ (if a.getLsbD i then gfShift i b else 0)) 0

/-- The inverse of an element, a^254. -/
def gfInv (a : Byte) : Byte :=
  let a2 := gfMul a a
  let a4 := gfMul a2 a2
  let a8 := gfMul a4 a4
  let a16 := gfMul a8 a8
  let a32 := gfMul a16 a16
  let a64 := gfMul a32 a32
  gfMul (gfMul (gfMul a2 a4) (gfMul a8 a16)) (gfMul (gfMul a32 a64) (gfMul a64 a64))

/-! ### A stripe (R336, R536) -/

/-- P of the bytes at one place of the 22 data blocks. -/
def parityP (ds : List Byte) : Byte := ds.foldl (· ^^^ ·) 0

/-- Q of those bytes, from block i on. -/
def parityQ : Nat → List Byte → Byte
  | _, [] => 0
  | i, d :: ds => gfShift i d ^^^ parityQ (i + 1) ds

/-- The bytes of a place with the erased blocks' taken as 0. -/
def survivors (es : List Nat) (ds : List Byte) : List Byte :=
  (List.range ds.length).map (fun i => if es.contains i then 0 else nth 0 ds i)

/-- Block `a` as R539 rebuilds it, when the data blocks `es` are erased (in rising order) and P and Q are there or not; none where
three blocks or more are erased. -/
def rebuildBlock (a : Nat) (es : List Nat) (p q : Option Byte) (ds : List Byte) : Option Byte :=
  let sv := survivors es ds
  match es, p, q with
  | [_], some p, _ => some (p ^^^ parityP sv)
  | [x], none, some q => some (gfMul (q ^^^ parityQ 0 sv) (gfInv (gfPow x)))
  | [x, y], some p, some q =>
    let p1 := p ^^^ parityP sv
    let q1 := q ^^^ parityQ 0 sv
    let d := gfMul (q1 ^^^ gfShift x p1) (gfInv (gfPow x ^^^ gfPow y))
    some (if a = y then d else p1 ^^^ d)
  | _, _, _ => none

/-- The channel of a data block of a stripe whose parity lies on channels 2q and 2q + 1. -/
def blockChannel (q i : Nat) : Nat := if i < 2 * q then i else i + 2

/-- The bytes at one place of a stripe's data blocks: row, stripe and offset in the block. -/
def stripeData (s : State) (row st o : Nat) : List Byte :=
  (List.range 22).map (fun i => storeByte s (farBase + row * (48 * 2 ^ 20) + (st * 22 + i) * 4096 + o))

/-- The byte that a read of an erased guarded block is served (R539). -/
def rebuiltByte (s : State) (f : FarSlot) : Option Byte :=
  let ds := stripeData s f.frame (f.offset / 4096) (f.offset % 4096)
  let here (ch : Nat) (v : Byte) : Option Byte := if channelErased s f.frame ch then none else some v
  rebuildBlock f.block ((List.range 22).filter (fun i => channelErased s f.frame (blockChannel f.q i)))
    (here (2 * f.q) (parityP ds)) (here (2 * f.q + 1) (parityQ 0 ds)) ds

end Sys2Proof.Machine
end

