-- ==== Sys2Proof/Safety.lean ====
section
/-! DEFINITION. The terms of the statements: sound states, the thread that issues, the packet that is accepted. -/

namespace Sys2Proof.Machine

/-- The pages shown pending are those whose INT_RAW and INT_MASK make them so (R564, R574). -/
def State.Settled (s : State) : Prop := s.pendingPages = pendingNow s

/-- The store lists rising offsets, none with the byte that an unlisted one reads as. -/
def State.StoreOk (s : State) : Prop := Memory.wf s.store = true

/-- The register table lists rising keys, none with its reset value. -/
def State.RegsOk (s : State) : Prop := Tab.wf regReset s.regs = true

/-- Nothing of a core, of memory or of a register is different. -/
def State.SameMemory (s t : State) : Prop :=
  t.store = s.store ∧ t.sspace = s.sspace ∧ t.cspace = s.cspace ∧ t.ras.poison = s.ras.poison

/-- The registers, the staged values and the pending halves are the same. -/
def State.SameRegisters (s t : State) : Prop := t.regs = s.regs ∧ t.staged = s.staged ∧ t.pendLo = s.pendLo

/-- Thread context `ctx` of a core is the one that issues (R115), and its next word `w` is the control word `op`. -/
def Issues (s : State) (core ctx op w : Nat) : Prop :=
  coreRuns s core = true ∧ issuer s core = some ctx ∧ (thread s core ctx).fetched = some w ∧ wordUnit w = 0 ∧ wordOp w = op

/-- A synchronisation operation of this hub reaches its object: it is the oldest that its requester has on its way there, `rest`
stays on its way, the object exists, its partition is up, and the requester's context may use it (R122, R132). -/
def ReachesObject (s : State) (op : SyncOpKind) (r : SyncReq) (rest : List (SyncOpKind × SyncReq)) : Prop :=
  r.packet = none ∧ takeFirst (fun (e : SyncOpKind × SyncReq) => decide (e.2.who = r.who) && e.2.obj == r.obj) s.sync.flight = some ((op, r), rest) ∧
    ¬(11 < objPart (objName s r.obj) ∨ 6143 < objIndex (objName s r.obj)) ∧ partUp s (objPart (objName s r.obj)) = true ∧
    syncAllowed s r.obj r = true

/-- The state in which such an operation no longer is on its way. -/
def afterReach (s : State) (rest : List (SyncOpKind × SyncReq)) : State := { s with sync := { s.sync with flight := rest } }

/-- An engine with nothing begun and a place free takes up the head `hd` of a queue, a word of operation `op`, and the command it
becomes may start at once (R134, R137, R140). -/
def Starts (s : State) (core unit op : Nat) (hd : Head) : Prop :=
  coreRuns s core = true ∧ undone s core unit op = [] ∧ (engineOf s core unit).held.length < heldLimit unit ∧
    chooseHead s core unit (headsOf s core unit) = some hd ∧ wordOp hd.entry.word = op ∧
    heldCmd (popHead s core unit hd).1 core unit (popHead s core unit hd).2.seq = some (popHead s core unit hd).2 ∧
    canStart (popHead s core unit hd).1 core unit (popHead s core unit hd).2 = true

/-- The command that the head becomes. -/
def startedCmd (s : State) (core unit : Nat) (hd : Head) : Held := (popHead s core unit hd).2

/-- What that command begins from: the head is off its queue, what an acquiring command drops is dropped. -/
def startedRun (s : State) (core unit : Nat) (hd : Head) : Run :=
  runOf (acquireFor (popHead s core unit hd).1 core unit (startedCmd s core unit hd)) core unit (startedCmd s core unit hd)

/-- The search engine's next microword: context `q` is the one that steps, `x` is its state, `h` its command, `w` the word at its pc,
of operation `op` (R166, R213). -/
def Microstep (s : State) (core op q : Nat) (h : Held) (x : QCtx) (w : Uw) : Prop :=
  coreRuns s core = true ∧ readyQ s core = some q ∧ qctxOf s core q = some x ∧ qHeld s core q = some h ∧
    stepWord s core x (streamCtx s h.handle) = some w ∧ w.op = op

/-- The state in which that word acts: its context is the one that stepped last. -/
def stepping (s : State) (core q : Nat) : State := updSearch s core (fun u => { u with lastIssued := q })

/-- The host queue runs, its next command to start is `c` of operation `op`, and its tenant may use the queue's context (R363, R365,
R369). -/
def NextHostCommand (s : State) (q op : Nat) (c : QueueCmd) : Prop :=
  queueRuns s q = true ∧ nextCmd (hostQueue s q) = some c ∧ c.opcode = op ∧ partUp s (hostQueue s q).runningOn = true ∧
    queueTenantOk s q = true

/-- A packet is well formed, of a type, from a hub that is not lost, and not of an old epoch or stale (R448, R449, R456, R525,
R527). -/
def Accepted (s : State) (p : Packet) (ptype : Nat) : Prop :=
  p.ok = true ∧ p.ptype = ptype ∧ ((takeIn s p).fabric.lostHubs.contains p.src = false ∨ 1024 ≤ p.src) ∧
    (p.isRequest = false ∨ (oldEpoch (takeIn s p) p = false ∧ stale (takeIn s p) p = false))

/-- The state in which an accepted packet's meaning begins: the packet has left the switch, its epoch is recorded. -/
def afterDelivery (s : State) (p : Packet) : State := raiseEpoch (takeIn s p) p

/-- A domain message finds the active controller running, an owner, and the hub past start-up (R631). -/
def ServesDomain (s : State) : Prop :=
  nth false s.henyen.running s.henyen.active = true ∧ s.eloan.owned = true ∧ s.startup.phase ≠ .starting

end Sys2Proof.Machine
end

