-- ==== Sys2Proof/Certificates/Slice0/Obligations.lean ====
section
/-! DEFINITION. The statements for the provers, family by family of the command table. -/

open Sys2Proof Sys2Proof.Machine

/-! ### The step -/

/-- A step with a command in front of the queue is that command's meaning on the state with the rest of the queue; with an empty
queue half a nanosecond passes.
The model's choices in it: log entry 3. -/
def Obligations.StepRunsFrontCommand : Prop :=
  (∀ (c : Instr) (rest : List Instr) (s : State), step { s with pending := c :: rest } = exec c { s with pending := rest }) ∧
  (∀ s : State, s.pending = [] →
    step s = .next (settle (settleReceipts (followSupply (countTime (countCycles s))))) ∧ (countTime s).now = s.now + 1 ∧
      (countTime s).tick.phase = s.tick.phase + 1)

/-! ### The tick (ch. 2) -/

/-- OPEN: when an edge is due, the number is latched and the steps of R68 follow in order; the tick is in OPEN.
The model's choices in it: log entries 15, 16. -/
def Obligations.OpenRunsItsStepsInOrder : Prop :=
  ∀ s : State, s.RegsOk → edgeDue s = true →
    tickNumber (latchEdge s) = (s.tick.due.getD (tickNumber s + 1, s.now)).1 % 2 ^ 64 ∧ (latchEdge s).tick.stage = 0 ∧
    (∃ s1 s2 s3 s4 s5 : State,
      s1 = masterMarks (sendRing (latchEdge s) (tickNumber (latchEdge s)) 0) false (tickNumber (latchEdge s)) ∧
      s2 = powerAtOpen (updateAtOpen (commitStep s1)) ∧
      s3 = reevaluate (freeScrubbed (showCaps s2)) ∧
      s4 = requestsAtOpen s3 ∧
      s5 = (List.range s4.ras.logs.length).foldl openSlot s4 ∧
      exec .open_ s = .next (settle (startStep s5)))

/-- WATCH, DEADLINE and CLOSE each come once, at their position in the tick and after the phase before. With A ≥ D (R69) WATCH
switches nothing, and the deadline rule applies at D to the streams that miss it.
The model's choices in it: log entries 1, 16. -/
def Obligations.PhasesFollowTheTick : Prop :=
  (∀ s : State, s.tick.stage = 0 → watchNs s < deadlineNs s → 2 * watchNs s ≤ s.tick.phase →
    ∃ t : State, exec .watch s = .next t ∧ t.tick.stage = 2) ∧
  (∀ s : State, s.tick.stage = 2 → 2 * deadlineNs s ≤ s.tick.phase →
    ∃ t : State, exec .deadline s = .next t ∧ t.tick.stage = 3) ∧
  (∀ s : State, s.tick.stage = 3 → 2 * (period s - 1000) ≤ s.tick.phase →
    ∃ t : State, exec .close s = .next t ∧ t.tick.stage = 4) ∧
  (∀ s : State, deadlineNs s ≤ watchNs s →
    exec .watch s = .next (settle s) ∧
    (s.tick.stage = 0 → 2 * deadlineNs s ≤ s.tick.phase →
      let hs := (s.tick.streams.filter (fun e => misses e.2)).map Prod.fst
      let b := updTick (hs.foldl stallRun s) (fun t => { t with stage := 3 })
      exec .deadline s = .next (settle (if hs.isEmpty then b else raise b tickPage 5)))) ∧
  (∀ s : State, s.tick.stage = 4 → exec .watch s = .next (settle s) ∧ exec .deadline s = .next (settle s) ∧ exec .close s = .next (settle s))

/-- The ring: frames are passed on and time the edge of a follower, a frame that returns is checked, silence loses the source.
The model's choices in it: log entries 17, 18. -/
def Obligations.RingFramesAndTheirReturn : Prop :=
  (∀ (s : State) (f : List Byte), tickFrameOf s f = true → usesRing s = true → s.tick.badCrc = 0 → frameGood f = true →
    sourceOf (frameArrives s f) = 1 →
    exec (.tickFrame f) s = .next (settle (sourceEdge (frameArrives s f) 1 (tapTime s) (frameNumber f) true))) ∧
  (∀ (s : State) (f : List Byte), tickFrameOf s f = true → usesRing s = false →
    exec (.tickFrame f) s = .next (settle (setF (framePassed s f) F.PIN_RING_in_present 0 1))) ∧
  (∀ (s : State) (f : List Byte), tickFrameOf s f = false → usesRing s = true → frameGood f = true → sourceOf s = 1 →
    exec (.beatFrame f) s = .next (settle (sourceBeat (frameArrives s f) 1 (tapTime s) (frameNumber f)))) ∧
  (∀ s : State, ticks s = true → 1000000 < period s → s.tick.phase % 2000000 = 0 → 0 < s.tick.phase / 2 →
    s.tick.phase / 2 + 4000 ≤ period s →
    exec .beatSend s = .next (settle (masterMarks (sendRing s (s.tick.phase / 2) 1) true (s.tick.phase / 2)))) ∧
  (∀ s : State, usesRing s = false →
    exec .ringLost s = .next (settle (raise (setF s F.PIN_RING_in_present 0 0) 608 2))) ∧
  (∀ (s : State) (w : Nat) (rest : List Nat), s.tick.ringSent = w :: rest →
    exec (.ringReturn (some (ringFrame (w / 2) (w % 2)))) s = .next (settle (setF (setF { s with tick := { s.tick with ringSent := rest } }
      F.PIN_RING_return_seen 0 1) F.PIN_RING_return_bad 0 0)) ∧
    exec (.ringReturn none) s = .next (settle (raise (setF (setF { s with tick := { s.tick with ringSent := rest } }
      F.PIN_RING_return_seen 0 0) F.PIN_RING_return_bad 0 1) 608 2))) ∧
  (∀ s : State, getF s F.TICK_CTRL_ring_en 0 = 1 → s.pkg.state = .normal → s.tick.bypassClosed = true → quietGap s = true →
    exec .bypassSwitch s = .next (settle (setF { s with tick := { s.tick with bypassClosed := false } } F.PIN_RING_bypass_closed 0 0)))

/-- The source of edges: its loss leaves holdover, 20 ms without one leave UNLOCKED, a Mark of the parent port is taken; requests
of the management road are queued.
The model's choices in it: log entries 17, 18. -/
def Obligations.SourcesLockAndRequests : Prop :=
  (∀ s : State, s.RegsOk → ownTimer s = false → lockOf s = 1 →
    ∃ t : State, exec .sourceLost s = .next t ∧ lockOf t = 2 ∧ sourceOf t = 0 ∧ t.tick.due = none ∧
      t.tick.noSource = some (s.tick.noSource.getD s.now) ∧ t.tick.holdSince = some (s.tick.holdSince.getD s.now)) ∧
  (∀ (s : State) (t : Nat), s.tick.noSource = some t → t + 40000000 ≤ s.now → sourceOf s = 0 → lockOf s = 2 →
    exec .unlockedTimeout s = .next (settle (raise
      (let b := setF s F.TICK_STATUS_lock 0 0
       { b with tick := { b.tick with holdSince := some (s.tick.holdSince.getD s.now) } }) 4 1))) ∧
  (∀ (s : State) (n : Nat) (p : Packet), Accepted s p ptMark → acceptsMarks (afterDelivery s p) n = true →
    exec (.mark n p) s = .next (settle (markArrives (afterDelivery s p) n (arrivalOf s n p) p))) ∧
  (∀ (s : State) (p : Packet), Accepted s p ptWedge → (setHubs (p.payload.drop 32)).contains (hubId (afterDelivery s p)) = true →
    (afterDelivery s p).tick.wedgeSeen.contains (bits (p.unit 2) 0 32, bits (p.unit 3) 0 64) = false →
    exec (.wedge p) s = .next (settle (wedgeDelivered (spread (afterDelivery s p) p 4 (setHubs (p.payload.drop 32)))
      (bits (p.unit 2) 0 32) (bits (p.unit 3) 0 64) (bits (p.unit 2) 40 10) (bits (p.unit 2) 32 8)))) ∧
  (∀ (s : State) (h : Nat) (x : Stream) (r : StreamRun), h < 8192 → streamOf s h = some x → nextRedo x = some r → x.run = none →
    x.suspended = false → threadsReady s x = true → s.tick.stage ≠ 4 →
    exec (.recomputeStart h) s = .next (settle (launchThreads
      (updStream s h (fun y => { y with
        run := some { r with state := if x.threads.isEmpty then RunState.complete else .running, recovered := true,
                             recomputing := !x.threads.isEmpty, progress := if r.path then r.atWatch else 0 }
        redo := (y.redo.filter (fun q => q.tick != r.tick)) ++ (y.run.toList.filter (fun q => q.state == .recovering && q.tick != r.tick))
        done := y.done ++ y.run.toList.filter (fun q => q.state.over_) }))
      x (if r.path then x.budget.cheaper else x.budget.primary) (if r.path then r.atWatch else 0) r.path))) ∧
  (∀ s : State, s.tick.queue.length < 1024 →
    exec .admGoAdmit s = .next (settle (queueAdmission s (.enter .management 0xFFFF (some (getF s F.TICK_ADM_ADDR_addr 0 * 64)))).1) ∧
    ∀ h : Nat, h < 8192 →
      exec (.admGoWithdraw h) s = .next (settle (queueAdmission s (.withdraw .management 0xFFFF h)).1))
/-! ### Threads and control words (ch. 3) -/

/-- Words that move the program counter: each acts on the issuing thread alone, whose word is consumed (pc + 32). A jump of
displacement d from the word at pc goes to pc + 32·d, in 57 bits.
The model's choices in it: log entry 26. -/
def Obligations.ControlWordsMoveTheThread : Prop :=
  ∀ (s : State) (core ctx w : Nat),
    let t := thread s core ctx
    let c := control w
    let s1 := consumed s core ctx
    let goto_ (a : State) (pc : Nat) := updThread a core ctx (fun t => { t with pc := pc })
    let target := unsigned 57 ((t.pc : Int) + 32 * signed 32 c.disp)
    (Issues s core ctx 0x00 w → exec (.nop core) s = .next (settle s1)) ∧
    (Issues s core ctx 0x02 w → exec (.jump core) s = .next (settle (goto_ s1 target))) ∧
    (Issues s core ctx 0x03 w → (thread s1 core ctx).stack.length < 8 →
      exec (.call core) s = .next (settle (updThread s1 core ctx (fun t => { t with stack := t.pc :: t.stack, pc := target })))) ∧
    (∀ (a : Nat) (rest : List Nat), Issues s core ctx 0x04 w → (thread s1 core ctx).stack = a :: rest →
      exec (.ret core) s = .next (settle (updThread s1 core ctx (fun t => { t with pc := a, stack := rest })))) ∧
    (Issues s core ctx 0x07 w → counter (thread s1 core ctx) c.ra = 0 → exec (.loop core) s = .next (settle s1)) ∧
    (Issues s core ctx 0x07 w → counter (thread s1 core ctx) c.ra ≠ 0 →
      exec (.loop core) s = .next (settle (goto_ (updThread s1 core ctx (fun t => { t with
        counters := setNth t.counters c.ra (BitVec.ofNat 64 ((counter (thread s1 core ctx) c.ra).toNat - 1)) })) target))) ∧
    (Issues s core ctx 0x08 w → brcTest c.cond (brcSource s1 core ctx c.ra) (unsigned 64 (signed 32 c.imm)) = true →
      exec (.brc core) s = .next (settle (goto_ s1 target))) ∧
    (Issues s core ctx 0x08 w → brcTest c.cond (brcSource s1 core ctx c.ra) (unsigned 64 (signed 32 c.imm)) = false →
      exec (.brc core) s = .next (settle s1)) ∧
    (Issues s core ctx 0x01 w → (thread s1 core ctx).held = [] →
      exec (.end_ core) s = .next (settle (checkComplete (updThread s1 core ctx (fun t => { t with state := .ended })) (thread s1 core ctx).handle)))

/-- Words that write a counter, the queues' modes, progress, or wait for queues; an admission request of a thread.
The model's choices in it: log entries 20, 26. -/
def Obligations.ControlWordsSetThreadState : Prop :=
  ∀ (s : State) (core ctx w : Nat),
    let c := control w
    let s1 := consumed s core ctx
    (Issues s core ctx 0x05 w →
      exec (.setc core) s = .next (settle (updThread s1 core ctx (fun t => { t with
        counters := setNth t.counters c.ra (BitVec.ofNat 64 (unsigned 64 (signed 32 c.imm))) })))) ∧
    (Issues s core ctx 0x06 w →
      exec (.addc core) s = .next (settle (updThread s1 core ctx (fun t => { t with
        counters := setNth t.counters c.ra (BitVec.ofNat 64 ((counter (thread s1 core ctx) c.ra).toNat + unsigned 64 (signed 32 c.imm))) })))) ∧
    (Issues s core ctx 0x0C w → drained s1 core ctx (bits c.imm 0 4) = true → exec (.waitq core) s = .next (settle s1)) ∧
    (Issues s core ctx 0x0C w → drained s1 core ctx (bits c.imm 0 4) = false →
      exec (.waitq core) s = .next (settle (updThread s1 core ctx (fun t => { t with state := .waitDrain, drain := bits c.imm 0 4 })))) ∧
    (Issues s core ctx 0x0D w →
      exec (.progress core) s = .next (settle (updRun s1 (thread s1 core ctx).handle (fun r => { r with
        progress := min (2 ^ 32 - 1) (r.progress + c.imm) })))) ∧
    (Issues s core ctx 0x10 w →
      exec (.qmode core) s = .next (settle (updThread s1 core ctx (fun t => { t with
        modes := (List.range 4).map (fun i => if bit c.imm i then bits c.cond 0 2 else nth 0 t.modes i) })))) ∧
    (Issues s core ctx 0x0E w → c.cond = 1 → s.tick.queue.length < 1024 →
      exec (.launch core) s = .next (settle (updThread
        { s1 with tick := { s1.tick with queue := s1.tick.queue ++ [.withdraw (.launch core ctx) (streamCtx s1 (thread s1 core ctx).handle) c.imm] } }
        core ctx (fun t => { t with counters := setNth t.counters c.ra 0 })))) ∧
    (∀ (pa : Nat) (r : Run) (nc : Bool), Issues s core ctx 0x0E w → c.cond ≠ 1 →
      (fetchRun s1 core ctx).translate (c.addr % 2 ^ 57) .rd = (some (pa, nc), r) → r.s.tick.queue.length < 1024 →
      exec (.launch core) s = .next (settle (updThread
        { r.s with tick := { r.s.tick with queue := r.s.tick.queue ++ [.enter (.launch core ctx) (streamCtx s1 (thread s1 core ctx).handle) (some pa)] } }
        core ctx (fun t => { t with counters := setNth t.counters c.ra 0 }))))

/-- BRS, WAIT, SIGNAL and SINIT: the operation leaves under a new tag, and the thread waits for its answer (R121, R131).
The model's choices in it: log entries 26, 29. -/
def Obligations.SyncWordsOpenAnOperation : Prop :=
  ∀ (s : State) (core ctx op w : Nat) (i : Instr), (op, i) ∈ [(0x09, Instr.brs core), (0x0A, Instr.wait core), (0x0B, Instr.signal core), (0x0F, Instr.sinit core)] →
    let c := control w
    let s1 := consumed s core ctx
    let o : OpenSync := { tag := s.sync.nextTag, op := c.op, obj := c.obj, ra := c.ra, cond := c.cond, imm := c.imm, disp := c.disp,
                          timeout := c.timeout, since := s.now, retrying := false, outstanding := true, cancelled := false, answer := none }
    Issues s core ctx op w →
    (badName s1 c.obj = false → objHub c.obj = hubId s1 →
      exec i s = .next (settle (sendOpen (updThread { s1 with sync := { s1.sync with nextTag := s1.sync.nextTag + 1 } } core ctx
        (fun t => { t with state := .waitSync, sync := some o })) core ctx o))) ∧
    (badName s1 c.obj = true →
      exec i s = .next (settle (updThread s1 core ctx (fun t => { t with counters := setNth t.counters c.ra 5 }))))

/-- Fetch, push to an engine, the retry of a push that found its queue full, and the restart on the cheaper list.
The model's choices in it: log entry 27. -/
def Obligations.WordsAreFetchedAndPushed : Prop :=
  (∀ (s : State) (core ctx : Nat) (bs : List Byte) (g : Run), coreRuns s core = true → fetcher s core = some ctx →
    (fetchRun s core ctx).readM (thread s core ctx).pc 32 .fx true = ((bs, false), g) → g.stop = .go → wordOk (leValue bs) = true →
    exec (.commandFetch core) s = .next (settle (updThread (dropInbox (noteFetch g (thread s core ctx).handle) core 0 ctx) core ctx
      (fun t => { t with fetched := some (leValue bs) })))) ∧
  (∀ (s : State) (core ctx w : Nat), coreRuns s core = true → issuer s core = some ctx → (thread s core ctx).fetched = some w →
    wordUnit w ≠ 0 → pushOk (thread s core ctx).counters w = true →
    (queueRoom (thread s core ctx) (wordUnit w) = true →
      exec (.enginePush core) s = .next (settle (acceptPush (updCore s core (fun c => { c with lastIssued := ctx })) core ctx w))) ∧
    (queueRoom (thread s core ctx) (wordUnit w) = false →
      exec (.enginePush core) s = .next (settle (updThread (updCore s core (fun c => { c with lastIssued := ctx })) core ctx
        (fun t => { t with state := .waitQueue, pushing := some w, fetched := none }))))) ∧
  (∀ (s : State) (core ctx w : Nat), (thread s core ctx).pushing = some w → (thread s core ctx).state = .waitQueue → coreRuns s core = true →
    runIssues s (thread s core ctx).handle = true → queueRoom (thread s core ctx) (wordUnit w) = true →
    exec (.queuePushRetry core ctx) s = .next (settle (acceptPush s core ctx w))) ∧
  (∀ (s : State) (core ctx sample : Nat) (x : Stream), (thread s core ctx).switching = some sample →
    streamOf s (thread s core ctx).handle = some x → (thread s core ctx).state = .waitDrain → (thread s core ctx).sync = none →
    drained s core ctx 15 = true →
    exec (.cheaperRestart core ctx) s = .next (settle (updThread s core ctx (fun t => { t with
      state := .run, pc := x.budget.cheaper, counters := List.replicate 8 0, path := true, pr := sample, stack := [],
      switching := none, drain := 0, fetched := none, pushing := none }))))

/-- A command that has ended without an error leaves its queue's held list, signals, adds its progress and may complete the run;
one that runs out of its bound is dropped and its thread faults; a monitored queue head is reported once.
The model's choices in it: log entry 27. -/
def Obligations.CommandsCompleteOrExpire : Prop :=
  (∀ (s : State) (core unit ctx : Nat) (h : Held), oldestHeld s core unit ctx = some h → h.done = true → released s core unit h = true →
    coreRuns s core = true → s.descriptors = [] → h.error = 0 → h.aborted = false → (header h.entry.word).sigEn = false →
    let s1 := sampleDone (stickyFlags (noteDone (dropHeld (dropInbox s core unit h.seq) core unit h.seq) core unit h) core unit h.flags) core unit h 0
    (thread s1 core ctx).state ≠ .faulted →
    exec (.commandComplete core unit ctx) s =
      .next (settle (checkComplete (wakeDrain (addProgress s1 h.handle (header h.entry.word).progInc) core ctx) h.handle))) ∧
  (∀ (s : State) (core unit seq : Nat) (h : Held), heldCmd s core unit seq = some h → h.error = 0 → coreRuns s core = true →
    watched s core unit h = true → boundOf s core h ≤ mostCycles s (s.now - h.popped) → h.aborted = false → unit ≠ 4 →
    let s1 := stopDescriptors (dropHeld (sampleDone (dropInbox s core unit seq) core unit h 2) core unit seq) core seq
    exec (.watchdogExpire core unit seq) s =
      .next (settle (threadFault (updThread s1 core h.ctx (fun t => { t with queues := setNth t.queues (unit - 1) [] }))
        core h.ctx 4 h.entry.pc 0x000A 4 (corePage core) 0 0))) ∧
  (∀ (s : State) (core ctx unit : Nat) (e : QueueEntry) (rest : List QueueEntry),
    nth [] (thread s core ctx).queues (unit - 1) = e :: rest → 0 < unit → e.monitored = false → coreRuns s core = true →
    getF s F.CORE_QMON_limit core * 1024 ≤ mostCycles s (s.now - e.headSince) →
    let s1 := updThread s core ctx (fun t => { t with queues := setNth t.queues (unit - 1) ({ e with monitored := true } :: rest) })
    let s2 := fault (raise s1 (corePage core) 1) (threadInfo s1 core ctx e.pc 0x000D 0 (corePage core))
    exec (.qmonFire core ctx unit) s = .next (settle (tally s2
      { part := partOfCore core, code := 0x25, tids := [tidOf s2 (streamCtx s2 (thread s core ctx).handle)], master := some (unit - 1),
        core := some (core % 32) })))

/-! ### Synchronisation (ch. 3) -/

/-- Operations at their object, by its kind (Table 3.7): each answers its requester, and what it does to the object is stated whole. -/
def Obligations.OperationsAtTheirObject : Prop :=
  ∀ (s : State) (r : SyncReq) (rest : List (SyncOpKind × SyncReq)),
    let o := syncObj s r.obj
    let b := afterReach s rest
    (ReachesObject s .wait r rest → o.kind = .semaphore → o.waiters = [] → r.imm ≤ o.count →
      exec (.syncopWait r) s = .next (settle (answerSync (setObj b r.obj { o with count := o.count - r.imm }) r.obj r.who r.tag 0))) ∧
    (ReachesObject s .wait r rest → o.kind = .lock → o.holder = none → o.waiters = [] → heldBy s r.who < 8 →
      exec (.syncopWait r) s = .next (settle (answerSync (setObj b r.obj { o with holder := some r.who, former := none, abandoned := false }) r.obj r.who r.tag
        (if o.abandoned then 2 else 0)))) ∧
    (ReachesObject s .wait r rest → o.kind = .event → o.isSet = true → o.waiters = [] →
      exec (.syncopWait r) s = .next (settle (answerSync b r.obj r.who r.tag 0))) ∧
    (ReachesObject s .signal r rest → o.kind = .event → r.cond = 1 →
      exec (.syncopSignal r) s = .next (settle (answerSync (setObj b r.obj { o with isSet := false }) r.obj r.who r.tag 0))) ∧
    (ReachesObject s .signal r rest → o.kind = .lock → o.holder ≠ some r.who →
      exec (.syncopSignal r) s = .next (settle (answerSync b r.obj r.who r.tag 3))) ∧
    (ReachesObject s .signal r rest → o.kind = .semaphore → o.waiters = [] → o.count + r.imm < 2 ^ 32 →
      exec (.syncopSignal r) s = .next (settle (answerSync (regrant (setObj b r.obj { o with count := o.count + r.imm }) r.obj) r.obj r.who r.tag 0))) ∧
    (ReachesObject s .sinit r rest → o.waiters ≠ [] → exec (.syncopSinit r) s = .next (settle (answerSync b r.obj r.who r.tag 7))) ∧
    (ReachesObject s .sinit r rest → o.waiters = [] → r.cond ≤ 3 → (r.cond = 1 → 0 < r.imm ∧ r.imm ≤ 65535) → (r.cond = 3 → r.imm ≤ 1) →
      ∃ n : SyncObj, exec (.syncopSinit r) s = .next (settle (answerSync (setObj b r.obj n) r.obj r.who r.tag 0)) ∧
        n.kind = kindOf r.cond ∧ n.abandoned = false ∧ n.overflow = false ∧ n.arrived = 0 ∧ n.generation = 0 ∧ n.holder = none ∧ n.waiters = [] ∧
        (r.cond = 0 → n.count = r.imm % 2 ^ 32) ∧ (r.cond = 1 → n.parties = r.imm) ∧ (r.cond = 3 → n.isSet = decide (r.imm = 1))) ∧
    (ReachesObject s .sample r rest → exec (.syncopSample r) s = .next (settle (answerSync b r.obj r.who r.tag 0))) ∧
    (ReachesObject s .cancel r rest → o.waiters.any (fun w => w.isOf r.who r.tag) = true →
      exec (.syncopCancel r) s = .next (settle (answerSync (removeWaiter b r.obj r.who r.tag) r.obj r.who r.tag 1))) ∧
    (ReachesObject s .abandon r rest → o.kind = .lock → o.holder = some r.who →
      exec (.syncopAbandon r) s = .next (settle (regrant (setObj b r.obj { o with holder := none, former := some r.who, abandoned := true }) r.obj)))

/-- The answer ends the thread's wait and goes to its counter; a wait past its time is cancelled, a refused operation repeated; the
array's readings; a trigger from another hub; caches are flushed and filled.
The model's choices in it: log entries 33, 34. -/
def Obligations.AnswersTimersAndReadings : Prop :=
  (∀ (s : State) (core ctx st w : Nat) (o : OpenSync), (thread s core ctx).sync = some o → o.answer = some (st, w) → o.op = 0x0F →
    exec (.syncAnswer core ctx) s = .next (settle (setCounter (updThread s core ctx (fun t => { t with
      sync := none, state := if t.state = .waitSync then .run else t.state })) core ctx o.ra st))) ∧
  (∀ (s : State) (core ctx : Nat) (o : OpenSync), (thread s core ctx).sync = some o → o.op = 0x0A → 0 < o.timeout → o.cancelled = false →
    o.timeout * 1024 ≤ mostCycles s (s.now - o.since) → o.outstanding = true →
    exec (.waitTimeout core ctx) s = .next (settle (cancelOpen (updThread s core ctx (fun t => { t with sync := some { o with cancelled := true } })) core ctx o))) ∧
  (∀ (s : State) (core ctx : Nat) (o : OpenSync), (thread s core ctx).sync = some o → o.retrying = true → o.outstanding = false → o.answer = none →
    exec (.syncRetry core ctx) s = .next (settle (sendOpen (updThread s core ctx (fun t => { t with
      sync := some { o with retrying := false, outstanding := true } })) core ctx o))) ∧
  (∀ (s : State) (obj : Nat), obj < 73728 → partUp s (obj / 6144) = true →
    exec (.syncStateRead obj) s = .next (settle { s with out := s.out ++ [.word (stateWord s obj)] })) ∧
  (∀ (s : State) (p : Nat), p < 12 → partUp s p = true →
    exec (.syncWaitersClear p) s = .next (settle { s with sync := { s.sync with high := Tab.setC 0 s.sync.high p (waitersIn s p) } })) ∧
  (∀ (s : State) (p : Packet) (e : TriggerEntry) (q : Packet), Accepted s p ptTrigger →
    let a := afterDelivery s p
    let i := bits p.word3 0 8
    let r := takeTrigger a i e p
    storedResult a (triggerPart a i) p.src p.tag = none → (resultsOf a (triggerPart a i)).length < rcSize → a.triggers[i]? = some e →
    e.ringEntries ≠ 0 → (streamOf a e.handle).isSome = true → inGroup a e.callerSet p.src = true →
    answerOf r.2 p ptTrigRes r.1 0 [] = some q →
    exec (.trigger p) s = .next (settle (send (enterResult r.2 (triggerPart a i) p.src p.tag q) q))) ∧
  (∀ (s : State) (core : Nat), pageDown s (corePage core) = false → pageExists s (corePage core) = true →
    exec (.coreFlush core) s = .next (settle (updCore s core (fun c => { c with
      opLines := [], fills := c.fills.map (fun f => { f with stale := true }) })))) ∧
  (∀ (s : State) (core : Nat) (f : Fill) (rest : List Fill), (coreOf s core).fills = f :: rest →
    (f.stale = true → exec (.operandFill core) s = .next (settle (updCore s core (fun c => { c with fills := rest })))) ∧
    (f.stale = false → (coreOf s core).opLines = [] →
      exec (.operandFill core) s = .next (settle (updCore s core (fun c => { c with fills := rest, opLines := [f.line] })))))
/-! ### Engines: tensors, vectors, search, moves (ch. 4 to 6, 8, 9) -/

/-- A word at the head of an engine's queue is taken up and carried out, in the engine of its unit code and in the way of its own
operation: what the operation reads at its start is latched, its work is done from there, and the run is accounted.
The model's choices in it: log entries 30, 31. -/
def Obligations.EngineWordsAreCarriedOut : Prop :=
  ∀ (s : State) (core unit op : Nat) (hd : Head) (i : Instr) (b : Body),
    (unit, op, i, b) ∈ [(1, 0x01, Instr.mma core, { pre := mmaPre, main := mmaMain }),
      (2, 0x01, .vmap core, { pre := noPre, main := vmapMain }), (2, 0x02, .vbin core, { pre := noPre, main := vbinMain }),
      (2, 0x03, .vred core, { pre := noPre, main := vredMain }), (2, 0x04, .vqnt core, { pre := noPre, main := vqntMain }),
      (2, 0x05, .padd core, { pre := noPre, main := paddMain }), (2, 0x06, .pcvt core, { pre := noPre, main := pcvtMain }),
      (2, 0x07, .vdq core, { pre := noPre, main := vdqMain })] →
    Starts s core unit op hd →
    let h := startedCmd s core unit hd
    let p := b.pre h (startedRun s core unit hd)
    (p.2.going = true →
      exec i s = .next (settle (finishRun (b.main { h with latch := some p.1 } (p.2.commit h (fun x => { x with latch := some p.1 })))
        { h with latch := some p.1 }))) ∧
    (p.2.going = false → exec i s = .next (settle (finishRun p.2 h)))

/-- The vector engine's arithmetic words write one result per element, in order, from the values read, in the output format, after
which they have run 16 clocks and one more for each group of elements the engine takes at a time.
The model's choices in it: log entries 30, 35. -/
def Obligations.VectorWordsWriteTheirElements : Prop :=
  ∀ (h : Held) (r : Run),
    let w := veWord h
    mxCountOk w = true →
    (vmapMain h r =
      (let g := veRead r w.src1 w.fin w.count
       let out := g.1.map (fun x => match vmapFn w.fn x.1 with
         | some y => ((veOut w.fout w.sat (bit x.2 5) y).1, (veOut w.fout w.sat (bit x.2 5) y).2 ||| x.2)
         | none => (0, 0))
       veEnd ((veWrite g.2 w.dst w.fout (out.map Prod.fst)).flag (out.foldl (fun a o => a ||| o.2) 0))
         (16 + ceilDiv w.count (veRate 1 w.fn w.fin w.fout)) w.fen (bits w.src2 0 21))) ∧
    (bit w.fn 7 = false → vbinMain h r =
      (let a := veRead r w.src1 w.fin w.count
       let b := veRead a.2 (veSrc2 h) w.fin w.count
       let out := (List.range w.count).map (fun i =>
         match vbinFn (w.fn % 128) (nth (.nan, 0) a.1 i).1 (nth (.nan, 0) b.1 i).1 with
         | some z =>
           let fl := (nth (.nan, 0) a.1 i).2 ||| (nth (.nan, 0) b.1 i).2
           ((veOut w.fout w.sat (bit fl 5) z).1, (veOut w.fout w.sat (bit fl 5) z).2 ||| (nth (.nan, 0) a.1 i).2 ||| (nth (.nan, 0) b.1 i).2)
         | none => (0, 0))
       veEnd ((veWrite b.2 w.dst w.fout (out.map Prod.fst)).flag (out.foldl (fun a o => a ||| o.2) 0))
         (16 + ceilDiv w.count (veRate 2 w.fn w.fin w.fout)) false 0))

/-- The search engine: a chosen SLOAD waits for every context to be free; a search word is popped into the lowest free context; the
insertion unit takes the oldest candidate into its list; a flush empties the cluster's bitmap cache.
The model's choices in it: log entries 37, 38. -/
def Obligations.SearchWordsAndInsertions : Prop :=
  (∀ (s : State) (core ctx : Nat) (hd : Head), coreRuns s core = true → sloadHeld s core = none → (searchOf s core).chosen = some ctx →
    chosenHead s core = some hd → (searchOf s core).qctxs = [] →
    exec (.sload core) s = .next (settle (trySload
      (updSearch (popHead s core 3 hd).1 core (fun u => { u with qctxs := Tab.insert u.qctxs 0 (QCtx.taken (popHead s core 3 hd).2.seq 0 false) }))
      core (popHead s core 3 hd).2))) ∧
  (∀ (s : State) (core op q : Nat) (hd : Head) (x : QCtx) (i : Instr) (begin_ : State → Nat → Nat → Held → QCtx → State),
    (op, i, begin_) ∈ [(2, Instr.scan core, beginSearch), (3, .gprobe core, beginSearch), (4, .kmerge core, beginMerge)] →
    coreRuns s core = true → stillQ s core op = [] → sloadChosen s core = false → freeQctx s core = some q →
    chooseHead s core 3 (headsOf s core 3) = some hd → wordOp hd.entry.word = op →
    let h := (popHead s core 3 hd).2
    let s1 := updSearch (popHead s core 3 hd).1 core (fun u => { u with qctxs := Tab.insert u.qctxs q (QCtx.taken h.seq 0 (op == 3)) })
    readRecords s1 core h = .ok x → exec i s = .next (settle (startSearch (updQ s1 core q (fun _ => x)) core q begin_))) ∧
  (∀ (s : State) (core : Nat) (c : Insert) (rest : List Insert) (x : QCtx), coreRuns s core = true → (searchOf s core).inserts = c :: rest →
    let s1 := updSearch s core (fun u => { u with inserts := rest })
    qctxOf s1 core c.qctx = some x →
    let new := insertRec x.desc.k (recsOf s1 core x.desc.topk x.listed) { id := c.id, key := c.key, expanded := false, reranked := c.reranked }
    let s2 := updQ (writeRecs s1 core x.desc.topk new) core c.qctx (fun y => { y with listed := new.length })
    exec (.candidateInsert core) s = .next (settle (((searchOf s2 core).qctxs.map Prod.fst).foldl (fun a q => afterInsert a core q) s2))) ∧
  (∀ (s : State) (cluster : Nat), cluster < 24 → pageDown s (F.SE_BMC_CTRL_flush.page + cluster) = false →
    pageExists s (F.SE_BMC_CTRL_flush.page + cluster) = true →
    exec (.seBmcFlush cluster) s = .next (settle (raise { s with bitmaps := Tab.setC [] s.bitmaps cluster [] } (F.SE_BMC_CTRL_flush.page + cluster) 0)))

/-- A list kept in the canonical order stays in it when a candidate is inserted, holds at most k records, and holds the new record
unless k better ones keep it out. -/
def Obligations.InsertionKeepsTheOrder : Prop :=
  ∀ (k : Nat) (rs : List Rec) (r : Rec), inOrder rs = true →
    inOrder (insertRec k rs r) = true ∧ (insertRec k rs r).length = min k (rs.length + 1) ∧
      (∀ x ∈ insertRec k rs r, x = r ∨ x ∈ rs) ∧
      (r ∉ insertRec k rs r → ∀ x ∈ insertRec k rs r, r.before x = false)

/-- The integer microwords: each steps its context and writes the register it names, in 64 bits. -/
def Obligations.ScalarMicrowords : Prop :=
  ∀ (s : State) (core q : Nat) (h : Held) (x : QCtx) (w : Uw),
    let t := stepping s core q
    let next (v : Nat) := settle (updQ t core q (fun x => { x with sregs := setNth x.sregs w.d (BitVec.ofNat 64 v), pc := x.pc + 1 }))
    let a := sreg x w.a
    let b := sreg x w.b
    let imm := unsigned 64 (signed 32 w.imm)
    let fa := val32 (a % 2 ^ 32)
    let fb := val32 (b % 2 ^ 32)
    (Microstep s core 0x20 q h x w → exec (.rsum core) s = .next (next (unsigned 64 (x.acc.map BitVec.toInt).sum))) ∧
    (Microstep s core 0x30 q h x w → exec (.smov core) s = .next (next imm)) ∧
    (Microstep s core 0x31 q h x w → exec (.sadd core) s = .next (next (a + b))) ∧
    (Microstep s core 0x32 q h x w → exec (.ssub core) s = .next (next (a + 2 ^ 64 - b))) ∧
    (Microstep s core 0x33 q h x w → exec (.smul core) s = .next (next (a * b))) ∧
    (Microstep s core 0x34 q h x w → exec (.sneg core) s = .next (next (2 ^ 64 - a))) ∧
    (Microstep s core 0x35 q h x w → exec (.saddi core) s = .next (next (a + imm))) ∧
    (Microstep s core 0x38 q h x w → exec (.fcvt core) s = .next (next (fpBits (.fin (decide (signed 64 a < 0)) (signed 64 a).natAbs 0)))) ∧
    (Microstep s core 0x39 q h x w → exec (.fmul core) s = .next (next (fpBits (fa.mul fb)))) ∧
    (Microstep s core 0x3A q h x w → exec (.fadd core) s = .next (next (fpBits (fa.add fb)))) ∧
    (Microstep s core 0x3B q h x w → exec (.frsq core) s = .next (next (fpBits (vRsqrt (fa, 0)).1))) ∧
    (Microstep s core 0x3C q h x w → exec (.fneg core) s = .next (next ((a % 2 ^ 32) ^^^ 0x80000000))) ∧
    (Microstep s core 0x41 q h x w →
      let at_ : Int := x.desc.aux + signed 32 w.imm + signed 64 b
      0 ≤ at_ → at_ + 2 ≤ 2 ^ 21 →
      exec (.sth core) s = .next (settle (updQ (sWrite t core at_.toNat
        (leBytes 2 (max 0 (min 65535 (signed 64 a))).toNat)) core q (fun x => { x with pc := x.pc + 1 }))))

/-- The microwords of control and of a candidate's end. -/
def Obligations.MicrowordsOfControlAndEmission : Prop :=
  ∀ (s : State) (core q : Nat) (h : Held) (x : QCtx) (w : Uw),
    let t := stepping s core q
    let goto_ (a : Nat) := settle (updQ t core q (fun x => { x with pc := a }))
    let step_ := settle (updQ t core q (fun x => { x with pc := x.pc + 1 }))
    (Microstep s core 0x00 q h x w → exec (.ucNop core) s = .next step_) ∧
    (Microstep s core 0x01 q h x w → exec (.ucJmp core) s = .next (goto_ w.tgt)) ∧
    (Microstep s core 0x02 q h x w → exec (.br core) s = .next (if brCond w (sreg x w.a) then goto_ w.tgt else step_)) ∧
    (Microstep s core 0x03 q h x w → x.inPrologue = false →
      exec (.emiti core) s = .next (settle (emitKey t core q h x
        (some (unsigned 32 (max (-(2 ^ 31)) (min (2 ^ 31 - 1) (signed 64 (sreg x w.a)))) ^^^ 0x80000000))))) ∧
    (Microstep s core 0x04 q h x w → x.inPrologue = false →
      exec (.emitf core) s = .next (settle (emitKey t core q h x (keyFp (sreg x w.a))))) ∧
    (Microstep s core 0x05 q h x w → x.inPrologue = true →
      exec (.ucRet core) s = .next (settle (nextCandidate (updQ t core q (fun y => { y with inPrologue := false })) core q))) ∧
    (Microstep s core 0x06 q h x w → x.inPrologue = false →
      exec (.skip core) s = .next (settle (nextCandidate (updQ t core q (fun y => { y with vec := [] })) core q)))

/-- The vector microwords: with the bytes of the two sources readable and not poisoned, lane j grows by the terms at its positions; the
weighted form scales them, the table form looks them up, the clearing word empties the lanes; the context steps on.
The model's choices in it: log entry 36. -/
def Obligations.VectorMicrowords : Prop :=
  (
    ∀ (s : State) (core q : Nat) (h : Held) (x : QCtx) (w : Uw) (op : Nat) (i : Instr) (shift : Nat) (term : Byte → Byte → Int) (as bs : List Byte),
      let t := stepping s core q
      let el (b : Byte) : Int := if w.et = 0 then b.toInt else (b.toNat : Int)
      let n := vecLen w x.desc.vlen
      (op, i, shift, term) ∈ [(0x10, Instr.vdot core, 0, fun a b => el a * el b),
        (0x11, .vsqd core, 0, fun a b => (el a - el b) * (el a - el b)),
        (0x12, .vabsd core, 0, fun a b => ((el a - el b).natAbs : Int)),
        (0x14, .vxpop core, 0, fun a b => (popcount (a ^^^ b).toNat : Int)),
        (0x17, .vsqdx core, sreg x w.b, fun a b => (el a - el b) * (el a - el b))] →
      Microstep s core op q h x w → x.vec.isEmpty = false →
      vecBytes t core x w.vs w.off n = some (as, false) → vecBytes t core x w.vt ((w.off + shift) % 2 ^ 64) n = some (bs, false) →
      let r := addLanes t x.acc ((List.range n).map (fun i =>
        if (w.vt == 0 && decide (x.desc.vlen ≤ (w.off + shift) % 2 ^ 64 + i)) = true then 0 else term (nth 0 as i) (nth 0 bs i)))
      exec i s = .next (settle (updQ r.2 core q (fun y => { y with acc := r.1, pc := y.pc + 1 })))) ∧
  (
    ∀ (s : State) (core q : Nat) (h : Held) (x : QCtx) (w : Uw),
      let t := stepping s core q
      let el (b : Byte) : Int := if w.et = 0 then b.toInt else (b.toNat : Int)
      let n := vecLen w x.desc.vlen
      (∀ as bs cs : List Byte, Microstep s core 0x13 q h x w → x.vec.isEmpty = false → w.vt ≠ 0 →
        vecBytes t core x w.vs w.off n = some (as, false) → vecBytes t core x w.vt (w.off % 2 ^ 64) n = some (bs, false) →
        vecBytes t core x 2 w.off n = some (cs, false) →
        let r := addLanes t x.acc ((List.range n).map (fun i =>
          ((nth 0 cs i).toNat : Int) * ((el (nth 0 as i) - el (nth 0 bs i)).natAbs : Int)))
        exec (.vwabsd core) s = .next (settle (updQ r.2 core q (fun y => { y with acc := r.1, pc := y.pc + 1 })))) ∧
      (∀ as : List Byte, Microstep s core 0x15 q h x w → x.vec.isEmpty = false → vecBytes t core x w.vs w.off n = some (as, false) →
        let cell (i : Nat) := x.desc.aux + (256 * i + (nth 0 as i).toNat) * 2
        (∀ i, i < n → cell i + 2 ≤ 2 ^ 21 ∧ sPoisoned t core (cell i) 2 = false) →
        let r := addLanes t x.acc ((List.range n).map (fun i => (sNum t core (cell i) 2 : Int)))
        exec (.vlut core) s = .next (settle (updQ r.2 core q (fun y => { y with acc := r.1, pc := y.pc + 1 })))) ∧
      (Microstep s core 0x16 q h x w →
        exec (.vclr core) s = .next (settle (updQ t core q (fun y => { y with acc := List.replicate 64 0, pc := y.pc + 1 })))))

/-- The move engine takes up its words: moves, fabric atomics and triggers, layers of a program and their end. A HAUL needs its
entry or a free one, a HAUL_DROP waits for a running HAUL of its program.
The model's choices in it: log entry 30. -/
def Obligations.MoveWordsAreCarriedOut : Prop :=
  ∀ (s : State) (core op : Nat) (hd : Head) (i : Instr) (b : Body),
    (op, i, b) ∈ [(0x01, Instr.copy core, { pre := movePre, main := moveMain }), (0x02, .gather core, { pre := movePre, main := moveMain }),
      (0x03, .scatter core, { pre := movePre, main := moveMain }), (0x10, .fatom core, { pre := fatomPre, main := fatomMain }),
      (0x11, .ftrig core, { pre := ftrigPre, main := ftrigMain }), (0x30, .haul core, { pre := haulPre, main := haulMain }),
      (0x31, .haulDrop core, { pre := fun _ r => ([[]], r), main := dropMain })] →
    Starts s core 4 op hd → (headsOf s core 4).all (mayPopMe core s) = true →
    let h := startedCmd s core 4 hd
    let p := b.pre h (startedRun s core 4 hd)
    (p.2.going = true →
      exec i s = .next (settle (finishRun (b.main { h with latch := some p.1 } (p.2.commit h (fun x => { x with latch := some p.1 })))
        { h with latch := some p.1 }))) ∧
    (p.2.going = false → exec i s = .next (settle (finishRun p.2 h)))

/-- What the move engine does on its own: pieces are submitted and land, a layer whose pieces have landed is tagged and signalled, a
refill follows a partition's return. A pool request finds the unit idle and is served; one that finds it busy is lost and said so.
The model's choices in it: log entries 39, 44. -/
def Obligations.TransfersAndPools : Prop :=
  (
    (∀ (s : State) (core : Nat), coreRuns s core = true →
      exec (.descriptorSubmit core) s = .next (settle
        (((engineOf s core 4).held.filterMap (fun h => if h.latch.isSome then some (h.seq, wordOp h.entry.word) else none)).foldl (fun a q =>
          let b := landFor a core q.1
          if carriedOut b core 4 q.1 then b else tryCommand b core 4 q.1 (meBody q.2)) s))) ∧
    (∀ (s : State) (n : Nat) (x : HaulRun) (e : HaulEntry) (h : Held), s.haulRuns.find? (fun x => x.entry == n) = some x →
      Tab.find? s.haul n = some e → heldCmd s x.core 4 x.seq = some h → h.error = 0 → x.granted = true → isResident s x = true →
      e.missed = [] →
      let s1 := updEntry s n (fun e => { e with tags := setNth e.tags (x.layer % e.slots) (some (x.layer, e.gen)), next := x.layer + 1 })
      let s2 := checkLate (completionSignal s1 x.core x.ctx h.entry.pc x.fullObj) h x
      (x.layer = x.last ∨ x.stopping = true → exec (.layerLand n) s = .next (settle (endHaul s2 x.core x.seq))) ∧
      (x.layer ≠ x.last → x.stopping = false → exec (.layerLand n) s = .next (settle
        (updHeld (updHaul s2 x.core x.seq (fun y => { y with layer := y.layer + 1, asked := false, granted := false })) x.core 4 x.seq
          (fun y => { y with latch := some [[]], pos := 0 }))))) ∧
    (∀ (s : State) (part n w : Nat) (e : HaulEntry), s.haul = [(n, e)] → e.missed = [w] → refillDue s e (some part) w = true →
      let a := (refillLine s e w).1
      let b := updEntry a n (fun e => { e with missed := e.missed.filter (fun m => m != w) })
      (refillLine s e w).2 = true → b.haul.any (fun p => p.2.missed.any (refillDue b p.2 (some part))) = false →
      exec (.haulRefill part) s = .next (settle (raise b haulPage 2)))) ∧
  (
    ∀ (s : State) (region pmask frames : Nat),
      let place_ : PoolReq := { place := true, region := region % 4096, pmask := pmask % 4096, frames := frames % 2 ^ 28 }
      let free_ : PoolReq := { place := false, region := region % 4096, pmask := 0, frames := frames % 2 ^ 28 }
      (getF s F.HUB_POOL_RESULT_busy 0 = 0 →
        exec (.poolPlace region pmask frames) s = .next (settle (placePool (setF s F.HUB_POOL_RESULT_busy 0 1) place_)) ∧
        exec (.poolFree region frames) s = .next (settle (freePool (setF s F.HUB_POOL_RESULT_busy 0 1) free_))) ∧
      (getF s F.HUB_POOL_RESULT_busy 0 = 1 →
        exec (.poolPlace region pmask frames) s = .next (settle (raise (setF s F.HUB_POOL_RESULT_lost 0 1) poolPage 3)) ∧
        exec (.poolFree region frames) s = .next (settle (raise (setF s F.HUB_POOL_RESULT_lost 0 1) poolPage 3))))

/-! ### Translation and regions (ch. 9, 10) -/

/-- An operation of the translation unit begins only when none is running, and says which it lost; a load takes the descriptor of the
context, an unload empties it, an invalidation leaves its scope; it ends when nothing of its scope is in use, a waiting epoch grows
by 1, a drain is watched and reported, a page walk fills the caches of its core and partition.
The model's choices in it: log entry 41. -/
def Obligations.TranslationUnit : Prop :=
  (
    ∀ (s : State) (c : Nat) (bump : Bool),
      (∀ i ∈ [Instr.load c, .unload c, .invRange c bump, .invCtx c bump, .invAll bump], s.xlt.busy.isSome = true →
        exec i s = .next (settle (raise (setF s F.XLT_CTX_RESULT_lost 0 1) xltPage 2))) ∧
      (s.xlt.busy = none →
        (∀ d : List Byte, hubRead s (getF s F.XLT_CTX_BASE_addr 0 * 2 ^ 21 + 512 * c) 512 = some d → descOk s d = true →
          exec (.load c) s = .next (settle (bumpEpoch (openOp (invalidate
            (rebind (updContext s c (fun x => contextOf d x.epoch)) c (Config.hash d)) (.ctx c)) c (some c)) c))) ∧
        (∀ d : List Byte, hubRead s (getF s F.XLT_CTX_BASE_addr 0 * 2 ^ 21 + 512 * c) 512 = some d → descOk s d = false →
          exec (.load c) s = .next (settle (endOp s c 1))) ∧
        (contextInUse s c = false →
          exec (.unload c) s = .next (settle (bumpEpoch (openOp (invalidate
            (updContext s c (fun x => { Context.empty with epoch := x.epoch })) (.ctx c)) c (some c)) c))) ∧
        (contextInUse s c = true → exec (.unload c) s = .next (settle (endOp s c 2))) ∧
        exec (.invRange c bump) s = .next (settle
          (let t := openOp (invalidate s (.range c (getF s F.XLT_INV_VA_va 0 * 4096) (getF s F.XLT_INV_PAGES_pages 0 * 4096))) c (some c)
           if bump then bumpEpoch t c else t)) ∧
        exec (.invCtx c bump) s = .next (settle (let t := openOp (invalidate s (.ctx c)) c (some c); if bump then bumpEpoch t c else t)) ∧
        exec (.invAll bump) s = .next (settle (let t := openOp (invalidate s .all) 0 none; if bump then bumpAll t else t)))) ∧
  (
    (∀ (s : State) (scope : Option Nat), s.xlt.busy = some scope → contextBusy s scope = false → s.xlt.heldBumps = [] →
      exec .invalidationDone s = .next (settle (raise (setF { s with xlt := { s.xlt with busy := none } } F.XLT_CTX_RESULT_busy 0 0) xltPage 0))) ∧
    (∀ (s : State) (c : Nat), s.xlt.heldBumps.contains c = true → bumpWaits s c = false →
      exec (.epochIncrement c) s = .next (settle (updContext { s with xlt := { s.xlt with heldBumps := s.xlt.heldBumps.erase c } } c
        (fun x => { x with epoch := (x.epoch + 1) % 2 ^ 32 })))) ∧
    (∀ (s : State) (c : Nat), exec (.xltDrain c) s = .next (settle
      (setF (setF (setF s F.XLT_DRAIN_STATUS_armed 0 1) F.XLT_DRAIN_STATUS_context 0 c) F.XLT_DRAIN_STATUS_target 0 (context s c).epoch))) ∧
    (∀ s : State, watchDone s = true →
      exec .drainDone s = .next (settle (raise (setF (setF s F.XLT_DRAIN_STATUS_armed 0 0) F.XLT_DRAIN_STATUS_done 0 1) xltPage 1))) ∧
    (∀ (s : State) (core : Nat) (w : Walk) (rest : List Walk), takeFirst (fun w => w.core == core) s.xlt.walks = some (w, rest) →
      w.stale = false → partUp s (partOfCore core) = true →
      exec (.walkComplete core) s = .next (settle (fillPart (fillCore
        (addWrapF { s with xlt := { s.xlt with walks := rest } } F.XLT_WALKS_walks 0 1) core w.entry) (partOfCore core) w.entry))))

/-- Region operations: refused while one runs; a region with frames keeps its key, guard and hint; a change that ends line sharing
recalls first; a region with frames is not freed; a share group takes its bitmap from memory.
The model's choices in it: log entry 56. -/
def Obligations.RegionOperations : Prop :=
  ∀ (s : State) (r : Nat), r < 4096 →
    (∀ i ∈ [Instr.set_ r, .free r, .rgnRead r, .shgSync r], getF s F.HUB_RGN_RESULT_busy 0 = 1 →
      exec i s = .next (settle (raise (setF s F.HUB_RGN_RESULT_lost 0 1) rgnPage 1))) ∧
    (getF s F.HUB_RGN_RESULT_busy 0 = 0 →
      let e := BitVec.ofNat 64 (getF s F.HUB_RGN_ENTRY_entry 0)
      let old := regionEntry s r
      (rgnValid e = true → badEntry s e = true → exec (.set_ r) s = .next (settle (endRegionOp s 2))) ∧
      (rgnValid e = true → badEntry s e = false → hasFrames s r = true →
        (rgnKey e ≠ rgnKey old ∨ rgnGuard e ≠ rgnGuard old ∨ rgnHint e ≠ rgnHint old) →
        exec (.set_ r) s = .next (settle (endRegionOp s 1))) ∧
      (rgnValid e = true → badEntry s e = false → hasFrames s r = false → hasLeases s r = false → rgnValid old = false →
        exec (.set_ r) s = .next (settle (endRegionOp (setRegion s r e) 0))) ∧
      (hasFrames s r = true → exec (.free r) s = .next (settle (endRegionOp s 1))) ∧
      (hasFrames s r = false →
        exec (.free r) s = .next (settle (endRegionOp (setRegion s r (BitVec.ofNat 64 (old.toNat - old.toNat % 2))) 0))) ∧
      exec (.rgnRead r) s = .next (settle (endRegionOp (setF s F.HUB_RGN_ENTRY_entry 0 old.toNat) 0)) ∧
      (∀ bs : List Byte, hubRead s (getF s F.HUB_SHG_BASE_addr 0 * 4096 + 512 * r) 512 = some bs →
        (List.range 4096).filter (fun a => bit (Tab.getC 0 s.regions.groups r) a && !bit (leValue bs) a) = [] →
        exec (.shgSync r) s = .next (settle (endRegionOp (setGroup s r (leValue bs)) 0))))

/-! ### Host links and queues (ch. 10) -/

/-- A host link comes up, leaves and regains L0, and is lost; its interfaces' states follow; its map is forgotten on request. A CXL.mem
request passes through the host map: an unmapped or read-only page refuses it by its cause, a mapped one gives the line that is
asked of its home.
The model's choices in it: log entries 46, 47. -/
def Obligations.HostLinks : Prop :=
  (
    (∀ (s : State) (l width rate : Nat) (memBi : Bool), l < 16 → linkExists (takeSplit s (l / 2)) l = true → linkIdle (takeSplit s (l / 2)) l = true →
      width ∈ [1, 2, 4, 8, 16] → width ≤ (if portSplit (takeSplit s (l / 2)) (l / 2) then 8 else 16) → rate ≤ 3 →
      exec (.hostLinkUp l width rate true memBi) s = .next (settle (setL (setL (takeSplit s (l / 2)) F.HPORT_LINK_STATUS_no_flit l 1)
        F.HPORT_LINK_STATUS_state l 0)) ∧
      ∃ t : State, exec (.hostLinkUp l width rate false memBi) s = .next (settle (raise (queuesFresh { t with hosts := Tab.erase t.hosts l } l)
        (hportPage l) (2 * (l % 2)))) ∧ t.hosts = s.hosts ∧ t.queues = s.queues) ∧
    (∀ (s : State) (l : Nat), getL s F.HPORT_LINK_STATUS_state l = 2 → linkOut s l = false →
      exec (.hostLinkL0Exit l) s = .next (settle (updHost s l (fun x => { x with outOfL0 := some s.now })))) ∧
    (∀ (s : State) (l : Nat), linkOut s l = true →
      exec (.hostLinkL0Return l) s = .next (settle (setL (updHost s l (fun x => { x with outOfL0 := none })) F.HPORT_LINK_STATUS_state l 2))) ∧
    (∀ (s : State) (l t : Nat), (hostLink s l).outOfL0 = some t → t + 2000 * getF s F.HPORT_CFG_loss_us (l / 2) ≤ s.now →
      exec (.hostLinkLossTimeout l) s = .next (settle (hostLinkLost s l))) ∧
    (∀ (s : State) (q : Nat), q < 8 → ∀ i ∈ [Instr.presenceLost q, .perst q], exec i s = .next (settle (cutLink (cutLink s (2 * q)) (2 * q + 1)))) ∧
    (∀ (s : State) (l : Nat), linkIdle s l = false → getL s F.HPORT_LINK_STATUS_ide l = 1 →
      exec (.ideFailure l) s = .next (settle (hostLinkLost (raise s (hportPage l) 4) l))) ∧
    (∀ (s : State) (q : Nat), q < 8 →
      exec (.hostRetrain q) s = .next (settle (takeSplit (retrainLink (retrainLink s (2 * q)) (2 * q + 1)) q))) ∧
    (∀ (s : State) (l : Nat), linkExists s l = true → (hostLink s l).invalidating = none →
      exec (.mapInvalidate l) s = .next (settle (setL (updHost s l (fun x => { x with
        mapCache := [], invalidating := some (openTags s (linkAgent s l)) })) F.HPORT_LINK_MAPINV_go l 1))) ∧
    (∀ (s : State) (l : Nat) (ts : List Nat), (hostLink s l).invalidating = some ts → (openTags s (linkAgent s l)).any ts.contains = false →
      exec (.mapinvDone l) s = .next (settle (raise (setL (updHost s l (fun x => { x with invalidating := none }))
        F.HPORT_LINK_MAPINV_go l 0) (hportPage l) 6)))) ∧
  (
    ∀ (s : State) (l : Nat) (op : CxlOp) (dpa tag : Nat) (data : List Byte) (mask : Nat) (poison : Bool), memCarries s l = true →
      let i := Instr.cxlMemRequest l op dpa tag data mask poison
      let a := linkAgent s l
      (op = .other → exec i s = .next (settle (hostAccessError s a tag 9 true))) ∧
      (op ≠ .other → getL s F.HPORT_LINK_STATUS_mem l = 0 → exec i s = .next (settle (hostAccessError s a tag 8 (cxlReads op)))) ∧
      (op ≠ .other → getL s F.HPORT_LINK_STATUS_mem l = 1 → getL s F.HPORT_LINK_DPA_entries l ≤ dpa / 2 ^ 21 →
        exec i s = .next (settle (hostAccessError s a tag 1 (cxlReads op)))) ∧
      (∀ (e : Nat) (b : State), op ≠ .other → getL s F.HPORT_LINK_STATUS_mem l = 1 → dpa / 2 ^ 21 < getL s F.HPORT_LINK_DPA_entries l →
        mapEntry s l (dpa / 2 ^ 21) = (some e, b) →
        (bit e 0 = false → exec i s = .next (settle (hostAccessError b a tag 1 (cxlReads op)))) ∧
        (bit e 0 = true → bit e 1 = true → cxlWrites op = true → exec i s = .next (settle (hostAccessError b a tag 2 (cxlReads op)))) ∧
        (bit e 0 = true → (bit e 1 = false ∨ cxlWrites op = false) →
          exec i s = .next (settle (mappedLine b l op (bits e 21 36 * 2 ^ 21 + dpa % 2 ^ 21 / 64 * 64) tag data mask poison)))))

/-- Queues: doorbells, the fetch of an entry, the reset, the interface's states, and the completion that is written back.
The model's choices in it: log entries 50, 51. -/
def Obligations.HostQueueRings : Prop :=
  (∀ (s : State) (q n : Nat), hostWrites s q = true →
    exec (.sqTail q n) s = .next (settle (updQueue s q (fun y => { y with tail := n % 4096 % 2 ^ y.sqLog }))) ∧
    exec (.cqHead q n) s = .next (settle (updQueue s q (fun y => { y with cqHead := n % 4096 % 2 ^ y.cqLog })))) ∧
  (∀ (s : State) (q : Nat) (d : List Byte), d.length = 64 → entryOk d = true →
    let b := settleQueue s q
    let y := hostQueue b q
    queueRuns b q = true → y.enable = true → y.head ≠ y.tail → y.cmds.length < 16 →
    exec (.queueFetch q d) s = .next (settle (updQueue b q (fun z => { z with
      head := (y.head + 1) % 2 ^ y.sqLog
      cmds := z.cmds ++ [{ opcode := field d 0 2, cid := field d 2 2, fence := bit (field d 4 1) 0, irq := bit (field d 4 1) 1,
                           arg0 := field d 8 8, arg1 := field d 0x10 8, arg2 := field d 0x18 8, headAfter := (y.head + 1) % 2 ^ y.sqLog,
                           started := false, waiting := false, since := b.now, cancelled := false, complete := none, doneAt := b.now }] })))) ∧
  (∀ (s : State) (q : Nat), q < 1024 → (hostQueue (dropQueueWork s q) q).tdisp ≠ .error →
    exec (.queueReset q) s = .next (settle (updQueue (dropQueueWork s q) q (fun y => { y.cleared with stopping := false })))) ∧
  (∀ (s : State) (q : Nat), q < 1024 → (hostQueue s q).tdisp = .unlocked →
    exec (.lockInterface q) s = .next (settle (settleQueue (updQueue s q (fun y => { y with
      tdisp := .locked, latched := some (rawReg s (queuePage q) 0x100).toNat })) q))) ∧
  (∀ (s : State) (q : Nat), q < 1024 → (hostQueue s q).tdisp = .locked →
    exec (.startInterface q) s = .next (settle (updQueue s q (fun y => { y with tdisp := .run })))) ∧
  (∀ (s : State) (q : Nat), q < 1024 → (hostQueue s q).tdisp = .locked ∨ (hostQueue s q).tdisp = .run →
    exec (.stopInterface q) s = .next (settle (settleQueue (updQueue (dropQueueWork s q) q
      (fun y => { endCommands y s.now 9 with tdisp := .unlocked, latched := none })) q))) ∧
  (∀ (s : State) (q : Nat) (c : QueueCmd), q < 1024 → linkCarries s (queueLink s q) = true → linkOut s (queueLink s q) = false →
    let y := hostQueue s q
    let tail := (y.cqTail + 1) % 2 ^ y.cqLog
    tail ≠ y.cqHead → doneCmd s q = some c → c.irq = true →
    exec (.queueCompletion q) s = .next (settle (emit (updQueue (bwHost (emit s (.hostWrite (queueLink s q) (y.cqBase + 16 * y.cqTail)
      (completionEntry c y.phase))) (queueLink s q) 0 16) q (fun y => { y with
        cmds := removeFirst c y.cmds, cqTail := tail, phase := if tail = 0 then !y.phase else y.phase })) (.msix q))))

/-- Commands of a queue: each runs when it is the next to start, and completes with its status.
The model's choices in it: log entries 48, 51. -/
def Obligations.HostQueueCommands : Prop :=
  ∀ (s : State) (q : Nat) (c : QueueCmd),
    (NextHostCommand s q 1 c → exec (.queueNop q) s = .next (settle (finishCmd s q c 0 0 0))) ∧
    (∀ (data : List Byte) (poison : Bool), NextHostCommand s q 2 c → data.length = c.arg2 → inHostWindow s q c.arg0 c.arg2 = true →
      leasedElse s q c.arg1 c.arg2 = false →
      let r := ((queueRun s q c).crossHost q c.arg2 false).writeMp (c.arg1 % 2 ^ 57) data poison
      r.stop = .go →
      let t := dropInbox (queueTraffic r (queueCarrier r.s q)) r.core 0 r.seq
      exec (.copyIn q data poison) s = .next (settle (if poison then finishCmd (poisonRecord t q 0) q c 8 0 0 else finishCmd t q c 0 0 0))) ∧
    (NextHostCommand s q 3 c → inHostWindow s q c.arg0 c.arg2 = true → leasedElse s q c.arg1 c.arg2 = false →
      let x := readPieces (queueRun s q c) (c.arg1 % 2 ^ 57) c.arg2
      let r := x.2.crossHost q c.arg2 true
      r.stop = .go → x.1.any (fun p => p.2.2) = false →
      let t := dropInbox (queueTraffic r (queueCarrier r.s q)) r.core 0 r.seq
      exec (.copyOut q) s = .next (settle (finishCmd
        (x.1.foldl (fun a p => emit a (.hostWrite (queueLink t q) (c.arg0 + p.1) p.2.1)) t) q c 0 0 0))) ∧
    (∀ r : LeaseReq, queueRuns s q = true → readyLease s q = some (c, r) →
      exec (.pageOut q) s = .next (settle (copyPage s q c r))) ∧
    (readyLease s q = none → NextHostCommand s q 4 c → exec (.pageOut q) s = .next (settle (askLease s q c))) ∧
    (∀ (data : List Byte) (pa : Nat) (nc : Bool) (r : Run) (l : Lease), NextHostCommand s q 5 c → inHostWindow s q c.arg1 (leaseSize c.arg2) = true →
      (queueRun s q c).translate (c.arg0 % 2 ^ 57) .rd = (some (pa, nc), r) → isLocal s pa = true →
      ownLease s q (paOff pa) (leaseSize c.arg2) = some l → (l.ro = true ∨ bit c.arg2 2 = true) →
      exec (.pageIn q data false) s = .next (settle (finishCmd (endLease (queueTraffic r (queueCarrier s q)) l) q c 0 0 0))) ∧
    (∀ w : QueueCmd, queueRuns s q = true → expiredWait s q = some w → exec (.sync q) s = .next (settle (cancelQueueWait s q w))) ∧
    (expiredWait s q = none → NextHostCommand s q 6 c → exec (.sync q) s = .next (settle (startSync s q c))) ∧
    (∀ (pa : Nat) (nc : Bool) (r : Run), NextHostCommand s q 7 c → (queueRun s q c).translate (c.arg0 % 2 ^ 57) .rd = (some (pa, nc), r) →
      let a := queueAdmission (queueTraffic r (queueCarrier s q)) (.enter (.hostQueue q) (queueContext s q) (some pa))
      exec (.admit_ q) s = .next (settle (finishCmd a.1 q c 0 0 (if a.2 then 0 else 7)))) ∧
    (NextHostCommand s q 8 c →
      let a := queueAdmission s (.withdraw (.hostQueue q) (queueContext s q) c.arg0)
      exec (.withdraw q) s = .next (settle (finishCmd a.1 q c 0 0 (if a.2 then 0 else 7)))) ∧
    (NextHostCommand s q 2 c → inHostWindow s q c.arg0 c.arg2 = true → leasedElse s q c.arg1 c.arg2 = false →
      let r := (queueRun s q c).writeMp (c.arg1 % 2 ^ 57) (zeroBytes c.arg2) true
      r.stop = .go →
      exec (.hostReadTimeout q c.cid) s = .next (settle (finishCmd (dropInbox (queueTraffic r (queueCarrier r.s q)) r.core 0 r.seq) q c 7 0 0)))

/-! ### Nelpin links (ch. 12) -/

/-- The reliable stream: flits are sealed in groups, verified in order, asked for again and sent again.
The model's choices in it: log entry 58. -/
def Obligations.FlitsSealsAndReplay : Prop :=
  (∀ (s : State) (n : Nat), n < 48 → (port s n).state = .active → (port s n).replay.length < 1024 →
    let s0 := updPort s n (fun q => if 2 ^ 32 < q.txCount + 128 then { q with txGen := q.txGen + 1, txCount := 0 } else q)
    let r := if portReady s n then sendGroup n 127 s0 else (s0, 0)
    let q := port r.1 n
    (0 < r.2 ∨ q.freed ≠ q.told) →
    let f : Flit := { kind := 1, seq := q.txSeq, ack := q.verified, nak := false, phase := bit q.txGen 0, timed := false, channel := 0, start := 0,
                      units := [], first := (q.txSeq + 4096 - r.2) % 4096, count := r.2, credits := q.freed }
    exec (.sealSend n) s = .next (settle (emit (updPort r.1 n (fun y => { y with
      txSeq := (y.txSeq + 1) % 4096, replay := y.replay ++ [f], ackAt := if y.replay.isEmpty then s.now else y.ackAt
      txCount := y.txCount + r.2 + 1, told := y.freed })) (.flit n f)))) ∧
  (∀ (s : State) (n : Nat) (f : Flit), n < 48 → (port s n).state = .active → (port (heardFlit s n f) n).state = .active →
    (f.kind = 0 → f.channel < 6 → f.start ≤ 15 →
      exec (.dataFlit n f) s = .next (settle (sequenced (heardFlit s n f) n f (fun a =>
        acceptSeq (updPort a n (fun q => { q with group := q.group ++ [(f, s.now)] })) n)))) ∧
    (∀ v : Bool, f.kind = 1 → f.count ≤ 127 →
      exec (.sealFlit n f v) s = .next (settle (sequenced (heardFlit s n f) n f (fun a =>
        if (v && f.count == (port a n).group.length && (f.first + (port a n).group.length) % 4096 == f.seq) = true then sealGood a n f
        else sealBad a n)))) ∧
    (f.seq = (port (heardFlit s n f) n).expected → exec (.idleFlit n f) s = .next (settle (heardFlit s n f))) ∧
    (f.seq ≠ (port (heardFlit s n f) n).expected → exec (.idleFlit n f) s = .next (settle (askReplay (heardFlit s n f) n)))) ∧
  (∀ (s : State) (n : Nat), n < 48 → (port s n).state = .active →
    exec (.badCrcFlit n false) s = .next (settle (askReplay s n)) ∧
    exec (.badCrcFlit n true) s = .next (settle (askReplay (addSatF s F.NLK_FEC_uncorrectable n 1) n)) ∧
    (∀ a : Nat, exec (.nakReceive n a) s = .next (settle (takeNak (updPort s n (fun q => { q with lastGood := s.now })) n a))) ∧
    ((port s n).nakPending = true → (port s n).nakAt + 2000 ≤ s.now → exec (.nakResend n) s = .next (settle (sendNak s n))) ∧
    ((port s n).replay ≠ [] → (port s n).ackAt + 2000 * getF s F.NLK_CFG_replay_us n ≤ s.now →
      let b := raise (updPort s n (fun q => { q with replayTimeouts := q.replayTimeouts + 1, ackAt := s.now })) (nlkPage n) 5
      exec (.replayTimeout n) s = .next (settle
        (if getF s F.NLK_CFG_replay_limit n ≤ (port s n).replayTimeouts + 1 then portDown b n 3 else replayAll b n))))

/-- Training, step by step (chapter 12): detect, equalize, align, params, secure, delay, active; what ends it. Lanes fail, recover and
are switched off; software enables and retrains; silence and a partner's training pattern take the link down.
The model's choices in it: log entry 59. -/
def Obligations.TrainingAndLanes : Prop :=
  (
    ∀ (s : State) (n : Nat), n < 48 →
      let p := port s n
      (p.state = .detect → p.since ≤ s.now →
        exec (.partnerDetect n) s = .next (settle (updPort s n (fun q => { q with state := .equalize, since := s.now })))) ∧
      (∀ h : Nat, p.state = .equalize → allowedLanes s n (h % 16) ≠ 0 →
        exec (.trainingStep n h) s = .next (settle (updPort s n (fun q => { q with
          state := .align, since := s.now, healthy := allowedLanes s n (h % 16) })))) ∧
      (∀ h : Nat, p.state = .align →
        exec (.trainingStep n h) s = .next (settle (updPort s n (fun q => { q with
          state := .params, since := s.now, width := widthOf q.healthy })))) ∧
      (∀ h : Nat, p.state = .delay → 16 ≤ p.probes → exec (.trainingStep n h) s = .next (settle (enterActive s n))) ∧
      (∀ fs : List Nat, p.state = .params →
        let b := updPort s n (fun q => { q with partnerHub := nth 0 fs 0 % 1024, partnerPort := nth 0 fs 1 % 64,
                                                partnerEpoch := nth 0 fs 2 % 2 ^ 32, partnerJoined := decide (nth 0 fs 4 = 1) })
        (joined s = false ∨ nth 0 fs 4 ≠ 1 ∨ nth 0 fs 3 = s.startup.domain) → nth 0 fs 0 % 1024 ≠ hubId s → nth 0 fs 5 = 1 →
        exec (.params n fs) s = .next (settle (updPort b n (fun q => { q with state := .secure, since := s.now })))) ∧
      (∀ fs : List Nat, p.state = .params → joined s = true → nth 0 fs 4 = 1 → nth 0 fs 3 ≠ s.startup.domain →
        exec (.params n fs) s = .next (settle (refusePartner
          (updPort s n (fun q => { q with partnerHub := nth 0 fs 0 % 1024, partnerPort := nth 0 fs 1 % 64,
                                          partnerEpoch := nth 0 fs 2 % 2 ^ 32, partnerJoined := true })) n 9))) ∧
      (p.state = .secure →
        exec (.secure n true) s = .next (settle (updPort s n (fun q => { q with
          state := .delay, since := s.now, keyed := true, probes := 0, delays := [], lastGood := s.now }))) ∧
        exec (.secure n false) s = .next (settle (refusePartner s n 12))) ∧
      (p.state = .retrain → p.since + 20000 ≤ s.now →
        exec (.trainingTimeout n) s = .next (settle (portDown s n causeRetrain))) ∧
      (∀ t : Nat, stateTimeout p.state = some t → p.since + t ≤ s.now → p.state ≠ .retrain → p.state ≠ .detect →
        exec (.trainingTimeout n) s = .next (settle (trainingFails s n 0))) ∧
      (p.live = true →
        exec (.probeSend n) s = .next (settle (emit s (.control n 3 [s.now]))) ∧
        (∀ t1 : Nat, exec (.probe n t1) s = .next (settle (emit (updPort s n (fun q => { q with lastGood := s.now })) (.control n 4 [t1, s.now, s.now])))) ∧
        (∀ t1 t2 t3 : Nat, exec (.probeReply n t1 t2 t3) s = .next (settle
          (delayResult s n (((s.now : Int) - t1 - ((t3 : Int) - t2)) / 2).toNat))))) ∧
  (
    ∀ (s : State) (n : Nat), n < 48 →
      let p := port s n
      (∀ lane : Nat, lane < 4 → p.inSession = true → bit p.healthy lane = true →
        exec (.laneFail n lane) s = .next (settle (enterRetrain (countLane s n lane) n (p.healthy - 2 ^ lane) true))) ∧
      (∀ lane : Nat, lane < 4 → p.state = .active → bit p.healthy lane = false → bit (getF s F.NLK_CTRL_lane_off n) lane = false →
        (getF s F.NLK_CTRL_auto_widen n = 0 →
          exec (.laneRecover n lane) s = .next (settle (updPort s n (fun q => { q with healthy := p.healthy + 2 ^ lane })))) ∧
        (getF s F.NLK_CTRL_auto_widen n = 1 → p.width < widthOf (p.healthy + 2 ^ lane) →
          exec (.laneRecover n lane) s = .next (settle (enterRetrain s n (p.healthy + 2 ^ lane) true)))) ∧
      (∀ h : Nat, p.inSession = true → exec (.retrainRequest n h) s = .next (settle (enterRetrain s n (allowedLanes s n (h % 16)) false))) ∧
      (∀ (h last : Nat) (cs : List Nat), p.state = .retrain →
        (allowedLanes s n (h % 16) = 0 → exec (.retrainDone n h last cs) s = .next (settle (portDown s n causeLanes))) ∧
        (allowedLanes s n (h % 16) ≠ 0 →
          let a := updPort s n (fun q => { takeCredit q cs with
            state := .active, since := s.now, healthy := allowedLanes s n (h % 16), width := widthOf (allowedLanes s n (h % 16))
            lastGood := s.now, nakPending := false, naksInRow := 0 })
          let b := takeAck (if widthOf (allowedLanes s n (h % 16)) = p.width then a else raise a (nlkPage n) 2) n last
          exec (.retrainDone n h last cs) s = .next (settle (sendProbe (if (port b n).replay.isEmpty then b else replayAll b n) n)))) ∧
      (∀ lanes : Nat, allowedLanes (setF s F.NLK_CTRL_lane_off n (lanes % 16)) n (port (setF s F.NLK_CTRL_lane_off n (lanes % 16)) n).healthy =
          (port (setF s F.NLK_CTRL_lane_off n (lanes % 16)) n).healthy →
        exec (.laneOff n lanes) s = .next (settle (setF s F.NLK_CTRL_lane_off n (lanes % 16)))) ∧
      (getF s F.NLK_CTRL_enable n = 0 → exec (.nlkEnable n) s = .next (settle (restPort (setF s F.NLK_CTRL_enable n 1) n .detect s.now))) ∧
      (p.state ≠ .disabled → p.inSession = false → exec (.nlkRetrain n) s = .next (settle (restPort s n .detect s.now))) ∧
      (p.state ≠ .disabled → p.inSession = true →
        exec (.nlkRetrain n) s = .next (settle (restPort (portDown s n causeSoftware) n .detect s.now))) ∧
      (p.state = .active → p.lastGood + 2000 ≤ s.now → exec (.linkSilent n) s = .next (settle (portDown s n 1))) ∧
      (p.state = .active → exec (.partnerTrainingPattern n) s = .next (settle (portDown s n 7))))

/-! ### Coherence (ch. 11) -/

/-- A request that a link's agent sent, in front of those that have passed, is ordered at its line; a packet of another hub is
checked and then ordered.
The model's choices in it: log entry 52. -/
def Obligations.CoherentRequestsReachTheirLine : Prop :=
  ∀ (s : State) (q : CohReq) (r : SeamReq) (rest : List SeamReq),
    let taken (sel : SeamReq → Bool) : Prop :=
      q.packet = none ∧ takeFirst (fun r => sel r && r.line == q.line && decide (r.who = .agent q.agent q.tag)) s.coherent = some (r, rest)
    let ordered := settle (seamRequest { s with coherent := rest } r)
    (taken (fun r => decide (r.kind = .rdCur)) → exec (.rdcur q) s = .next ordered) ∧
    (taken (fun r => decide (r.kind = .rdS)) → exec (.rds q) s = .next ordered) ∧
    (taken (fun r => decide (r.kind = .rdM)) → exec (.rdm q) s = .next ordered) ∧
    (taken (fun r => decide (r.kind = .invM)) → exec (.invm q) s = .next ordered) ∧
    (taken (fun r => decide (r.kind = .evict)) → exec (.evict q) s = .next ordered) ∧
    (taken (fun r => (match r.kind with | .wrCur | .wrBk _ => true | _ => false) && !ownsLine s r) → exec (.wrcur q) s = .next ordered) ∧
    (∀ m : Bool, taken (fun r => decide (r.kind = .wrBk m) && ownsLine s r) → exec (.wrbk q m) s = .next ordered) ∧
    (∀ (p : Packet) (pt : Nat) (k : SeamKind) (i : Instr), q.packet = some p →
      (pt, k, i) ∈ [(0x01, SeamKind.rdCur, Instr.rdcur q), (0x02, .rdS, .rds q), (0x03, .wrCur, .wrcur q), (0x04, .evict, .evict q)] →
      Accepted s p pt → hostHeld s p = false →
      exec i s = .next (settle (remoteCoherent (afterDelivery s p) k p)))

/-- The Seam grants data and state together, and the entry a transaction leaves is that of Table 11.5: by what the entry was, what was
asked, and who asked.
The model's choices in it: log entry 54. -/
def Obligations.DirectoryFollowsItsTable : Prop :=
  ∀ (s : State) (r : SeamReq) (e : DirEntry) (a tag : Nat), r.who = .agent a tag →
    let after := finalEntry s r e
    (e.state = .i → e.holders = [] →
      (r.kind = .rdCur → after = e) ∧
      (r.kind = .rdS → after.state = .s ∧ after.holders = [a] ∧ after.group = groupOf s r.line) ∧
      (r.kind = .rdM ∨ r.kind = .invM → after.state = .m ∧ after.holders = [a] ∧ after.group = groupOf s r.line) ∧
      (r.kind = .wrCur ∨ r.kind = .atomic → after.state = .i) ∧
      (r.kind = .evict → after = e)) ∧
    (e.state = .s →
      (r.kind = .rdCur → after = e) ∧
      (r.kind = .rdS → after.state = .s ∧ (a ∈ after.holders ∨ after.overflow = true) ∧ (∀ b ∈ e.holders, b ∈ after.holders)) ∧
      (r.kind = .rdM ∨ r.kind = .invM → after.state = .m ∧ after.holders = [a] ∧ after.overflow = false) ∧
      (r.kind = .wrCur ∨ r.kind = .atomic → after = DirEntry.absent) ∧
      (r.kind = .evict → e.overflow = true → after = e) ∧
      (r.kind = .evict → e.overflow = false → a ∉ after.holders ∧ ∀ b ∈ e.holders, b ≠ a → b ∈ after.holders)) ∧
    (∀ o : Nat, e.state = .m → e.holders = [o] → e.overflow = false →
      (r.kind = .rdCur → o ≠ a → after.state = .s ∧ after.holders = [o]) ∧
      (r.kind = .rdCur → o = a → after = e) ∧
      (r.kind = .rdS → o ≠ a → after.state = .s ∧ after.holders = [o, a]) ∧
      (r.kind = .rdS → o = a → after.state = .s ∧ after.holders = [a]) ∧
      (r.kind = .rdM ∨ r.kind = .invM → after.state = .m ∧ after.holders = [a]) ∧
      (r.kind = .wrCur ∨ r.kind = .atomic → after = DirEntry.absent) ∧
      (r.kind = .wrBk true → after.state = .s ∧ after.holders = [o]) ∧
      (r.kind = .wrBk false → after = DirEntry.absent) ∧
      (r.kind = .evict → o ≠ a → after = e) ∧
      (r.kind = .evict → o = a → after = DirEntry.absent))

/-- The entry of a line is read as it was last written, and writing it leaves the entry of every other line that is not pushed out of
its bucket: buckets hold a line by its tag, and a line is recovered from both. -/
def Obligations.DirectoryKeepsEveryLine : Prop :=
  (∀ line : Nat, line < 2 ^ 39 → lineOf (bucketOf line) (tagOf line) = line ∧ tagOf line < 2 ^ 14 ∧ bucketOf line < 2 ^ 25) ∧
  (∀ (ws : List DirWay) (tag : Nat) (e : DirEntry), e.state ≠ .i →
    ((putWay ws tag e).find? (fun w => w.tag == tag)).map DirWay.entry = some e) ∧
  (∀ (ws : List DirWay) (tag : Nat) (e : DirEntry), e.state = .i → (putWay ws tag e).find? (fun w => w.tag == tag) = none) ∧
  (∀ (ws : List DirWay) (tag other : Nat) (e : DirEntry), other ≠ tag →
    ((putWay ws tag e).find? (fun w => w.tag == other)).map DirWay.entry = (ws.find? (fun w => w.tag == other)).map DirWay.entry)

/-- Answers to snoops, forwards and invalidations; a transaction that has them all closes. The waits run out after 100 µs for a
snoop's answer and 50 µs for an Inv or a Fwd; leases pass their point; buffers, sweeps, fences and the reserve copies.
The model's choices in it: log entries 52, 53, 55, 57. -/
def Obligations.SeamAnswersAndTimers : Prop :=
  (
    (∀ (s : State) (line : Nat) (t : SeamTxn), txnOf s line = some t → t.awaits = [] →
      let b := effect (updDie s (dieOfLine s line) (fun x => { x with txns := x.txns.filter (fun u => u.req.line != line) })) t
      exec (.transactionClose line) s = .next (settle (settleRecvs
        (drainDie (dieOfLine s line) (2 * (seamDie b (dieOfLine s line)).waiting.length + 8) b)))) ∧
    (∀ (s : State) (pl a : Nat) (d : Option (List Byte)) (keepS : Bool),
      (∀ f : Forward, forwardOf s pl a = some f → exec (.birsp pl a d keepS) s = .next (settle (forwardDone s f d keepS 0))) ∧
      (forwardOf s pl a = none → isLocal s (pl * 64) = true →
        exec (.birsp pl a d keepS) s = .next (settle (answered s (paOff (pl * 64) / 64) a SnoopKind.isBi d false))) ∧
      (∀ (f : Forward) (tag : Nat), forwardOf s pl a = some f →
        exec (.biconflict a pl tag) s = .next (settle (emit s (.conflictAck a pl (!(openTags s a).contains tag)))))) ∧
    (∀ (s : State) (p : Packet), Accepted s p ptInv →
      ∃ t : State, exec (.inv p) s = .next (settle (send t (mkPacket t ptInvAck p.src p.tag p.addr 0 15 []))) ∧
        t.fabric.proxies = (afterDelivery s p).fabric.proxies.filter (fun q => q.1 != p.addr / 64 * 64) ∧ t.store = s.store) ∧
    (∀ (s : State) (p : Packet) (l : Nat), Accepted s p ptFwd →
      let b := afterDelivery s p
      let c := send b (mkPacket b ptFwdAck p.src p.tag p.addr 0 15 [])
      linkOfAgent c (bits p.word3 0 12) = some l →
      exec (.fwd p) s = .next (settle (emit (updFabric c (fun f => { f with forwards := f.forwards ++
        [{ line := p.addr / 64, owner := bits p.word3 0 12, home := p.src, tag := p.tag, inv := bit p.word3 12,
           requester := if bit p.word3 23 then some (bits p.word3 13 10) else none, start := b.now }] }))
        (.snoop (bits p.word3 0 12) (p.addr / 64) (if bit p.word3 12 then .biInv else .biData))))) ∧
    (∀ (s : State) (p : Packet) (line a : Nat),
      (Accepted s p ptInvAck → respLine (afterDelivery s p) p = some line →
        exec (.invack p) s = .next (settle (answered (afterDelivery s p) line p.src (fun k => decide (k = .inv)) none false))) ∧
      (Accepted s p ptFwdAck → respLine (afterDelivery s p) p = some line → fwdOwner (afterDelivery s p) line p.src = some a →
        exec (.fwdack p) s = .next (settle (updTxn (afterDelivery s p) line (fun t => { t with
          awaits := t.awaits.map (fun w => if w.agent = a ∧ w.kind = .fwd then { w with acked := true } else w) })))) ∧
      (∀ r : Request, Accepted s p ptFwdData → findRequest (afterDelivery s p) p.tag = some r → r.packet.addr = p.addr / 64 * 64 →
        (r.packet.ptype = ptRdS ∨ r.packet.ptype = ptRdCur) →
        exec (.fwddata p) s = .next (settle (lineArrives (afterDelivery s p) r p))) ∧
      (Accepted s p ptFwdDone → respLine (afterDelivery s p) p = some line → fwdOwner (afterDelivery s p) line p.src = some a →
        (p.status = 0 → exec (.fwddone p) s = .next (settle (answered (afterDelivery s p) line a (fun k => decide (k = .fwd))
          (if bit p.word3 1 then some (p.payload.take 64) else none) (bit p.word3 2)))) ∧
        (p.status ≠ 0 → exec (.fwddone p) s = .next (settle (seamExpired (afterDelivery s p) line a 1)))))) ∧
  (
    (∀ (s : State) (pl a : Nat),
      let line := paOff (pl * 64) / 64
      (∀ f : Forward, forwardOf s pl a = some f → f.start + 200000 ≤ s.now →
        exec (.birspTimeout pl a) s = .next (settle (forwardDone s f none false 1))) ∧
      (forwardOf s pl a = none → isLocal s (pl * 64) = true → awaitedFor s line a 200000 (fun w => w.kind.isBi) = true →
        exec (.birspTimeout pl a) s = .next (settle (seamExpired s line a 1))) ∧
      (isLocal s (pl * 64) = true → awaitedFor s line a 100000 (fun w => decide (w.kind = .fwd) && !w.acked) = true →
        exec (.fwdackTimeout pl a) s = .next (settle (seamExpired s line a 2))) ∧
      (isLocal s (pl * 64) = true → awaitedFor s line a 100000 (fun w => decide (w.kind = .inv)) = true →
        exec (.invackTimeout pl a) s = .next (settle (seamExpired s line a 4)))) ∧
    (∀ (s : State) (d : Nat) (r : LeaseReq), s.regions.leaseReqs.find? (fun r => r.dies.head? == some d) = some r → d < 2 → s.seam.length = 2 →
      (seamDie s 0).waiting = [] → (seamDie s 1).waiting = [] →
      (linesOf r.lease.page r.lease.size).all (fun line => decide ((dirEntry s line).state = .i)) = true →
      let b := updDie s d (fun x => { x with leases := x.leases ++ [r.lease] })
      exec (.leaseInstall d) s = .next (settle { b with regions := { b.regions with
        leaseReqs := b.regions.leaseReqs.map (fun x => if x = r then { x with dies := x.dies.drop 1 } else x) } })) ∧
    (∀ (s : State) (d line : Nat), txnOf s line = none →
      exec (.atomicBufferEvict d line) s = .next (settle (updDie s d (fun d => { d with abuf := d.abuf.filter (fun l => l != line) })))) ∧
    (∀ (s : State) (d : Nat), d < 2 → (seamDie s d).sweeping = true → Tab.getC [] (seamDie s d).dir (seamDie s d).position = [] →
      let pos := ((seamDie s d).position + 1) % 2 ^ 25
      let b := passRecalls (passMarks (updDie s d (fun y => { y with position := pos })) d pos) d pos
      exec (.sweep d) s = .next (settle (updDie b d (fun y => { y with sweeping := !y.recalls.isEmpty || !y.fences.isEmpty })))) ∧
    (∀ (s : State) (d : Nat), d < 2 → (fenceOf s d (getF s F.SEAM_FENCE_SEL_agent d)).mark = .silent →
      (fenceOf s d (getF s F.SEAM_FENCE_SEL_agent d)).swept = true →
      exec (.fenceClear d) s = .next (settle (setFence s d (getF s F.SEAM_FENCE_SEL_agent d) { mark := .none, swept := false, start := 0 }))) ∧
    (∀ (s : State) (d p : Nat), d < 2 → p < 12 → bit (getF s F.SEAM_DIR_copy_stale d) p = true → partUp s p = true →
      exec (.reserveRewrite d p) s = .next (settle (raise (setF s F.SEAM_DIR_copy_stale d (getF s F.SEAM_DIR_copy_stale d - 2 ^ p))
        (F.SEAM_DIR_copy_stale.page + d) 5))))

/-- Atomics of another hub: an answered one is answered again, a full result cache refuses, a refused one is answered by its status,
and one in order goes to its line; at the line it reads the old value, writes the new one and nothing else.
The model's choices in it: log entry 55. -/
def Obligations.AtomicsAtTheirHome : Prop :=
  (∀ (s : State) (p : Packet), Accepted s p ptAtomic →
    let b := afterDelivery s p
    let part := (homePart b (paOff p.addr)).getD 0
    (∀ q : Packet, p.count = 0 → atomOpen b p = false → storedResult b part p.src p.tag = some q → resultDead b part p.src p.tag = false →
      exec (.atomic p) s = .next (settle (send b q))) ∧
    (p.count = 0 → atomOpen b p = false → storedResult b part p.src p.tag = none → rcSize < (resultsOf b part).length + weight p →
      exec (.atomic p) s = .next (settle (answer b p ptAtomRes 5 0 []))) ∧
    (p.count = 0 → atomOpen b p = false → storedResult b part p.src p.tag = none → (resultsOf b part).length + weight p ≤ rcSize →
      atomRefusal b p = none →
      exec (.atomic p) s = .next (settle (seamRequest (hostLine b none p.src 8192 (paOff p.addr) true)
        { SeamReq.plain .atomic (.agent p.src p.tag) (paOff p.addr / 64) with
          offset := paOff p.addr % 64, atom := p.word3 % 2 ^ 8, operand := atomOperand p, packet := some p })))) ∧
  (∀ (s : State) (off word opd : Nat), lineDead s (off / 64) = false →
    let r := atomApply word (storeValue s off (2 ^ bits word 4 3)) opd
    (r.1 = 0 → (atomAt s off word opd).1 = 0 ∧ (atomAt s off word opd).2.1 = storeValue s off (2 ^ bits word 4 3) ∧
      (atomAt s off word opd).2.2.store = putBytes s.store off (leBytes (2 ^ bits word 4 3) r.2)) ∧
    (r.1 ≠ 0 → (atomAt s off word opd).2.2 = s)) ∧
  (∀ old opd w : Nat, w ∈ [2, 3, 4] → old < 2 ^ (8 * 2 ^ w) → opd < 2 ^ (8 * 2 ^ w) →
    atomApply (16 * w) old opd = (0, (old + opd) % 2 ^ (8 * 2 ^ w)) ∧
    atomApply (16 * w + 8) old opd = (0, old ^^^ opd) ∧
    atomApply (16 * w + 9) old opd = (0, opd))

/-! ### The fabric (ch. 13, 5) -/

/-- Packets in transit go on, answers reach the request that waits for them, an unreachable way is tried again, requests are sent
again and time out.
The model's choices in it: log entry 61. -/
def Obligations.RequestsAndTheirAnswers : Prop :=
  (∀ (s : State) (n : Nat) (p : Packet), p.dst ≠ hubId s →
    (48 ≤ n → exec (.packetRoute n p) s = .next (settle (send s p))) ∧
    (∀ (x : Nat × Nat × Packet) (rest : List (Nat × Nat × Packet)), n < 48 →
      takeFirst (fun (e : Nat × Nat × Packet) => e.1 == n && decide (e.2.2 = p)) s.fabric.incoming = some (x, rest) →
      exec (.packetRoute n p) s = .next (settle (transit (updFabric s (fun f => { f with incoming := rest })) p)))) ∧
  (∀ (s : State) (p : Packet) (r : Request) (pt : Nat) (i : Instr),
    (pt, i) ∈ [(0x10, Instr.data p), (0x11, .cmp p), (0x12, .atomres p), (0x13, .syncres p), (0x14, .trigres p)] →
    Accepted s p pt → findRequest (afterDelivery s p) p.tag = some r → r.packet.dst = p.src →
    (r.purpose = .combined → exec i s = .next (settle (splitAnswer (afterDelivery s p) r p))) ∧
    (r.purpose ≠ .combined → exec i s = .next (settle (serveRequest (afterDelivery s p) r p)))) ∧
  (∀ (s : State) (p : Packet) (r : Request), Accepted s p ptNakPath → findRequest (afterDelivery s p) p.tag = some r →
    r.packet.ptype = p.word3 % 64 → r.purpose ≠ .combined → r.single = false →
    exec (.nakpath p) s = .next (settle (updFabric (afterDelivery s p) (fun f => { f with requests := f.requests.map (fun q =>
      if q.packet.tag = p.tag then { q with again := true, againAt := (afterDelivery s p).now, refused := q.refused + 1 } else q) })))) ∧
  (∀ (s : State) (p : Packet) (r : Request) (core id : Nat), Accepted s p ptBulkDone → findRequest (afterDelivery s p) p.tag = some r →
    r.packet.dst = p.src → r.purpose = .descriptor core id → p.status = 0 →
    exec (.bulkdone p) s = .next (settle (endDescriptor (closeRequest (afterDelivery s p) p.tag) core id 0 0))) ∧
  (∀ (s : State) (tag : Nat) (r : Request), findRequest s tag = some r → r.parked = false →
    (r.single = false → r.purpose ≠ .combined → r.lastSend + 40000 ≤ s.now → s.now < r.limit → r.packet.once = false →
      let p := { r.packet with resend := true, nocomb := true, sepoch := epochOf s r.packet.spart }
      exec (.requestResend tag) s = .next (settle (send (updFabric s (fun f => { f with requests := f.requests.map (fun q =>
        if q.packet.tag = tag then { q with packet := p, lastSend := s.now, sends := q.sends + 1, again := false } else q) })) p))) ∧
    (r.limit ≤ s.now → (r.single && r.again) = false → exec (.requestTimeout tag) s = .next (settle (endRequest s r 1)))) ∧
  (∀ (s : State) (part agent tag : Nat),
    let old (r : Stored) : Bool := r.agent == agent && r.tag == tag && decide (r.entered + 800000 ≤ s.now) &&
      !(r.packet.ptype == ptSyncRes && r.packet.word3 % 256 == stQueued)
    (resultsOf s part).any old = true →
    exec (.resultCacheExpire part agent tag) s = .next (settle (updFabric s (fun f => { f with
      results := Tab.setC [] f.results part ((resultsOf s part).filter (fun r => !old r)) }))))

/-- Bulk transfers: what is asked for is read and streamed, what is placed is noted and its bytes are received in order; table sets
are asked, answered and refused when the die has no room.
The model's choices in it: log entry 63. -/
def Obligations.BulkTransfers : Prop :=
  (∀ (s : State) (p : Packet), Accepted s p ptBulkGet →
    let b := afterDelivery s p
    isLocal b p.addr = false →
    exec (.bulkget p) s = .next (settle (send b { mkPacket b ptBulkDone p.src p.tag 0 (p.word3 % 2 ^ 16) 15 [] with status := 1 }))) ∧
  (∀ (s : State) (p : Packet), Accepted s p ptBulkGet →
    let b := afterDelivery s p
    let u := p.unit 2
    let n := p.word3 % 2 ^ 16
    isLocal b p.addr = true → (linesOf (paOff p.addr) (bits u 40 13)).any (fun l => refuses b (.remote p.src) .rd (l * 64)) = false →
    findSend b p.src n true = none → bits u 0 40 = 0 →
    let c := updFabric b (fun g => { g with sends := g.sends ++ [newSend b p.src n true 0 0 0 (bits u 64 64) (some (paOff p.addr))] })
    exec (.bulkget p) s = .next (settle (pumpParts p.src n 66 (updSend c p.src n true (fun y => { y with
      parts := y.parts ++ [{ off := 0, bytes := bits u 40 13, addr := p.addr }], seen := y.seen + 1 }))))) ∧
  (∀ (s : State) (p : Packet) (x : RecvXfer), Accepted s p ptPlace →
    let b := afterDelivery s p
    let u := p.unit 2
    findRecv b p.src (p.word3 % 2 ^ 16) = some x →
    exec (.place p) s = .next (settle (settleRecvs (updRecv b p.src (p.word3 % 2 ^ 16) (fun y => { y with
      places := y.places ++ [{ offset := bits u 0 40, bytes := bits u 40 13, addr := p.addr, tag := p.tag, done := 0, refused := false }]
      total := if bit u 53 then bits u 64 64 else y.total }))))) ∧
  (∀ (s : State) (p : Packet) (x : RecvXfer), Accepted s p ptBulkData →
    let b := afterDelivery s p
    let n := p.word3 % 2 ^ 16
    findRecv b p.src n = some x →
    (bit p.word3 57 = false →
      let bs := rawBytes b x (bits p.word3 16 40) p.payload
      exec (.bulkdata p) s = .next (settle (afterBytes (deliverBytes
        (updRecv b p.src n (fun y => { y with expanded := y.expanded + bs.length })) x (bits p.word3 16 40) bs false) x))) ∧
    (bit p.word3 57 = true → ofTableSet x p = false → bits p.word3 16 40 ≤ x.nextOffset → x.nextOffset < bits p.word3 16 40 + 16 →
      exec (.bulkdata p) s = .next (settle (updRecv b p.src n (fun y => joinStream y (bits p.word3 16 40) p.payload)))) ∧
    (ofTableSet x p = true → bits p.word3 16 40 = 0 →
      p.payload.length < 16 + 128 * (List.range 32).countP (fun i => bit (field p.payload 4 4) i) →
      exec (.tableSetUnit p) s = .next (settle (updRecv b p.src n (fun y => { y with head := p.payload, headDone := false }))))) ∧
  (∀ (s : State) (p : Packet), Accepted s p ptTableAns →
    exec (.tableans p) s = .next (settle (updFabric (afterDelivery s p) (fun g => { g with sends := g.sends.map (fun x =>
      if x.peer = p.src ∧ x.number = p.word3 % 2 ^ 16 ∧ x.table = .asked then { x with table := if p.status = 0 then .ok else .busy } else x) }))))

/-- The compression units: segments join a die's stage, are sent encoded or, where they pass, as they are, and are expanded.
The model's choices in it: log entry 64. -/
def Obligations.SegmentsAreStagedAndExpanded : Prop :=
  (∀ (s : State) (d : Nat) (x : SendXfer) (g : Segment4k), (∀ x ∈ s.fabric.sends, x.serves = false) → (cmpDie s d).withheld = [] →
    s.fabric.sends.find? (fun x => x.die == d && (nextSegment x).isSome) = some x → nextSegment x = some g →
    exec (.segmentEnqueue d) s = .next (settle (arriveStage (updSend s x.peer x.number x.serves (fun y => { y with
      bytes := y.bytes.drop g.bytes.length, taken := y.taken + g.bytes.length })) d g))) ∧
  (∀ (s : State) (d : Nat) (g : Segment4k) (rest : List Segment4k), (cmpDie s d).passing = true → (cmpDie s d).queue = g :: rest →
    exec (.segmentEncode d) s = .next (settle (addSatF (sendSegment (updCmp s d (fun c => { c with queue := rest })) d g true)
      F.NFAB_CMP_PASS_passed d 1))) ∧
  (∀ (s : State) (hub xfer : Nat) (x : RecvXfer), findRecv s hub xfer = some x → x.headDone = true → 8 ≤ x.stream.length →
    onlyFill x.stream = false → wireLength x.stream ≤ x.stream.length → x.expanded < x.total →
    let n := wireLength x.stream
    let want := min 4096 (x.total - x.expanded)
    let b := updRecv s hub xfer (fun y => { y with
      stream := y.stream.drop n, expanded := y.expanded + want, slots := if y.total ≤ y.expanded + want then 0 else y.slots })
    (∀ bs : List Byte, expandSegment x.tables (x.stream.take n) = some bs → bs.length = want →
      exec (.segmentExpand hub xfer) s = .next (settle (afterBytes (deliverBytes b x x.expanded bs false) x))) ∧
    (expandSegment x.tables (x.stream.take n) = none →
      exec (.segmentExpand hub xfer) s = .next (settle (afterBytes (deliverBytes (expansionError b x) x x.expanded (zeroBytes want) true) x)))) ∧
  (∀ (s : State) (d : Nat), d < 2 →
    exec (.nfabCmpHighClear d) s = .next (settle (setF s F.NFAB_CMP_HIGH_high d (stagedBytes (cmpDie s d)))))

/-- Fences, echoes, reconciliation, and the loss of hubs and their epochs.
The model's choices in it: log entries 60, 62. -/
def Obligations.FencesReconciliationAndLoss : Prop :=
  (∀ (s : State) (p : Packet), Accepted s p ptFence → p.src < 1024 →
    exec (.fence p) s = .next (settle (send (afterDelivery s p) (mkPacket (afterDelivery s p) ptEcho p.src p.tag 0 (p.word3 % 8) 15 [])))) ∧
  (∀ (s : State) (p : Packet), Accepted s p ptEcho →
    let b := afterDelivery s p
    exec (.echo p) s = .next (settle (((b.fabric.flows.filter (fun g => g.fenced == some p.tag)).flatMap Flow.held).foldl route
      (updFabric b (fun f => { f with flows := f.flows.filter (fun g => g.fenced != some p.tag) }))))) ∧
  (∀ (s : State) (p : Packet), Accepted s p ptReconcile → p.src < 1024 →
    let b := afterDelivery s p
    exec (.reconcile p) s = .next (settle (send b (mkPacket b ptReconAns p.src p.tag 0
      (match (port b (bits p.word3 6 6)).release with | some (v, _) => v % 4096 + 2 ^ 12 | none => 0) 15 [])))) ∧
  (∀ (s : State) (p : Packet), Accepted s p ptReconAns →
    let b := afterDelivery s p
    (port b p.tag).reconciling.isSome = true → (port b p.tag).partnerHub = p.src → bit p.word3 12 = false →
    exec (.reconans p) s = .next (settle (reconFail b p.tag))) ∧
  (∀ (s : State) (p : Packet), Accepted s p ptReconAns →
    let b := afterDelivery s p
    let n := p.tag
    (port b n).reconciling.isSome = true → (port b n).partnerHub = p.src → bit p.word3 12 = true → (port b n).handed = [] →
    b.fabric.flows.filter (fun g => g.fenced == some (reconMark n)) = [] →
    let c := updPort (addSatF b F.NFAB_RECON_settled (sliceOf n) 1) n (fun y => { y with handed := [], reconciling := none })
    exec (.reconans p) s = .next (settle (updFabric c (fun f => { f with flows := f.flows.filter (fun g => g.fenced != some (reconMark n)) })))) ∧
  (∀ (s : State) (n t : Nat), (port s n).reconciling = some t → t + 2000 * getF s F.NFAB_CFG_rec_us (sliceOf n) ≤ s.now →
    exec (.reconcileTimeout n) s = .next (settle (reconFail s n))) ∧
  (∀ (s : State) (n v t : Nat), (port s n).release = some (v, t) → t + 4000000 ≤ s.now →
    exec (.releaseRecordExpire n) s = .next (settle (updPort s n (fun q => { q with release := none })))) ∧
  (∀ (s : State) (p : Packet), Accepted s p ptLoss → lossAgent p ≠ p.src → (passOn (afterDelivery s p) p).2 = true →
    exec (.loss p) s = .next (settle (lossInForce (passOn (afterDelivery s p) p).1 (lossAgent p)))) ∧
  (∀ (s : State) (p : Packet), p.ok = true → p.ptype = ptLoss → p.src < 1024 → lossAgent p = p.src →
    let b := takeIn s p
    p.src ≠ hubId b → b.fabric.lostHubs.contains p.src = false → (passOn b p).2 = true → noticeOld (passOn b p).1 p = false →
    exec (.epochNotice p) s = .next (settle (noticeInForce (passOn b p).1 p))) ∧
  (∀ (s : State) (h : Nat), h < 1024 → h ≠ hubId s → mayDeclare s h = true →
    exec (.hubLost h) s = .next (settle (hubGone (sendLoss (raise (fault s { cls := 2, cause := 0x001F, page := rasPage, agent := h }) rasPage 7) h 15) h)))

/-! ### Keys, tenants, debug and ownership (ch. 14), faults and resets (ch. 15) -/

/-- Messages of the manager's session: tenants, key IDs, contexts, objects and envelopes; from any other session they are denied.
The model's choices in it: log entries 66, 67, 68. -/
def Obligations.ManagerMessages : Prop :=
  (∀ (s : State) (sender a b : Nat) (e : Envelope) (good : Bool), sender ≠ 0 →
    ∀ i ∈ [Instr.tenantCreate sender a, .tenantDelete sender a, .keyidAssign sender a b, .keyidRevoke sender a, .ctxBind sender a b,
        .objAssign sender a b, .envelope sender a e good],
      exec i s = .next (settle (elnAnswer s elnDenied))) ∧
  (∀ (s : State) (hash : Nat),
    let unused := (range 1 1023).filter (fun t => !tidKnown s t)
    (unused = [] → exec (.tenantCreate 0 hash) s = .next (settle (elnAnswer s elnFull))) ∧
    (unused ≠ [] → exec (.tenantCreate 0 hash) s = .next (settle
      (let r := freeBelow s unused.length
       emit (updEloan r.2 (fun e => { e with tenants := Tab.insert e.tenants (nth 1 unused r.1) hash }))
         (.eloanAnswer elnOk [nth 1 unused r.1])))) ∧
    (∀ t : Nat, 0 < t → t ≤ 1023 → tidKnown s t = true →
      exec (.tenantDelete 0 t) s = .next (settle (elnAnswer (deleteTenant s t) elnOk)))) ∧
  (∀ (s : State) (k t : Nat), keyArg k = true → t ≤ 1023 → tidKnown s t = true → (keyOf s k).state = .free →
    exec (.keyidAssign 0 k t) s = .next (settle (elnAnswer
      (updKey s k (fun _ => { state := .assigned, tid := t, integrity := false, bin := 0 })) elnOk))) ∧
  (∀ (s : State) (k : Nat), keyArg k = true → (keyOf s k).state ≠ .free →
    exec (.keyidRevoke 0 k) s = .next (settle (elnAnswer (destroyAny s k) elnOk))) ∧
  (∀ (s : State) (c t : Nat), c ≤ 4095 → t ≤ 1023 → tidKnown s t = true →
    exec (.ctxBind 0 c t) s = .next (settle (elnAnswer (loseBinding s c { candidate := some t, bound := none, hash := none }) elnOk))) ∧
  (∀ (s : State) (name c : Nat), objHub name = hubId s → objPart name ≤ 11 → objIndex name ≤ 6143 → name < 2 ^ 27 → c ≤ 4095 →
    (syncObj s (objKey name)).waiters = [] → (tidOf s c = 0 ∨ debugged s (objPart name) = false) → Tab.getC 0 s.sync.assigned (objKey name) ≠ c →
    let b := resetObj s (objKey name)
    exec (.objAssign 0 name c) s = .next (settle (elnAnswer { b with sync := { b.sync with
      assigned := Tab.setC 0 b.sync.assigned (objKey name) c } } elnOk))) ∧
  (∀ (s : State) (hub : Nat) (e : Envelope), hub ≤ 1023 →
    exec (.envelope 0 hub e true) s = .next (settle (elnAnswer (envelopeIn s hub e) elnOk)))

/-- Messages of a tenant's session: keys, confirmations, links, windows, shares and its own readings.
The model's choices in it: log entries 66, 67, 68. -/
def Obligations.TenantMessages : Prop :=
  ∀ (s : State) (t k : Nat),
    ((keyChecks s t k).all (fun c => !c.1) = true →
      ((keyOf s k).state = .assigned → (t = 0 ∨ vendorDebug s = false) →
        (∀ integ : Bool, exec (.keyGen t k integ) s = .next (settle (elnAnswer (updKey s k (fun x => { x with state := .keyed, integrity := integ })) elnOk))) ∧
        (∀ (integ : Bool) (m : List Byte), m.length = 96 →
          exec (.keyImport t k integ m) s = .next (settle (elnAnswer (updKey s k (fun x => { x with state := .keyed, integrity := integ })) elnOk)))) ∧
      ((keyOf s k).state ≠ .assigned →
        ∀ integ : Bool, exec (.keyGen t k integ) s = .next (settle (elnAnswer s elnBadState))) ∧
      ((keyOf s k).state = .keyed →
        exec (.keyDestroy t k) s = .next (settle (elnAnswer (destroyAny s k) elnOk)) ∧
        (∀ v : Nat, v ≤ 4 → exec (.bin t k v) s = .next (settle (elnAnswer (updKey s k (fun x => { x with bin := v })) elnOk))))) ∧
    (∀ c h : Nat, c ≤ 4095 → tidKnown s t = true → (Tab.getC Binding.unbound s.eloan.bindings c).candidate = some t → descriptorHash s c = some h →
      exec (.ctxConfirm t c h) s = .next (settle (elnAnswer
        (setBinding (dropTagged s c) c { candidate := some t, bound := some t, hash := some h }) elnOk))) ∧
    (∀ a h l : Nat, linkOfAgent s a = some l → tidKnown s t = true → (linkTenant s l = 0 ∨ linkTenant s l = t) →
      Tab.find? s.eloan.linkKey (2 * l) = some h → Tab.find? s.eloan.linkKey (2 * l + 1) = some h →
      exec (.linkBind t a h) s = .next (settle (elnAnswer (updEloan s (fun e => { e with linkTid := Tab.setC 0 e.linkTid l t })) elnOk))) ∧
    (∀ (kind hub first count region : Nat) (rd wr atm : Bool), hub ≠ hubId s → rangeOk s kind hub first count = true →
      (kind ≠ 0 ∨ region ≤ 4095) → tidKnown s t = true → unusedNumbers s ≠ [] →
      let r := freshNumber s
      exec (.windowReq t kind hub first count region rd wr atm) s = .next (settle
        (emit (updEloan r.2 (fun e => { e with windowReqs := e.windowReqs ++
            [{ number := r.1, tid := t, kind := kind, hub := hub, first := first, count := count, rd := rd, wr := wr, atm := atm,
               region := region, keyId := 0 }] }))
          (.envelope hub (.request r.1 (hashOf s t) kind first count region rd wr atm))))) ∧
    (∀ (hub n : Nat) (w : Window) (rest : List Window), takeFirst (fun w => w.number == n && w.hub == hub) s.eloan.windowReqs = some (w, rest) →
      exec (.windowGrant hub n k) s = .next (settle (elnAnswer
        (updEloan s (fun e => { e with windowReqs := rest, windows := e.windows ++ [{ w with keyId := k }] })) elnOk))) ∧
    (∀ (n : Nat) (w : Window), windowOf s n = some w → tidKnown s t = true →
      (w.tid = t → exec (.windowDrop t n) s = .next (settle (elnAnswer (dropWindow s w) elnOk))) ∧
      (w.tid ≠ t → exec (.windowDrop t n) s = .next (settle (elnAnswer s elnDenied)))) ∧
    (∀ (r h : Nat) (rd wr atm : Bool), r ≤ 4095 → rgnValid (regionEntry s r) = true → tidKnown s t = true →
      ((keyOf s (rgnKey (regionEntry s r))).tid = t →
        exec (.share t r h rd wr atm) s = .next (settle (elnAnswer (updEloan s (fun e => { e with
          shares := e.shares.filter (fun y => !(y.region == r && y.keyHash == h)) ++ [{ region := r, keyHash := h, rd := rd, wr := wr, atm := atm }] })) elnOk))) ∧
      ((keyOf s (rgnKey (regionEntry s r))).tid ≠ t → exec (.share t r h rd wr atm) s = .next (settle (elnAnswer s elnDenied)))) ∧
    (t ≠ 0 → tidKnown s t = true → exec (.query t) s = .next (settle (elnAnswer (takeSamples
      ([countersOf s t, samplesOf s t, copiesOf s t, hiddenOf s t].foldl (fun a d => emit a (.records d)) s) t) elnOk)))

/-- Debug opens only under a live nonce and its signatures, ends the keys it reaches and resets the partition; ownership is set,
passed on and reclaimed; certificates, minimum versions and measurements; key IDs end their scrub.
The model's choices in it: log entries 65, 69, 70, 72. -/
def Obligations.DebugAndOwnership : Prop :=
  (∀ (s : State) (p level : Nat), p ≤ 11 → level = 1 ∨ level = 2 → lockedOut s p = false →
    let r := freeBelow s (2 ^ 256)
    exec (.debugChallenge p level) s = .next (settle (emit (updEloan r.2 (fun e => { e with
      nonces := Tab.insert e.nonces p { level := level, value := r.1, since := s.now } })) (.eloanAnswer elnOk [r.1])))) ∧
  (∀ (s : State) (p : Nat) (n : Nonce), Tab.find? s.eloan.nonces p = some n → n.since + nonceLife ≤ s.now →
    exec (.nonceExpire p) s = .next (settle (updEloan s (fun e => { e with nonces := Tab.erase e.nonces p })))) ∧
  (∀ (s : State) (p level : Nat) (o v : Bool), p ≤ 11 → level = 1 ∨ level = 2 →
    let used := updEloan s (fun e => { e with nonces := Tab.erase e.nonces p })
    (debugVerifies s p level o v = true →
      let b := updEloan used (fun e => { e with debugOpening := Tab.insert e.debugOpening p level })
      exec (.debugOpen p level o v) s = .next (settle (beginReset (((affected s p level).flatMap (keysOf b)).foldl destroyAny b) p 0x0022))) ∧
    (debugVerifies s p level o v = false →
      exec (.debugOpen p level o v) s = .next (settle (badSignature (updEloan used (fun e => { e with debugFails := Tab.upd 0 e.debugFails p (· + 1) })))))) ∧
  (∀ (s : State) (p : Nat), p ≤ 11 → s.eloan.owned = true → Tab.getC 0 s.eloan.debugOpen p ≠ 0 →
    exec (.debugClose p true) s = .next (settle (closeDebug s p 4))) ∧
  (∀ (s : State) (h : Nat),
    (s.eloan.owned = false → s.eloan.ownerGen < 64 →
      exec (.setOwner h) s = .next (settle (elnAnswer (installOwner s h (s.eloan.ownerGen + 1)) elnOk))) ∧
    (s.eloan.owned = true → exec (.setOwner h) s = .next (settle (elnAnswer s elnDenied))) ∧
    (s.eloan.owned = true → s.eloan.ownerGen < 64 →
      exec (.transfer h true) s = .next (settle (elnAnswer (installOwner (endTenancy s) h (s.eloan.ownerGen + 1)) elnOk))) ∧
    (exec (.transfer h false) s = .next (settle (badSignature s))) ∧
    (s.eloan.owned = true → s.board.ownerClear = true →
      exec (.reclaim true) s = .next (settle (elnAnswer (elnRaise (updEloan s (fun e => { e with
        owned := false, ownerHash := 0, managerHash := none })) 3) elnOk))) ∧
    (s.eloan.owned = true → exec (.managerCert h true) s = .next (settle (elnAnswer (updEloan s (fun e => { e with managerHash := some h })) elnOk)))) ∧
  (∀ (s : State) (cls : Nat), cls ≤ 2 → s.eloan.owned = true →
    ((classSvn s cls).1 < (classSvn s cls).2 → raisesLeft s cls ≠ 0 →
      exec (.svnCommit cls true) s = .next (settle (elnAnswer (raiseMin s cls (classSvn s cls).2) elnOk))) ∧
    ((classSvn s cls).1 < (classSvn s cls).2 → raisesLeft s cls = 0 →
      exec (.svnCommit cls true) s = .next (settle (elnAnswer s elnFuses)))) ∧
  (∀ (s : State) (n : Nat), exec (.getMeasurements n) s = .next (settle (emit s (.measurements (measurementsFor s n))))) ∧
  (∀ (s : State) (l st h : Nat), linkExists s l = true → st < 2 → getL s F.HPORT_LINK_STATUS_state l = 2 →
    (Tab.find? (Tab.insert s.eloan.linkKey (2 * l + st) h) (2 * l)).isSome = true →
    (Tab.find? (Tab.insert s.eloan.linkKey (2 * l + st) h) (2 * l + 1)).isSome = true →
    exec (.keyProg l st h) s = .next (settle (setL (updEloan s (fun e => { e with linkKey := Tab.insert e.linkKey (2 * l + st) h }))
      F.HPORT_LINK_STATUS_ide l 1))) ∧
  (∀ (s : State) (k : Nat), (keyOf s k).state = .scrub → s.regions.entries.any (fun e => rgnValid e.2 && rgnKey e.2 == k) = false →
    s.eloan.grants.any (fun g => g.keyId == k) = false →
    exec (.keyidFree k) s = .next (settle (updKey s k (fun _ => KeyId.unused)))) ∧
  (∀ (s : State) (root : Nat), root < 2 → s.eloan.mirrorOk = true →
    exec (.eloanOutOfStep root) s = .next (settle (elnRaise (updEloan s (fun e => { e with mirrorOk := false })) 4)))

/-- A scrub of a cluster leaves every byte of its S-space and C-space zero and unpoisoned, and no byte of any other cluster changed. -/
def Obligations.ScrubZeroesOneCluster : Prop :=
  ∀ (s : State) (c : Nat), s.eloan.scrubbing.contains c = true →
    Tab.wf (fun _ => (0 : Byte)) s.sspace = true → Tab.wf (fun _ => (0 : Byte)) s.cspace = true →
    ∃ t : State, exec (.clusterScrub c) s = .next t ∧
      (∀ a : Nat, Tab.getC 0 t.sspace a = if 16 * c * sSize ≤ a ∧ a < 16 * (c + 1) * sSize then 0 else Tab.getC 0 s.sspace a) ∧
      (∀ a : Nat, Tab.getC 0 t.cspace a = if c * cSize ≤ a ∧ a < (c + 1) * cSize then 0 else Tab.getC 0 s.cspace a) ∧
      (∀ w : Nat, w * 8 / (16 * sSize) = c → t.ras.poisonS.all (fun e => e.1 != w) = true) ∧
      t.eloan.scrubbing = s.eloan.scrubbing.filter (fun x => x != c) ∧ t.store = s.store

/-- Partitions are reset, come up or fail; rows are brought back into step; cores are fenced; a job is aborted by the manager.
The model's choices in it: log entries 74, 75. -/
def Obligations.PartitionsAndCores : Prop :=
  (∀ (s : State) (p : Nat), exec (.heartbeatLoss p) s = .next (settle (resetWith s p 0x0019 0x0017)) ∧
    exec (.partitionReset p) s = .next (settle (resetWith s p 0x0019 0))) ∧
  (∀ (s : State) (p : Nat), p < 12 → (partition s p).state = .inReset → (partition s p).failed = false →
    ((powerOf s p).tripped = false → exec (.partitionUp p) s = .next (settle (endReturn (comeUp s p) p))) ∧
    ((powerOf s p).tripped = true → exec (.partitionUp p) s = .next (settle (endReturn (updPart s p (fun y => { y with state := .asleep })) p))) ∧
    (exec (.partitionFail p) s = .next (settle (endReturn (drainDies (raise (fault
      (updPart s p (fun y => { y with failed := true, lost := true, standin := true })) { cls := 2, cause := 0x001A, page := rasPage }) rasPage 10)) p)))) ∧
  (∀ (s : State) (p r : Nat), p < 12 → partUp s p = true → (partition s p).resync = [r] → erasedCount s r < 3 →
    exec (.resync p) s = .next (settle (raise (updPart s p (fun y => { y with resync := [] })) rasPage 9))) ∧
  (∀ (s : State) (core : Nat), core < 384 → memOnly s (partOfCore core) = false → partUp s (partOfCore core) = true →
    exec (.coreFence core) s = .next (settle (fenceCore s core 0))) ∧
  (∀ (s : State) (core : Nat), core < 384 → (coreOf s core).fenced = true →
    exec (.coreUnfence core) s = .next (settle (updPart s (partOfCore core) (fun x => { x with
      unfence := if x.unfence.contains core then x.unfence else x.unfence ++ [core] })))) ∧
  (∀ (s : State) (job : Nat),
    let hs := s.tick.streams.filterMap (fun e => if e.2.budget.job = job ∧ e.2.ended.any StreamRun.abortable = true then some e.1 else none)
    hs ≠ [] → exec (.managerAbort job) s = .next (settle (hs.foldl (fun a h => abortFor a h 5 (fun _ => true))
      (fault s { cls := 2, cause := 0x001E, page := tickPage, actions := 1, detail := 5, job := job }))))

/-- Spare rows, retired frames and channels, the list of what is retired.
The model's choices in it: log entry 74. -/
def Obligations.SparesAndRetirement : Prop :=
  (∀ (s : State) (u : Nat), spareUnit u = true → 0 < Tab.getC 0 s.ras.spareLeft u →
    exec (.rowSpare u) s = .next (settle (raise (writeRecord { s with ras := { s.ras with
      spareLeft := Tab.upd 0 s.ras.spareLeft u (fun n => n - 1)
      spareUsed := Tab.upd 0 s.ras.spareUsed u (fun n => min 65535 (n + 1)) } }
      { cls := 1, cause := 0x001C, page := rasPage, actions := 64, detail := if 32 ≤ u then 1 else 0 }) rasPage 4))) ∧
  (∀ (s : State) (frames : List Nat) (f : Nat) (fs : List Nat), frames.filter (fun f => isFrame s f && !s.ras.retired.contains f) = f :: fs →
    exec (.frameRetire frames) s = .next (settle (raise (fault (retireFrames s (f :: fs))
      { cls := 2, cause := 0x001D, page := rasPage, pa := localPa s (f * 2 ^ 21) }) rasPage 5))) ∧
  (∀ (s : State) (c : Nat), c < 24 → s.ras.retiredChannels.contains c = false →
    let b := { s with ras := { s.ras with retiredChannels := s.ras.retiredChannels ++ [c] } }
    exec (.channelRetire c) s = .next (settle (raise (fault (retireFrames b (plainFrames b c))
      { cls := 2, cause := 0x001D, page := rasPage, detail := 1 }) rasPage 5))) ∧
  (∀ s : State, exec .retireNext s = .next (settle { s with ras := { s.ras with retireList := s.ras.retireList.drop 1 } }))

/-! ### Registers and the Henyen controllers (ch. 16) -/

/-- A register operation that no message in progress carries takes effect alone: it reads, or writes whole or by halves, or arms; its
answer says whether the page was ready and whether a field was clamped. Before the hub is owned every operation is refused.
The model's choices in it: log entry 80. -/
def Obligations.RegisterOperations : Prop :=
  ∀ (s : State) (page off v : Nat), page < 65536 → off % 8 = 0 → off ≤ 0xFF8 →
    let ready := pageState s page == 1
    let st (clamped : Bool) := if !ready then 4 else if clamped then 1 else 0
    let done (r : State × Bool) := settle (emit (noteMirror r.1) (.regResult (st r.2) 0))
    (henServes s = true → s.henyen.log = [] →
      exec (.read page off) s = .next (settle (emit (noteMirror s) (.regResult (st false) (readReg s page off)))) ∧
      exec (.readLo page off) s = .next (settle (emit (noteMirror s) (.regResult (st false) (readReg s page off % 2 ^ 32)))) ∧
      exec (.readHi page off) s = .next (settle (emit (noteMirror s) (.regResult (st false) (readReg s page off / 2 ^ 32)))) ∧
      exec (.write page off v) s = .next (done (writeReg s page off .both v)) ∧
      exec (.writeLo page off v) s = .next (done (writeReg s page off .lower v)) ∧
      exec (.writeHi page off v) s = .next (done (writeReg s page off .upper v)) ∧
      exec (.arm page) s = .next (done (writeReg s page 0x60 .both 1))) ∧
    (henServes s = false → ∀ i ∈ [Instr.read page off, .readLo page off, .readHi page off, .write page off v, .writeLo page off v,
        .writeHi page off v, .arm page],
      exec i s = .next (settle (addSatF s F.HEN_MCTP_refused s.henyen.active 1)))

/-- A write changes a field by its access type and no other bit: RW and RWL take the nearest legal value, W1C and W1S clear and set
what was written, RO and WO store nothing, and a locked page's RWL field keeps its value. -/
def Obligations.FieldsFollowTheirAccess : Prop :=
  ∀ (s : State) (page v old : Nat) (cl : List (Field × Nat × Nat)) (f : Field), f.lo + f.len ≤ 64 → old < 2 ^ 64 → v < 2 ^ 64 →
    let r := (writeField s page .both v (old, cl) f).1
    (∀ lo len : Nat, lo + len ≤ f.lo ∨ f.lo + f.len ≤ lo → bits r lo len = bits old lo len) ∧
    (f.access = .rw ∨ (f.access = .rwl ∧ pageLocked s page = false) →
      bits r f.lo f.len = nearest (bits v f.lo f.len) (legalRanges s f) % 2 ^ f.len) ∧
    (f.access = .rwl → pageLocked s page = true → r = old) ∧
    (f.access = .ro ∨ f.access = .wo ∨ f.access = .rws → r = old) ∧
    (f.access = .w1c → ∀ i : Nat, i < f.len → bit (bits r f.lo f.len) i = (bit (bits old f.lo f.len) i && !bit (bits v f.lo f.len) i)) ∧
    (f.access = .w1s → ∀ i : Nat, i < f.len → bit (bits r f.lo f.len) i = (bit (bits old f.lo f.len) i || bit (bits v f.lo f.len) i))

/-- The value applied in place of an illegal one is legal, no legal value is nearer to what was written, and of two equally near it is
the lower. -/
def Obligations.ClampsTakeTheNearestLegalValue : Prop :=
  ∀ (v : Nat) (rs : List (Nat × Nat)), rs ≠ [] → (∀ r ∈ rs, r.1 ≤ r.2) → rs.Pairwise (fun a b => a.2 < b.1) →
    (∃ r ∈ rs, r.1 ≤ nearest v rs ∧ nearest v rs ≤ r.2) ∧
    (∀ r ∈ rs, ∀ x : Nat, r.1 ≤ x → x ≤ r.2 →
      max v (nearest v rs) - min v (nearest v rs) ≤ max v x - min v x ∧
      (max v (nearest v rs) - min v (nearest v rs) = max v x - min v x → nearest v rs ≤ x))

/-- Writes and page operations, messages, interrupt events.
The model's choices in it: log entries 13, 80. -/
def Obligations.PagesMessagesAndEvents : Prop :=
  (∀ (s : State) (page off v : Nat), page < 65536 → exec (.registerWrite page off v) s = .next (settle (writeReg s page off .both v).1)) ∧
  (∀ (s : State) (page : Nat), pageDown s page = false → pageExists s page = true →
    exec (.clampClear page) s = .next (settle (setReg (setReg s page 0x40
      (BitVec.ofNat 64 (setBits (rawReg s page 0x40).toNat 24 1 0))) page 0x50 0)) ∧
    exec (.unstage page) s = .next (settle (setReg { s with staged := dropPage s.staged page, pendLo := dropPage s.pendLo page } page 0x60 0)) ∧
    ∀ (k : Kind) (i : Nat), pageKind page = some (k, i) → k.lockable = true →
      exec (.pageLock page) s = .next (settle (setReg s page 0x10 (rawReg s page 0x10 ||| 1)))) ∧
  (∀ (s : State) (die transport endpoint : Nat) (bs : List Byte) (m : Nat × List RegOp), die < 2 → transport < 2 →
    transportLive s die transport = true → s.eloan.owned = true → messageOps bs = some m →
    let k := die * 4 + transport
    Tab.getC 0 s.henyen.buffers k + bs.length ≤ 65536 →
    let b := updHen s (fun h => { h with sessions := if h.sessions.contains endpoint then h.sessions else h.sessions ++ [endpoint] })
    let c := addWrapF (noteMirror (updHen b (fun h => { h with
      buffers := Tab.setC 0 h.buffers k (Tab.getC 0 h.buffers k + bs.length)
      log := h.log ++ [{ die := die, transport := transport, endpoint := endpoint, seq := m.1, ops := m.2, results := [] }] })))
      F.HEN_MCTP_accepted b.henyen.active 1
    exec (.mctpReceive die transport endpoint true bs) s = .next (settle (if henServes c then skipUndefined (loggedOps c) c else c))) ∧
  (∀ (s : State) (g : Nat), s.eventsDue.contains g = true → nth false s.henyen.running s.henyen.active = true →
    exec (.intEvent g) s = .next (settle (s.henyen.sessions.foldl (fun a e => emit a (.event e g)) { s with eventsDue := s.eventsDue.erase g }))) ∧
  (∀ s : State, getF s F.HEN_CTRL_remind_ms s.henyen.active ≠ 0 → nth false s.henyen.running s.henyen.active = true →
    exec .intRemind s = .next (settle ((intSum s.pendingPages).foldl sendEvent s)))

/-- The pair of controllers: renewals and samples of the lease, the stop of the active one, the takeover; the mirror; and updates,
whose images are loaded, checked, started and rolled back.
The model's choices in it: log entries 73, 81. -/
def Obligations.ControllersAndUpdates : Prop :=
  (∀ (s : State) (a b : Bool), nth false s.henyen.running s.henyen.active = true → (a || b) = true →
    exec (.leaseRenew a b) s = .next (settle (updHen s (fun h => { h with
      cells := mapCells h.cells [a, b] (fun c => c / 2 ^ 32 * 2 ^ 32 + (c + 1) % 2 ^ 32), lastRenew := s.now })))) ∧
  (∀ (s : State) (a b : Bool), nth false s.henyen.running (1 - s.henyen.active) = true →
    exec (.leaseSample a b) s = .next (settle (updHen s (fun h => { h with
      sampled := ((h.sampled.zip h.cells).zip [a, b]).map (fun x => if x.2 then x.1.2 else x.1.1)
      lastMove := ((h.lastMove.zip (h.sampled.zip h.cells)).zip [a, b]).map (fun x =>
        if x.2 && x.1.2.1 == x.1.2.2 then x.1.1 else s.now) })))) ∧
  (∀ s : State, nth false s.henyen.running s.henyen.active = true → s.henyen.lastRenew + 8000000 ≤ s.now →
    exec .stepDown s = .next (settle (updHen s (fun h => { h with running := setNth h.running s.henyen.active false })))) ∧
  (∀ s : State, mayTakeOver s [true, true] = true →
    let b := switchActive (updHen s (fun h => { h with running := setNth h.running s.henyen.active false }))
    exec (.takeover true true) s = .next (settle (b.henyen.log.foldl finishMessage (mirrorLost (updHen b (fun h => { h with log := [] })))))) ∧
  (∀ s : State, s.henyen.mirrorOk = true →
    exec .mirrorLost s = .next (settle (raise (updHen s (fun h => { h with mirrorOk := false })) (henPage s) 1))) ∧
  (∀ (s : State) (good compatible : Bool) (version svn : Nat),
    (s.henyen.updState = 1 ∨ s.henyen.updState = 3 →
      ∀ i ∈ [Instr.updLoad good compatible version svn, .updStart, .updRollback],
        exec i s = .next (settle (setF s F.HEN_UPD_STATUS_lost s.henyen.active 1))) ∧
    (s.henyen.updState ≠ 1 → s.henyen.updState ≠ 3 →
      (good = false → exec (.updLoad good compatible version svn) s = .next (settle (updFails s 1))) ∧
      (∀ bs : List Byte, good = true → updClassOf s ≠ 0 → hubRead s (getF s F.HEN_UPD_SRC_addr s.henyen.active * 4096) 4096 = some bs →
        (svn < fusedMin s (updClassOf s) → exec (.updLoad good compatible version svn) s = .next (settle (updFails s 2))) ∧
        (fusedMin s (updClassOf s) ≤ svn →
          exec (.updLoad good compatible version svn) s = .next (settle (updHen s (fun h => { h with
            updState := 2, updCode := 0
            loaded := some { cls := updClassOf s, version := version % 2 ^ 32, svn := svn % 2 ^ 16 } }))))) ∧
      (∀ i : Image, s.henyen.loaded = some i → i.cls = updClassOf s → exec .updStart s = .next (settle (updBegin s i false))) ∧
      (∀ i : Image, s.henyen.previous = some i → i.cls = updClassOf s → fusedMin s i.cls ≤ i.svn →
        exec .updRollback s = .next (settle (updBegin s i true)))))

/-! ### Counters, samples and windows (ch. 17), power, heat, clocks and pins (ch. 19 and 20) -/

/-- The Tally: a new TID clears its counter or drops the records; a snapshot copies every counter of the page and touches no other
register; a seed reloads the generator; records are popped in order; a window's end leaves its bytes, rate and peak.
The model's choices in it: log entry 82. -/
def Obligations.CountersSamplesAndWindows : Prop :=
  (∀ (s : State) (p n v : Nat), p < 12 → n < 64 →
    let r := (writeByAccess s (tallyPage p) (0x100 + 8 * n) .both v).1
    (cfgF r p n F.TALLY_CFGn_tid = cfgF s p n F.TALLY_CFGn_tid → exec (.tallyCfgWrite p n v) s = .next (settle r)) ∧
    (cfgF r p n F.TALLY_CFGn_tid ≠ cfgF s p n F.TALLY_CFGn_tid → exec (.tallyCfgWrite p n v) s = .next (settle (clearCounter r p n)))) ∧
  (∀ (s : State) (p : Nat), s.RegsOk → p < 12 →
    ∃ t : State, exec (.snapshot p) s = .next t ∧
      (∀ n : Nat, n < 64 → rawReg t (tallyPage p) (0x500 + 8 * n) = rawReg s (tallyPage p) (0x300 + 8 * n)) ∧
      (∀ page off : Nat, page < 65536 → off < 4096 → (page ≠ tallyPage p ∨ off < 0x500 ∨ 0x700 ≤ off) → rawReg t page off = rawReg s page off) ∧
      t.tally = s.tally ∧ s.SameMemory t) ∧
  (∀ (s : State) (p v : Nat), p < 12 →
    exec (.sampleSeed p v) s = .next (settle (reload (updSampler (writeByAccess s (tallyPage p) 0x790 .both v).1 p
      (fun x => { x with lfsr := max 1 (woField s .both v F.TALLY_SAMP_SEED_seed) })) p))) ∧
  (∀ (s : State) (p v : Nat), p < 12 →
    let r := (writeByAccess s (tallyPage p) 0x788 .both v).1
    (getF r F.TALLY_SAMP_CTRL_tid p = getF s F.TALLY_SAMP_CTRL_tid p → exec (.sampCtrlWrite p v) s = .next (settle r)) ∧
    (getF r F.TALLY_SAMP_CTRL_tid p ≠ getF s F.TALLY_SAMP_CTRL_tid p → (sampler s p).records ≠ [] →
      exec (.sampCtrlWrite p v) s = .next (settle (raise (addSatF (updSampler r p (fun x => { x with records := [] }))
        F.TALLY_SAMP_STATUS_lost p (sampler s p).records.length) (tallyPage p) 2)))) ∧
  (∀ (s : State) (p : Nat), p < 12 →
    (getF s F.TALLY_SAMP_CTRL_tid p = 0 →
      exec (.samplePop p) s = .next (settle (updSampler s p (fun x => { x with records := x.records.drop 1 })))) ∧
    (getF s F.TALLY_SAMP_CTRL_tid p ≠ 0 → exec (.samplePop p) s = .next (settle s))) ∧
  (∀ (s : State) (d v : Nat), d < 2 →
    let r := (writeByAccess s (bwPage d) 0x100 .both v).1
    (getF r F.TALLY_BW_CTRL_en d = 1 → rawReg r (bwPage d) 0x100 ≠ rawReg s (bwPage d) 0x100 →
      exec (.bwCtrlWrite d v) s = .next (settle (bwRestart r d))) ∧
    (getF r F.TALLY_BW_CTRL_en d ≠ 1 → exec (.bwCtrlWrite d v) s = .next (settle r))) ∧
  (∀ (s : State) (d : Nat), d < 2 → bwDue s d = true →
    let b := addWrapF (bwAll s d (bwResult (s.now - nth 0 s.tally.windowStart d))) F.TALLY_BW_WINDOWS_windows d 1
    let c := { b with tally := { b.tally with windowStart := setNth b.tally.windowStart d s.now } }
    let x := Tab.getC BwPort.empty c.tally.bw (bwKey d (getF c F.TALLY_BW_ALARM_unit d) (getF c F.TALLY_BW_ALARM_dir d))
    (getF c F.TALLY_BW_ALARM_limit d = 0 ∨ x.rate ≤ getF c F.TALLY_BW_ALARM_limit d → exec (.bwWindowEnd d) s = .next (settle c)) ∧
    (getF c F.TALLY_BW_ALARM_limit d ≠ 0 → getF c F.TALLY_BW_ALARM_limit d < x.rate →
      exec (.bwWindowEnd d) s = .next (settle (raise c (bwPage d) 0)))) ∧
  (∀ (s : State) (d : Nat), d < 2 → exec (.peakClear d) s = .next (settle (bwAll s d (fun b => { b with peak := 0 }))))

/-- The power loops: reports, the duty and what takes its place, the sustained and the thermal checks, sensors, droops and the
calibration slots.
The model's choices in it: log entries 85, 86. -/
def Obligations.PowerLoopsAndSensors : Prop :=
  (∀ (s : State) (vin amps : Nat) (parts : List Nat), outOfService s = false → followSupply s = s →
    let b := setF (setF s F.PWR_PKG_VIN_mv 0 (min vin 65535)) F.PWR_PKG_VIN_amps 0 (min amps 4095)
    let c := (List.range 12).foldl (fun a p => partReport a p (min (nth 0 parts p) 65535)) b
    let d := updPkg c (fun k => { k with reports := (s.now, pkgPower c) :: k.reports.filter (fun r => decide (s.now < r.1 + 2000000000)) })
    outOfService d = false → exec (.powerReport vin amps parts) s = .next (settle (fastLoop d))) ∧
  (∀ (s : State) (p : Nat), p < 12 → (powerOf s p).duty < 16 → (powerOf s p).dutySince + 200000 ≤ s.now →
    let clk := pointMHz (pointNow s p) * (powerOf s p).duty / 16
    800 ≤ clk → exec (.dutyReplace p) s = .next (settle (applyPoints (updPower (setCeiling s p .power (min ((clk - 800) / 50) (ceiling s p .power))) p
      (fun y => { y with duty := 16, marginSince := none, dutyBy := 0 })) false))) ∧
  (∀ (s : State) (p t : Nat), (powerOf s p).marginSince = some t → (powerOf s p).duty < 16 →
    (t + 20000 ≤ s.now → exec (.dutyRecover p) s = .next (settle (updPower s p (fun y => { y with duty := 16, marginSince := none, dutyBy := 0 })))) ∧
    (s.now < t + 20000 → exec (.dutyRecover p) s = .next (settle s))) ∧
  (∀ s : State, 0 < s.tick.phase → s.tick.phase % 2000000 = 0 → exec .sustainedCheck s = .next (settle (applyPoints (sustainedLoop s false) false))) ∧
  (∀ (s : State) (c k d : List Int),
    let b := updPkg ((List.range 12).foldl (sensePart c k) s) (fun x => { x with dieTemp := (List.range 4).map (fun i => nth (nth 0 x.dieTemp i) d i) })
    (dieAt b 440 = false → exec (.sensorRead c k d) s = .next (settle b)) ∧
    (dieAt b 440 = true → exec (.sensorRead c k d) s = .next (settle (quiesce b true)))) ∧
  (∀ s : State,
    let b := (coredUp s).foldl neighbourStep ((coredUp s).foldl throttleStep s)
    (dieAt s 420 = false → exec .thermalCheck s = .next (settle (applyPoints b false))) ∧
    (dieAt s 420 = true → exec .thermalCheck s = .next (settle (applyPoints ((coredUp s).foldl (lowerCeiling .dieSensor) b) false)))) ∧
  (∀ (s : State) (p : Nat), p < 12 → partUp s p = true →
    let recent := s.now :: (powerOf s p).droops.filter (fun t => decide (s.now < t + 2000000))
    let b := addSatF s F.PWR_PART_DROOP_events p 1
    (recent.length < getF s F.PWR_PART_DROOP_thresh p →
      exec (.droop p) s = .next (settle (updPower b p (fun y => { y with droops := recent, lastDroop := s.now })))) ∧
    (getF s F.PWR_PART_DROOP_thresh p ≤ recent.length → (powerOf s p).margin < 10 →
      exec (.droop p) s = .next (settle (adjustLifts (raise (updPower b p (fun y => { y with
        droops := [], lastDroop := s.now, margin := min 10 (y.margin + 1) })) (pwrPage p) 3))))) ∧
  (∀ (s : State) (p : Nat), p < 12 → 0 < (powerOf s p).margin → (powerOf s p).lastDroop + 2000000000 ≤ s.now →
    exec (.droopMarginDecay p) s = .next (settle (adjustLifts (updPower s p (fun y => { y with margin := y.margin - 1, lastDroop := s.now }))))) ∧
  (∀ (s : State) (p : Nat), p < 12 → partUp s p = true → s.tick.phase = 2 * (1000 + 2000 * (p % 3)) →
    (powerOf s p).slotTime + 2000 * getF s F.PWR_PART_CAL_interval_us p ≤ tickBegan s →
    exec (.calibrationSlot p) s = .next (settle (setF (addWrapF (updPower s p (fun y => { y with
      slotDue := none, slotTemp := y.stackTemp, slotTime := s.now })) F.PWR_PART_CAL_slots p 1) F.PWR_PART_CAL_last_tick p (tickNumber s))))

/-- The supply, the reference clocks and the pins: a dip and a surge are noted, a lost reference is switched or ends service, a land
changes its function only when the old one is idle or its time is over.
The model's choices in it: log entries 88, 93. -/
def Obligations.SupplyClocksAndPins : Prop :=
  (∀ (s : State) (mv : Nat), s.pkg.state = .normal → s.pkg.dips = [] → s.pkg.dipStart = none → s.pkg.below9 = none → s.pkg.surgeStart = none →
    10800 ≤ s.pkg.vin → s.pkg.vin ≤ 13200 →
    (9000 ≤ mv → mv < 10800 → exec (.vinChange mv) s = .next (settle (addSatF (raise (updPkg (setVin s mv) (fun k => { k with state := .dip }))
      pkgPage 0) F.PWR_PKG_DIP_dips 0 1))) ∧
    (10800 ≤ mv → mv ≤ 13200 → exec (.vinChange mv) s = .next (settle (setVin s mv))) ∧
    (13200 < mv → mv ≤ 14000 → exec (.vinChange mv) s = .next (settle (raise (updPkg (setVin s mv) (fun k => { k with state := .surge })) pkgPage 4))) ∧
    (14000 < mv → exec (.vinChange mv) s = .next (settle (stopHub (setVin s mv) false)))) ∧
  (∀ (s : State) (b : Bool),
    (refPresent s b = true → refPresent s (!b) = false →
      exec (.refClockLost b) s = .next (settle (quiesce (raise (setRef s b false) clkPage 0) false))) ∧
    (refPresent s b = true → refPresent s (!b) = true → s.clocks.onB = b →
      exec (.refClockLost b) s = .next (settle (switchRef (raise (setRef s b false) clkPage 0)))) ∧
    (refPresent s b = true → refPresent s (!b) = true → s.clocks.onB ≠ b →
      exec (.refClockLost b) s = .next (settle (raise (setRef s b false) clkPage 0))) ∧
    (refPresent s b = true → s.clocks.onB ≠ b → exec (.refSelect b) s = .next (settle (switchRef (setF s F.CLK_REF_SEL_prefer_b 0 (b2n b))))) ∧
    (refPresent s b = false → refPresent s (!b) = true → exec (.refClockReturn b) s = .next (settle (setRef s b true)))) ∧
  (∀ (s : State) (pll : Nat), pll < 17 → exec (.pllLockLost pll) s = .next (settle (raise (setF s (lockBit pll) 0 0) clkPage 1))) ∧
  (∀ (s : State) (d v : Nat), d < 2 → exec (.pinFuncWrite d v) s = .next (settle
    ((List.range 12).foldl (fun a j => requestFunction a (12 * d + j) (bits (v % 2 ^ 64) (4 * j) 4)) s))) ∧
  (∀ (s : State) (l f : Nat), l < 24 → (offered l).contains f = true → f ≠ (landOf s l).wanted → (landOf s l).state = 0 →
    alwaysIdle (landOf s l).active = false →
    (landOf (requestFunction s l f) l).state = 2 ∧ (landOf (requestFunction s l f) l).active = (landOf s l).active ∧
      (landOf (requestFunction s l f) l).wanted = f ∧ (landOf (requestFunction s l f) l).since = s.now) ∧
  (∀ (s : State) (l : Nat), l < 24 →
    ((landOf s l).state = 1 → (landOf s l).dueAt ≤ s.now →
      exec (.functionSwitch l) s = .next (settle (raise (setLand s l { landOf s l with active := (landOf s l).wanted, state := 0 }) pinsPage 0))) ∧
    ((landOf s l).state = 2 → exec (.oldFunctionIdle l) s = .next (settle (setLand s l { landOf s l with state := 1, tz := s.now + 100 }))) ∧
    ((landOf s l).state = 2 → (landOf s l).since + 2000000 ≤ s.now →
      exec (.switchAbandon l) s = .next (settle (raise (setLand s l { landOf s l with state := 1, tz := s.now + 100 }) pinsPage 1))) ∧
    ((landOf s l).state = 2 → s.now < (landOf s l).since + 2000000 → exec (.switchAbandon l) s = .next (settle s)) ∧
    (∀ level : Bool, underFunction s l 0 = true → s.pins.vio = true →
      let r : FRef := { page := pinsPage, off := 0x120, lo := l, len := 1 }
      (getF s r 0 ≠ b2n level → exec (.gpioInputChange l level) s = .next (settle (raise (setF s r 0 (b2n level)) pinsPage 3))) ∧
      (getF s r 0 = b2n level → exec (.gpioInputChange l level) s = .next (settle s)))) ∧
  (∀ (s : State) (b : Bool), exec (.vioChange b) s = .next (settle { s with pins := { s.pins with vio := b } }))

/-! ### Start-up, the domain and resets (ch. 18) -/

/-- Domain messages: a hub that serves them answers BAD_STATE, BUSY or BAD_ARG for what does not fit and else forms, joins and leaves
a domain, forgets a hub, sets the warm area, puts partitions to sleep and wakes them; without an owner each is refused.
The model's choices in it: log entry 92. -/
def Obligations.DomainMessages : Prop :=
  (∀ (s : State) (dom hub : Nat), ServesDomain s →
    (joined s = true → exec (.form dom hub) s = .next (settle (domainAnswer s domBadState))) ∧
    (joined s = false → anyRegion s = true → exec (.form dom hub) s = .next (settle (domainAnswer s domBusy))) ∧
    (joined s = false → anyRegion s = false → otherRecord s hub = false → dom ≠ 0 → dom < 2 ^ 64 → hub ≤ 1023 →
      exec (.form dom hub) s = .next (settle (domainAnswer (joinDomain s dom hub true) domSuccess)) ∧
      (inRejoin s = false → exec (.join dom hub) s = .next (settle (domainAnswer (joinDomain s dom hub false) domSuccess)))) ∧
    (inRejoin s = true → joined s = true → dom ≠ 0 → dom < 2 ^ 64 → hub = hubId s → hub ≤ 1023 →
      exec (.join dom hub) s = .next (settle (domainAnswer (joinDomain (advanceEpochs s) dom hub false) domSuccess)))) ∧
  (∀ s : State, ServesDomain s →
    (joined s = false → exec .leave s = .next (settle (domainAnswer s domBadState))) ∧
    (joined s = true → stillInUse s = true → exec .leave s = .next (settle (domainAnswer s domBusy))) ∧
    (joined s = true → stillInUse s = false → exec .leave s = .next (settle (domainAnswer (leaveDomain s) domSuccess)))) ∧
  (∀ (s : State) (hub : Nat), ServesDomain s →
    (hub ≤ 1023 → hub ≠ hubId s → exec (.forget hub) s = .next (settle (domainAnswer (forgetHub s hub) domSuccess))) ∧
    (hub = hubId s → exec (.forget hub) s = .next (settle (domainAnswer s domBadArg)))) ∧
  (∀ (s : State) (frame r : Nat), ServesDomain s → frame ≠ 0 → areaRegion s frame = some r →
    exec (.warmArea frame) s = .next (settle (domainAnswer { s with startup := { s.startup with
      warmArea := some (frame, rgnKey (regionEntry s r)), warmA := none, warmB := none } } domSuccess)) ∧
    exec (.warmArea 0) s = .next (settle (domainAnswer { s with startup := { s.startup with
      warmArea := none, warmA := none, warmB := none } } domSuccess))) ∧
  (∀ (s : State) (p : Nat), ServesDomain s → p < 12 →
    (partUp s p = true → partBusy s p = false → exec (.sleep p) s = .next (settle (domainAnswer
      (updPart (leaveUp s p) p (fun x => { x with state := .asleep })) domSuccess))) ∧
    (partUp s p = true → partBusy s p = true → exec (.sleep p) s = .next (settle (domainAnswer s domBusy))) ∧
    ((partition s p).state = .asleep → exec (.wake p) s = .next (settle
      (let b := updPart s p (fun x => { x with state := .inReset })
       { b with startup := { b.startup with waitingPower := (p, 2) :: b.startup.waitingPower } }))) ∧
    (partUp s p = true → exec (.wake p) s = .next (settle (domainAnswer s domBadState)))) ∧
  (∀ s : State, nth false s.henyen.running s.henyen.active = true →
    (s.eloan.owned = true → exec .status s = .next (settle (emit s
      (.domainAnswer domSuccess [s.startup.phase.code, hubId s, s.startup.domain, lockOf s])))) ∧
    (s.eloan.owned = false → ∀ i ∈ [Instr.status, .form 1 1, .join 1 1, .leave, .forget 1, .warmArea 1, .warmReset [], .sleep 0, .wake 0],
      exec i s = .next (settle (refuseMessage s))))

/-- Start-up and resets: a hub with power starts the verified image with the highest version and brings its partitions up; a cold reset keeps what is
fused, on the board and outside; a warm reset answers first, and a quiesced hub returns by one.
The model's choices in it: log entries 77, 87, 89, 90. -/
def Obligations.StartUpAndResets : Prop :=
  (∀ (s : State) (failed channels : List Nat) (slot : Nat), supplyGood s = true → s.startup.phase = .starting →
    let b := { coldReset s with pins := { s.pins with lands := [], vstby := true, coldResetLow := false }, eloan := { fusedEloan s.eloan with mirrorOk := true } }
    bestSlot b = some slot →
    exec (.coldStart failed channels) s = .next (settle (bringUp b slot failed channels)) ∧
      (bringUp b slot failed channels).startup.phase = .ready) ∧
  (∀ s : State, ∃ t : State, (∀ i ∈ [Instr.vstbyLost, .coldResetPin], ∃ u : State, exec i s = .next u ∧
        { u with pins := t.pins } = t) ∧
      t.store = [] ∧ t.regs = [] ∧ t.sspace = [] ∧ t.cspace = [] ∧ t.regions = State.reset.regions ∧ t.tick = State.reset.tick ∧
      t.threads = [] ∧ t.queues = [] ∧ t.eloan.keys = [] ∧ t.eloan.tenants = [] ∧ t.startup = State.reset.startup ∧ t.now = 0 ∧
      t.fuse = s.fuse ∧ t.board = s.board ∧ t.clocks = s.clocks ∧ t.eloan.owned = s.eloan.owned ∧ t.eloan.ownerHash = s.eloan.ownerHash ∧
      t.eloan.minHenyen = s.eloan.minHenyen ∧ t.pins.vio = s.pins.vio) ∧
  (∀ s : State, (∀ t : State, exec .vstbyLost s = .next t → t.pins.vstby = false) ∧
    (∀ t : State, exec .coldResetPin s = .next t → t.pins.coldResetLow = true)) ∧
  (∀ (s : State) (failed : List Nat), ServesDomain s →
    (s.henyen.updState ≠ 1 → s.henyen.updState ≠ 3 →
      exec (.warmReset failed) s = .next (settle (warmReset (domainAnswer s domSuccess) failed))) ∧
    (s.henyen.updState = 1 → exec (.warmReset failed) s = .next (settle (domainAnswer s domBusy)))) ∧
  (∀ (s : State) (failed : List Nat) (t : Nat), s.pkg.state = .quiesced → s.pkg.above114 = some t → s.pkg.below75 = false →
    (t + 20000000 ≤ s.now → exec (.quiescedRestart failed) s = .next (settle (warmReset s failed))) ∧
    (s.now < t + 20000000 → exec (.quiescedRestart failed) s = .next (settle s)))

/-! ### The machine right after reset, and what every step keeps -/

/-- Right after reset: no command waits, nothing is stored, every register holds its reset value, the hub is unowned and in start-up,
partitions are in reset with their objects free, no key is assigned, ports are disabled, the supply and both references are good,
and the pages shown pending are those that INT_RAW and INT_MASK give.
The model's choices in it: log entries 5, 6, 8, 9, 10. -/
def Obligations.ResetLeaves : Prop :=
  State.reset.pending = [] ∧ (∀ off : Nat, storeByte State.reset off = 0) ∧ (∀ page off : Nat, rawReg State.reset page off = regReset (regKey page off)) ∧
    State.reset.startup.phase = .starting ∧ State.reset.eloan.owned = false ∧
    (∀ p : Nat, (partition State.reset p).state = .inReset) ∧ (∀ k : Nat, (keyOf State.reset k).state = .free) ∧
    (∀ n : Nat, (port State.reset n).state = .disabled) ∧ (∀ k : Nat, syncObj State.reset k = SyncObj.empty) ∧
    State.reset.pkg.state = .normal ∧ State.reset.clocks = { refA := true, refB := true, onB := false } ∧
    State.reset.henyen.running = [false, false] ∧ State.reset.Settled ∧ State.reset.RegsOk ∧ State.reset.StoreOk

/-- Every step keeps the pending pages settled: after it a page is shown pending exactly when its INT_RAW and INT_MASK make it so (R564,
R574), whatever command ran. -/
def Obligations.EveryStepKeepsPagesSettled : Prop :=
  ∀ s t : State, s.Settled → step s = .next t → t.Settled

/-! ### Arithmetic, coding and parity over all values -/

/-- R152, R153: a term joins the sum as an exact integer that saturates at 160 bits and is then marked; and when every operand respects
its bound and the anchor is derived, no partial sum saturates, and the sum is the same for every order of addition and for every
split of the reduction. -/
def Obligations.ExactSumsIgnoreOrderAndSplit : Prop :=
  (∀ (p : Partial) (n : Bool) (m : Nat) (e : Int),
    let z := p.x + floorAt n m e (p.anchor - 158)
    let q := p.addTerm (.fin n m e)
    (z > 2 ^ 159 - 1 → q = { p with x := 2 ^ 159 - 1, sat := true }) ∧ (z < -(2 ^ 159) → q = { p with x := -(2 ^ 159), sat := true }) ∧
      (-(2 ^ 159) ≤ z → z ≤ 2 ^ 159 - 1 → q = { p with x := z })) ∧
  (∀ (ea eb : Int) (ktot : Nat) (ps : List (FV × FV)), 0 < ktot → ktot < 2 ^ 32 → ps.length ≤ ktot →
    (∀ p ∈ ps, breaksBound ea p.1 = false ∧ breaksBound eb p.2 = false) →
    let cell (l : List (FV × FV)) : Partial := cellExact (Partial.zero (ea + eb + 1 + (clog2 ktot : Int))) (l.map Prod.fst) (l.map Prod.snd)
    (cell ps).sat = false ∧ (∀ qs : List (FV × FV), ps.Perm qs → cell qs = cell ps) ∧
      (∀ l r : List (FV × FV), ps = l ++ r → (cell l).sat = false ∧ (cell r).sat = false ∧ (cell l).add (cell r) = cell ps))

/-- The lengths that a sample gives are a code (R189, R190): 256 lengths from 1 to 12 whose codes fit in 12 bits. -/
def Obligations.SampleLengthsMakeACode : Prop :=
  ∀ sample : List Byte, sample ≠ [] →
    (codeLengths sample).length = 256 ∧ (∀ l ∈ codeLengths sample, 1 ≤ l ∧ l ≤ 12) ∧
      ((codeLengths sample).map (fun l => 2 ^ (12 - l))).foldl (· + ·) 0 ≤ 4096

/-- A segment coded under any table set of its planes expands to itself, stored or coded, padded to a bin or not; a stored one needs
no tables (R190, R192, R202). -/
def Obligations.CodedSegmentsExpandToThemselves : Prop :=
  ∀ (code bin : Nat) (ts : List (List Nat)) (bs : List Byte), 1 ≤ code → code ≤ 5 → bin ≤ 4 → ts.length = planesOf code →
    (∀ t ∈ ts, t.length = 256 ∧ (∀ l ∈ t, 1 ≤ l ∧ l ≤ 12) ∧ (t.map (fun l => 2 ^ (12 - l))).foldl (· + ·) 0 ≤ 4096) →
    1 ≤ bs.length → bs.length ≤ 4096 →
    expandSegment (some ts) (codeSegment code bin ts bs) = some bs ∧ expandSegment none (storedSegment code bin bs) = some bs

/-- A guarded line's erased block is rebuilt to the byte the store holds from any 22 of the stripe's 24 blocks, and from no fewer
(R539).
The model's choices in it: log entry 43. -/
def Obligations.ErasedBlocksAreRebuilt : Prop :=
  ∀ (s : State) (off : Nat) (f : FarSlot), farSlot s off = some f → f.guarded = true → ownErased s f = true →
    (erasedCount s f.frame ≤ 2 → rebuiltByte s f = some (storeByte s off)) ∧
    (3 ≤ erasedCount s f.frame → rebuiltByte s f = none)

/-- A change to one data byte changes P by its delta and Q by g^i times the delta; deltas of two blocks commute (R537).
The model's choices in it: log entry 43. -/
def Obligations.ParityFollowsDeltas : Prop :=
  ∀ (ds : List Byte) (i : Nat) (d : Byte), i < ds.length →
    parityP (setNth ds i d) = parityP ds ^^^ (nth 0 ds i ^^^ d) ∧
    parityQ 0 (setNth ds i d) = parityQ 0 ds ^^^ gfShift i (nth 0 ds i ^^^ d) ∧
    (∀ (j : Nat) (e : Byte), j < ds.length → i ≠ j →
      parityQ 0 (setNth (setNth ds i d) j e) = parityQ 0 (setNth (setNth ds j e) i d) ∧
      parityP (setNth (setNth ds i d) j e) = parityP (setNth (setNth ds j e) i d))
end

