-- ==== Sys2Proof/Laws/Tab.lean ====
section
/-! SUPPORT. Laws of tables: a read after a write, and the canonical form, which every write keeps. -/

namespace Sys2Proof.Machine

theorem Tab.find?_insert_same {α : Type} (t : Tab α) (k : Nat) (x : α) : Tab.find? (Tab.insert t k x) k = some x := by
  induction t with
  | nil => simp [Tab.insert, Tab.find?]
  | cons e t ih =>
    simp only [Tab.insert]
    split
    · simp [Tab.find?]
    · split
      · simp [Tab.find?]
      · simp [Tab.find?, *]

theorem Tab.find?_insert_other {α : Type} (t : Tab α) {k j : Nat} (x : α) (h : j ≠ k) :
    Tab.find? (Tab.insert t k x) j = Tab.find? t j := by
  induction t with
  | nil => simp [Tab.insert, Tab.find?, h]
  | cons e t ih =>
    obtain ⟨i, v⟩ := e
    simp only [Tab.insert]
    split
    · simp only [Tab.find?, h, if_false]
      split
      · rw [if_pos (by omega)]
      · rfl
    · split
      · subst_vars
        simp only [Tab.find?, h, if_false]
      · simp only [Tab.find?, ih]

/-- A key below everything listed is not listed. -/
theorem Tab.find?_below {α : Type} (t : Tab α) {b k : Nat} (h : Tab.risesFrom b t = true) (hk : k < b) : Tab.find? t k = none := by
  cases t with
  | nil => rfl
  | cons e t =>
    simp only [Tab.risesFrom, Bool.and_eq_true, decide_eq_true_eq] at h
    simp only [Tab.find?]
    rw [if_pos (by omega)]

theorem Tab.risesFrom_mono {α : Type} (t : Tab α) {a b : Nat} (h : Tab.risesFrom b t = true) (hab : a ≤ b) :
    Tab.risesFrom a t = true := by
  cases t with
  | nil => rfl
  | cons e t =>
    simp only [Tab.risesFrom, Bool.and_eq_true, decide_eq_true_eq] at *
    exact ⟨by omega, h.2⟩

theorem Tab.find?_erase_same {α : Type} (t : Tab α) {b : Nat} (k : Nat) (h : Tab.risesFrom b t = true) :
    Tab.find? (Tab.erase t k) k = none := by
  induction t generalizing b with
  | nil => rfl
  | cons e t ih =>
    obtain ⟨j, v⟩ := e
    simp only [Tab.risesFrom, Bool.and_eq_true, decide_eq_true_eq] at h
    simp only [Tab.erase]
    split
    · simp [Tab.find?, *]
    · split
      · subst_vars; exact Tab.find?_below t h.2 (by omega)
      · simp only [Tab.find?, *, if_false]
        exact ih h.2

theorem Tab.find?_erase_other {α : Type} (t : Tab α) {b k j : Nat} (h : Tab.risesFrom b t = true) (hj : j ≠ k) :
    Tab.find? (Tab.erase t k) j = Tab.find? t j := by
  induction t generalizing b with
  | nil => rfl
  | cons e t ih =>
    obtain ⟨i, v⟩ := e
    simp only [Tab.risesFrom, Bool.and_eq_true, decide_eq_true_eq] at h
    simp only [Tab.erase]
    split
    · rfl
    · split
      · subst_vars
        simp only [Tab.find?, hj, if_false]
        split
        · exact Tab.find?_below t h.2 (by omega)
        · rfl
      · simp only [Tab.find?, ih h.2]

/-! ### The canonical form -/

theorem Tab.risesFrom_insert {α : Type} (t : Tab α) {b k : Nat} (x : α) (h : Tab.risesFrom b t = true) (hk : b ≤ k) :
    Tab.risesFrom b (Tab.insert t k x) = true := by
  induction t generalizing b with
  | nil => simp [Tab.insert, Tab.risesFrom, hk]
  | cons e t ih =>
    obtain ⟨j, v⟩ := e
    simp only [Tab.risesFrom, Bool.and_eq_true, decide_eq_true_eq] at h
    simp only [Tab.insert]
    split
    · simp only [Tab.risesFrom, Bool.and_eq_true, decide_eq_true_eq]
      exact ⟨hk, by omega, h.2⟩
    · split
      · subst_vars
        simp only [Tab.risesFrom, Bool.and_eq_true, decide_eq_true_eq]
        exact h
      · simp only [Tab.risesFrom, Bool.and_eq_true, decide_eq_true_eq]
        exact ⟨h.1, ih h.2 (by omega)⟩

theorem Tab.risesFrom_erase {α : Type} (t : Tab α) {b : Nat} (k : Nat) (h : Tab.risesFrom b t = true) :
    Tab.risesFrom b (Tab.erase t k) = true := by
  induction t generalizing b with
  | nil => rfl
  | cons e t ih =>
    obtain ⟨j, v⟩ := e
    have h' := h
    simp only [Tab.risesFrom, Bool.and_eq_true, decide_eq_true_eq] at h
    simp only [Tab.erase]
    split
    · exact h'
    · split
      · exact Tab.risesFrom_mono t h.2 (by omega)
      · simp only [Tab.risesFrom, Bool.and_eq_true, decide_eq_true_eq]
        exact ⟨h.1, ih h.2⟩

theorem Tab.all_insert {α : Type} (p : Nat × α → Bool) (t : Tab α) (k : Nat) (x : α) (h : t.all p = true) (hx : p (k, x) = true) :
    (Tab.insert t k x).all p = true := by
  induction t with
  | nil => simp [Tab.insert, hx]
  | cons e t ih =>
    simp only [List.all_cons, Bool.and_eq_true] at h
    simp only [Tab.insert]
    split
    · simp [hx, h.1]; exact List.all_eq_true.mp h.2 |> fun q a b hb => q (a, b) hb
    · split
      · simp [hx]; exact List.all_eq_true.mp h.2 |> fun q a b hb => q (a, b) hb
      · simp only [List.all_cons, Bool.and_eq_true]
        exact ⟨h.1, ih h.2⟩

theorem Tab.all_erase {α : Type} (p : Nat × α → Bool) (t : Tab α) (k : Nat) (h : t.all p = true) : (Tab.erase t k).all p = true := by
  induction t with
  | nil => rfl
  | cons e t ih =>
    have h' := h
    simp only [List.all_cons, Bool.and_eq_true] at h
    simp only [Tab.erase]
    split
    · exact h'
    · split
      · exact h.2
      · simp only [List.all_cons, Bool.and_eq_true]
        exact ⟨h.1, ih h.2⟩

/-- Every write keeps the canonical form. -/
theorem Tab.wf_set {α : Type} [DecidableEq α] (d : Nat → α) (t : Tab α) (k : Nat) (x : α) (h : Tab.wf d t = true) :
    Tab.wf d (Tab.set d t k x) = true := by
  simp only [Tab.wf, Bool.and_eq_true] at *
  simp only [Tab.set]
  split
  · exact ⟨Tab.risesFrom_erase t k h.1, Tab.all_erase _ t k h.2⟩
  · refine ⟨Tab.risesFrom_insert t x h.1 (by omega), Tab.all_insert _ t k x h.2 (by simpa using ‹_›)⟩

theorem Tab.get_set_same {α : Type} [DecidableEq α] (d : Nat → α) (t : Tab α) (k : Nat) (x : α) (h : Tab.wf d t = true) :
    Tab.get d (Tab.set d t k x) k = x := by
  simp only [Tab.wf, Bool.and_eq_true] at h
  simp only [Tab.get, Tab.set]
  split
  · rw [Tab.find?_erase_same t k h.1]; simp [*]
  · rw [Tab.find?_insert_same]; rfl

theorem Tab.get_set_other {α : Type} [DecidableEq α] (d : Nat → α) (t : Tab α) {k j : Nat} (x : α) (h : Tab.wf d t = true) (hj : j ≠ k) :
    Tab.get d (Tab.set d t k x) j = Tab.get d t j := by
  simp only [Tab.wf, Bool.and_eq_true] at h
  simp only [Tab.get, Tab.set]
  split
  · rw [Tab.find?_erase_other t h.1 hj]
  · rw [Tab.find?_insert_other t x hj]

end Sys2Proof.Machine
end

