-- ==== Sys2Proof/Laws/Memory.lean ====
section
/-! SUPPORT. Laws of the byte memories: every operation that writes one keeps its form, and a byte reads as it was last written. -/

namespace Sys2Proof.Machine

theorem putBytes_wf (t : Tab Byte) (a : Nat) (bs : List Byte) (h : Memory.wf t = true) : Memory.wf (putBytes t a bs) = true := by
  induction bs generalizing t a with
  | nil => exact h
  | cons b bs ih => exact ih _ _ (Tab.wf_set _ _ _ _ h)

theorem Tab.risesFrom_filter {α : Type} (p : Nat × α → Bool) (t : Tab α) {b : Nat} (h : Tab.risesFrom b t = true) :
    Tab.risesFrom b (t.filter p) = true := by
  induction t generalizing b with
  | nil => rfl
  | cons e t ih =>
    simp only [Tab.risesFrom, Bool.and_eq_true, decide_eq_true_eq] at h
    simp only [List.filter]
    split
    · simp only [Tab.risesFrom, Bool.and_eq_true, decide_eq_true_eq]
      exact ⟨h.1, ih h.2⟩
    · exact Tab.risesFrom_mono _ (ih h.2) (by omega)

theorem zeroSpan_wf (t : Tab Byte) (lo n : Nat) (h : Memory.wf t = true) : Memory.wf (zeroSpan t lo n) = true := by
  simp only [Memory.wf, Tab.wf, Bool.and_eq_true] at *
  refine ⟨Tab.risesFrom_filter _ t h.1, ?_⟩
  rw [List.all_eq_true] at *
  intro e he
  exact h.2 e (List.mem_of_mem_filter he)

theorem foldl_store {β : Type} (l : List β) (g : State → β → State) (hg : ∀ a p, (g a p).store = a.store) (a : State) :
    (l.foldl g a).store = a.store := by
  induction l generalizing a with
  | nil => rfl
  | cons x l ih => rw [List.foldl_cons, ih, hg]

theorem markResync_store (s : State) (off : Nat) : (markResync s off).store = s.store := by
  simp only [markResync]
  cases farSlot s off with
  | none => rfl
  | some f =>
    cases hf : f.guarded
    · simp [hf]
    · simp only [hf, Bool.not_true, Bool.false_eq_true, if_false]
      refine foldl_store _ _ (fun a p => ?_) s
      by_cases h : (partUp a p && !(partition a p).resync.contains f.frame) = true
      · rw [if_pos h]
      · rw [if_neg h]; rfl

theorem storeWrite_store (s : State) (off : Nat) (bs : List Byte) : (storeWrite s off bs).store = putBytes s.store off bs := by
  simp only [storeWrite]
  rw [foldl_store _ _ (fun a l => markResync_store a (l * 64))]
  rfl

/-- A write of the store keeps its form. -/
theorem storeWrite_wf (s : State) (off : Nat) (bs : List Byte) (h : Memory.wf s.store = true) : Memory.wf (storeWrite s off bs).store = true := by
  rw [storeWrite_store]; exact putBytes_wf _ _ _ h

/-- A byte outside what is written reads as before. -/
theorem putBytes_outside (t : Tab Byte) (a k : Nat) (bs : List Byte) (h : Memory.wf t = true) (hk : k < a ∨ a + bs.length ≤ k) :
    Tab.getC 0 (putBytes t a bs) k = Tab.getC 0 t k := by
  induction bs generalizing t a with
  | nil => rfl
  | cons b bs ih =>
    simp only [List.length_cons] at hk
    simp only [putBytes]
    rw [ih _ _ (Tab.wf_set _ _ _ _ h) (by omega)]
    exact Tab.get_set_other _ _ _ h (by omega)

/-- A byte that is written reads as written. -/
theorem putBytes_inside (t : Tab Byte) (a i : Nat) (bs : List Byte) (h : Memory.wf t = true) (hi : i < bs.length) :
    Tab.getC 0 (putBytes t a bs) (a + i) = bs[i] := by
  induction bs generalizing t a i with
  | nil => simp at hi
  | cons b bs ih =>
    simp only [putBytes]
    cases i with
    | zero =>
      rw [putBytes_outside _ _ _ _ (Tab.wf_set _ _ _ _ h) (by omega)]
      exact Tab.get_set_same _ _ _ _ h
    | succ i =>
      have := ih (Tab.setC 0 t a b) (a + 1) i (Tab.wf_set _ _ _ _ h) (by simpa using hi)
      rw [show a + (i + 1) = a + 1 + i by omega, this]; rfl

end Sys2Proof.Machine
end

