-- ==== Sys2Proof/Laws/Registers.lean ====
section
/-! SUPPORT. Laws of the register pages: a field read after a write of it, of another field, of another register; the table of
registers keeps its form. -/

namespace Sys2Proof.Machine

theorem bits_setBits_same (w lo len v : Nat) : bits (setBits w lo len v) lo len = v % 2 ^ len := by
  have hlo := Nat.two_pow_pos lo
  have h1 : w % 2 ^ lo < 2 ^ lo := Nat.mod_lt _ hlo
  simp only [bits, setBits, pow_add]
  have e : w % 2 ^ lo + v % 2 ^ len * 2 ^ lo + w / (2 ^ lo * 2 ^ len) * (2 ^ lo * 2 ^ len) =
      2 ^ lo * (v % 2 ^ len + 2 ^ len * (w / (2 ^ lo * 2 ^ len))) + w % 2 ^ lo := by ring
  rw [e, Nat.mul_add_div hlo, Nat.div_eq_of_lt h1, Nat.add_zero, Nat.add_mul_mod_self_left, Nat.mod_mod]

/-- A field below the one that is set. -/
theorem bits_setBits_below (w lo len v l n : Nat) (h : l + n ≤ lo) : bits (setBits w lo len v) l n = bits w l n := by
  obtain ⟨d, rfl⟩ := Nat.exists_eq_add_of_le h
  simp only [bits, setBits]
  have hl := Nat.two_pow_pos l
  have e : w % 2 ^ (l + n + d) + v % 2 ^ len * 2 ^ (l + n + d) + w / 2 ^ (l + n + d + len) * 2 ^ (l + n + d + len) =
      w % 2 ^ (l + n + d) + 2 ^ l * (2 ^ n * (2 ^ d * (v % 2 ^ len + w / 2 ^ (l + n + d + len) * 2 ^ len))) := by
    simp only [pow_add]; ring
  rw [e, Nat.add_mul_div_left _ _ hl, Nat.add_mul_mod_self_left]
  have : w % 2 ^ (l + n + d) / 2 ^ l % 2 ^ n = w / 2 ^ l % 2 ^ n := by
    rw [show l + n + d = l + (n + d) by omega, pow_add, Nat.mod_mul_right_div_self, pow_add, Nat.mod_mul_right_mod]
  exact this

/-- A field above the one that is set. -/
theorem bits_setBits_above (w lo len v l n : Nat) (h : lo + len ≤ l) : bits (setBits w lo len v) l n = bits w l n := by
  obtain ⟨d, rfl⟩ := Nat.exists_eq_add_of_le h
  simp only [bits, setBits]
  congr 1
  have h1 : w % 2 ^ lo + v % 2 ^ len * 2 ^ lo < 2 ^ (lo + len) := by
    have a : w % 2 ^ lo < 2 ^ lo := Nat.mod_lt _ (Nat.two_pow_pos lo)
    have b : v % 2 ^ len < 2 ^ len := Nat.mod_lt _ (Nat.two_pow_pos len)
    have c : (v % 2 ^ len + 1) * 2 ^ lo ≤ 2 ^ len * 2 ^ lo := Nat.mul_le_mul_right _ b
    rw [pow_add]
    calc w % 2 ^ lo + v % 2 ^ len * 2 ^ lo < 2 ^ lo + v % 2 ^ len * 2 ^ lo := by omega
      _ = (v % 2 ^ len + 1) * 2 ^ lo := by ring
      _ ≤ _ := by rw [Nat.mul_comm (2 ^ lo)]; exact c
  rw [pow_add (2) (lo + len) d, ← Nat.div_div_eq_div_mul, ← Nat.div_div_eq_div_mul, Nat.add_mul_div_right _ _ (Nat.two_pow_pos _),
    Nat.div_eq_of_lt h1, Nat.zero_add]

/-- A register's field set never outgrows 64 bits. -/
theorem setBits_lt (w lo len v : Nat) (hw : w < 2 ^ 64) (h : lo + len ≤ 64) : setBits w lo len v < 2 ^ 64 := by
  simp only [setBits]
  have h1 : w % 2 ^ lo + v % 2 ^ len * 2 ^ lo < 2 ^ (lo + len) := by
    have a : w % 2 ^ lo < 2 ^ lo := Nat.mod_lt _ (Nat.two_pow_pos lo)
    have b : v % 2 ^ len < 2 ^ len := Nat.mod_lt _ (Nat.two_pow_pos len)
    have c : (v % 2 ^ len + 1) * 2 ^ lo ≤ 2 ^ len * 2 ^ lo := Nat.mul_le_mul_right _ b
    rw [pow_add, Nat.mul_comm (2 ^ lo)]
    calc w % 2 ^ lo + v % 2 ^ len * 2 ^ lo < 2 ^ lo + v % 2 ^ len * 2 ^ lo := by omega
      _ = (v % 2 ^ len + 1) * 2 ^ lo := by ring
      _ ≤ _ := c
  obtain ⟨d, hd⟩ := Nat.exists_eq_add_of_le h
  have h2 : w / 2 ^ (lo + len) < 2 ^ d := by
    rw [Nat.div_lt_iff_lt_mul (Nat.two_pow_pos _), ← pow_add, Nat.add_comm, ← hd]; exact hw
  have h3 : (w / 2 ^ (lo + len) + 1) * 2 ^ (lo + len) ≤ 2 ^ d * 2 ^ (lo + len) := Nat.mul_le_mul_right _ h2
  rw [← pow_add, Nat.add_comm d, ← hd] at h3
  calc _ < 2 ^ (lo + len) + w / 2 ^ (lo + len) * 2 ^ (lo + len) := by omega
    _ = (w / 2 ^ (lo + len) + 1) * 2 ^ (lo + len) := by ring
    _ ≤ _ := h3

/-! ### Registers -/

theorem rawReg_setReg_same (s : State) (page off : Nat) (v : W64) (h : Tab.wf regReset s.regs = true) :
    rawReg (setReg s page off v) page off = v := Tab.get_set_same _ _ _ _ h

theorem rawReg_setReg_other (s : State) (page off page' off' : Nat) (v : W64) (h : Tab.wf regReset s.regs = true)
    (hk : regKey page' off' ≠ regKey page off) : rawReg (setReg s page off v) page' off' = rawReg s page' off' :=
  Tab.get_set_other _ _ _ h hk

theorem setReg_regsOk (s : State) (page off : Nat) (v : W64) (h : Tab.wf regReset s.regs = true) :
    Tab.wf regReset (setReg s page off v).regs = true := Tab.wf_set _ _ _ _ h

theorem setF_regsOk (s : State) (r : FRef) (inst v : Nat) (h : Tab.wf regReset s.regs = true) :
    Tab.wf regReset (setF s r inst v).regs = true := setReg_regsOk _ _ _ _ h

theorem raise_regsOk (s : State) (page b : Nat) (h : Tab.wf regReset s.regs = true) :
    Tab.wf regReset (raise s page b).regs = true := by
  simp only [raise]; split
  · exact h
  · exact setReg_regsOk _ _ _ _ h

/-- What a field reads after it was set. -/
theorem getF_setF_same (s : State) (r : FRef) (inst v : Nat) (h : Tab.wf regReset s.regs = true) (hr : r.lo + r.len ≤ 64) :
    getF (setF s r inst v) r inst = v % 2 ^ r.len := by
  simp only [getF, setF]
  rw [rawReg_setReg_same _ _ _ _ h, BitVec.toNat_ofNat, Nat.mod_eq_of_lt (setBits_lt _ _ _ _ (BitVec.isLt _) hr), bits_setBits_same]

/-- Another field of the same register keeps its value. -/
theorem getF_setF_field (s : State) (r q : FRef) (inst v : Nat) (h : Tab.wf regReset s.regs = true) (hp : q.page = r.page)
    (ho : q.off = r.off) (hr : r.lo + r.len ≤ 64) (hd : q.lo + q.len ≤ r.lo ∨ r.lo + r.len ≤ q.lo) :
    getF (setF s r inst v) q inst = getF s q inst := by
  simp only [getF, setF, hp, ho]
  rw [rawReg_setReg_same _ _ _ _ h, BitVec.toNat_ofNat, Nat.mod_eq_of_lt (setBits_lt _ _ _ _ (BitVec.isLt _) hr)]
  rcases hd with hd | hd
  · exact bits_setBits_below _ _ _ _ _ _ hd
  · exact bits_setBits_above _ _ _ _ _ _ hd

/-- A field of another register keeps its value. -/
theorem getF_setF_other (s : State) (r q : FRef) (inst inst' v : Nat) (h : Tab.wf regReset s.regs = true)
    (hk : regKey (q.page + inst') q.off ≠ regKey (r.page + inst) r.off) :
    getF (setF s r inst v) q inst' = getF s q inst' := by
  simp only [getF, setF]
  rw [rawReg_setReg_other _ _ _ _ _ _ h hk]

end Sys2Proof.Machine
end

