-- ==== Sys2Proof/Laws/State.lean ====
section
/-! SUPPORT. What each named update of the state leaves alone, field by field. -/

namespace Sys2Proof.Machine

variable (s : State)

/-! ### setReg -/

@[simp] theorem setReg_pending (page off : Nat) (v : W64) : (setReg s page off v).pending = s.pending := rfl
@[simp] theorem setReg_now (page off : Nat) (v : W64) : (setReg s page off v).now = s.now := rfl
@[simp] theorem setReg_free (page off : Nat) (v : W64) : (setReg s page off v).free = s.free := rfl
@[simp] theorem setReg_fuse (page off : Nat) (v : W64) : (setReg s page off v).fuse = s.fuse := rfl
@[simp] theorem setReg_board (page off : Nat) (v : W64) : (setReg s page off v).board = s.board := rfl
@[simp] theorem setReg_staged (page off : Nat) (v : W64) : (setReg s page off v).staged = s.staged := rfl
@[simp] theorem setReg_pendLo (page off : Nat) (v : W64) : (setReg s page off v).pendLo = s.pendLo := rfl
@[simp] theorem setReg_store (page off : Nat) (v : W64) : (setReg s page off v).store = s.store := rfl
@[simp] theorem setReg_sspace (page off : Nat) (v : W64) : (setReg s page off v).sspace = s.sspace := rfl
@[simp] theorem setReg_cspace (page off : Nat) (v : W64) : (setReg s page off v).cspace = s.cspace := rfl
@[simp] theorem setReg_tick (page off : Nat) (v : W64) : (setReg s page off v).tick = s.tick := rfl
@[simp] theorem setReg_threads (page off : Nat) (v : W64) : (setReg s page off v).threads = s.threads := rfl
@[simp] theorem setReg_cores (page off : Nat) (v : W64) : (setReg s page off v).cores = s.cores := rfl
@[simp] theorem setReg_bitmaps (page off : Nat) (v : W64) : (setReg s page off v).bitmaps = s.bitmaps := rfl
@[simp] theorem setReg_sync (page off : Nat) (v : W64) : (setReg s page off v).sync = s.sync := rfl
@[simp] theorem setReg_triggers (page off : Nat) (v : W64) : (setReg s page off v).triggers = s.triggers := rfl
@[simp] theorem setReg_xlt (page off : Nat) (v : W64) : (setReg s page off v).xlt = s.xlt := rfl
@[simp] theorem setReg_descriptors (page off : Nat) (v : W64) : (setReg s page off v).descriptors = s.descriptors := rfl
@[simp] theorem setReg_nextDesc (page off : Nat) (v : W64) : (setReg s page off v).nextDesc = s.nextDesc := rfl
@[simp] theorem setReg_pools (page off : Nat) (v : W64) : (setReg s page off v).pools = s.pools := rfl
@[simp] theorem setReg_haul (page off : Nat) (v : W64) : (setReg s page off v).haul = s.haul := rfl
@[simp] theorem setReg_haulRuns (page off : Nat) (v : W64) : (setReg s page off v).haulRuns = s.haulRuns := rfl
@[simp] theorem setReg_hosts (page off : Nat) (v : W64) : (setReg s page off v).hosts = s.hosts := rfl
@[simp] theorem setReg_splits (page off : Nat) (v : W64) : (setReg s page off v).splits = s.splits := rfl
@[simp] theorem setReg_queues (page off : Nat) (v : W64) : (setReg s page off v).queues = s.queues := rfl
@[simp] theorem setReg_regions (page off : Nat) (v : W64) : (setReg s page off v).regions = s.regions := rfl
@[simp] theorem setReg_coherent (page off : Nat) (v : W64) : (setReg s page off v).coherent = s.coherent := rfl
@[simp] theorem setReg_seam (page off : Nat) (v : W64) : (setReg s page off v).seam = s.seam := rfl
@[simp] theorem setReg_ports (page off : Nat) (v : W64) : (setReg s page off v).ports = s.ports := rfl
@[simp] theorem setReg_fabric (page off : Nat) (v : W64) : (setReg s page off v).fabric = s.fabric := rfl
@[simp] theorem setReg_eloan (page off : Nat) (v : W64) : (setReg s page off v).eloan = s.eloan := rfl
@[simp] theorem setReg_ras (page off : Nat) (v : W64) : (setReg s page off v).ras = s.ras := rfl
@[simp] theorem setReg_henyen (page off : Nat) (v : W64) : (setReg s page off v).henyen = s.henyen := rfl
@[simp] theorem setReg_tally (page off : Nat) (v : W64) : (setReg s page off v).tally = s.tally := rfl
@[simp] theorem setReg_power (page off : Nat) (v : W64) : (setReg s page off v).power = s.power := rfl
@[simp] theorem setReg_pkg (page off : Nat) (v : W64) : (setReg s page off v).pkg = s.pkg := rfl
@[simp] theorem setReg_startup (page off : Nat) (v : W64) : (setReg s page off v).startup = s.startup := rfl
@[simp] theorem setReg_pins (page off : Nat) (v : W64) : (setReg s page off v).pins = s.pins := rfl
@[simp] theorem setReg_clocks (page off : Nat) (v : W64) : (setReg s page off v).clocks = s.clocks := rfl
@[simp] theorem setReg_pendingPages (page off : Nat) (v : W64) : (setReg s page off v).pendingPages = s.pendingPages := rfl
@[simp] theorem setReg_eventsDue (page off : Nat) (v : W64) : (setReg s page off v).eventsDue = s.eventsDue := rfl
@[simp] theorem setReg_out (page off : Nat) (v : W64) : (setReg s page off v).out = s.out := rfl

/-! ### setF -/

@[simp] theorem setF_pending (r : FRef) (inst v : Nat) : (setF s r inst v).pending = s.pending := rfl
@[simp] theorem setF_now (r : FRef) (inst v : Nat) : (setF s r inst v).now = s.now := rfl
@[simp] theorem setF_free (r : FRef) (inst v : Nat) : (setF s r inst v).free = s.free := rfl
@[simp] theorem setF_fuse (r : FRef) (inst v : Nat) : (setF s r inst v).fuse = s.fuse := rfl
@[simp] theorem setF_board (r : FRef) (inst v : Nat) : (setF s r inst v).board = s.board := rfl
@[simp] theorem setF_staged (r : FRef) (inst v : Nat) : (setF s r inst v).staged = s.staged := rfl
@[simp] theorem setF_pendLo (r : FRef) (inst v : Nat) : (setF s r inst v).pendLo = s.pendLo := rfl
@[simp] theorem setF_store (r : FRef) (inst v : Nat) : (setF s r inst v).store = s.store := rfl
@[simp] theorem setF_sspace (r : FRef) (inst v : Nat) : (setF s r inst v).sspace = s.sspace := rfl
@[simp] theorem setF_cspace (r : FRef) (inst v : Nat) : (setF s r inst v).cspace = s.cspace := rfl
@[simp] theorem setF_tick (r : FRef) (inst v : Nat) : (setF s r inst v).tick = s.tick := rfl
@[simp] theorem setF_threads (r : FRef) (inst v : Nat) : (setF s r inst v).threads = s.threads := rfl
@[simp] theorem setF_cores (r : FRef) (inst v : Nat) : (setF s r inst v).cores = s.cores := rfl
@[simp] theorem setF_bitmaps (r : FRef) (inst v : Nat) : (setF s r inst v).bitmaps = s.bitmaps := rfl
@[simp] theorem setF_sync (r : FRef) (inst v : Nat) : (setF s r inst v).sync = s.sync := rfl
@[simp] theorem setF_triggers (r : FRef) (inst v : Nat) : (setF s r inst v).triggers = s.triggers := rfl
@[simp] theorem setF_xlt (r : FRef) (inst v : Nat) : (setF s r inst v).xlt = s.xlt := rfl
@[simp] theorem setF_descriptors (r : FRef) (inst v : Nat) : (setF s r inst v).descriptors = s.descriptors := rfl
@[simp] theorem setF_nextDesc (r : FRef) (inst v : Nat) : (setF s r inst v).nextDesc = s.nextDesc := rfl
@[simp] theorem setF_pools (r : FRef) (inst v : Nat) : (setF s r inst v).pools = s.pools := rfl
@[simp] theorem setF_haul (r : FRef) (inst v : Nat) : (setF s r inst v).haul = s.haul := rfl
@[simp] theorem setF_haulRuns (r : FRef) (inst v : Nat) : (setF s r inst v).haulRuns = s.haulRuns := rfl
@[simp] theorem setF_hosts (r : FRef) (inst v : Nat) : (setF s r inst v).hosts = s.hosts := rfl
@[simp] theorem setF_splits (r : FRef) (inst v : Nat) : (setF s r inst v).splits = s.splits := rfl
@[simp] theorem setF_queues (r : FRef) (inst v : Nat) : (setF s r inst v).queues = s.queues := rfl
@[simp] theorem setF_regions (r : FRef) (inst v : Nat) : (setF s r inst v).regions = s.regions := rfl
@[simp] theorem setF_coherent (r : FRef) (inst v : Nat) : (setF s r inst v).coherent = s.coherent := rfl
@[simp] theorem setF_seam (r : FRef) (inst v : Nat) : (setF s r inst v).seam = s.seam := rfl
@[simp] theorem setF_ports (r : FRef) (inst v : Nat) : (setF s r inst v).ports = s.ports := rfl
@[simp] theorem setF_fabric (r : FRef) (inst v : Nat) : (setF s r inst v).fabric = s.fabric := rfl
@[simp] theorem setF_eloan (r : FRef) (inst v : Nat) : (setF s r inst v).eloan = s.eloan := rfl
@[simp] theorem setF_ras (r : FRef) (inst v : Nat) : (setF s r inst v).ras = s.ras := rfl
@[simp] theorem setF_henyen (r : FRef) (inst v : Nat) : (setF s r inst v).henyen = s.henyen := rfl
@[simp] theorem setF_tally (r : FRef) (inst v : Nat) : (setF s r inst v).tally = s.tally := rfl
@[simp] theorem setF_power (r : FRef) (inst v : Nat) : (setF s r inst v).power = s.power := rfl
@[simp] theorem setF_pkg (r : FRef) (inst v : Nat) : (setF s r inst v).pkg = s.pkg := rfl
@[simp] theorem setF_startup (r : FRef) (inst v : Nat) : (setF s r inst v).startup = s.startup := rfl
@[simp] theorem setF_pins (r : FRef) (inst v : Nat) : (setF s r inst v).pins = s.pins := rfl
@[simp] theorem setF_clocks (r : FRef) (inst v : Nat) : (setF s r inst v).clocks = s.clocks := rfl
@[simp] theorem setF_pendingPages (r : FRef) (inst v : Nat) : (setF s r inst v).pendingPages = s.pendingPages := rfl
@[simp] theorem setF_eventsDue (r : FRef) (inst v : Nat) : (setF s r inst v).eventsDue = s.eventsDue := rfl
@[simp] theorem setF_out (r : FRef) (inst v : Nat) : (setF s r inst v).out = s.out := rfl

/-! ### addSatF -/

@[simp] theorem addSatF_pending (r : FRef) (inst n : Nat) : (addSatF s r inst n).pending = s.pending := rfl
@[simp] theorem addSatF_now (r : FRef) (inst n : Nat) : (addSatF s r inst n).now = s.now := rfl
@[simp] theorem addSatF_free (r : FRef) (inst n : Nat) : (addSatF s r inst n).free = s.free := rfl
@[simp] theorem addSatF_fuse (r : FRef) (inst n : Nat) : (addSatF s r inst n).fuse = s.fuse := rfl
@[simp] theorem addSatF_board (r : FRef) (inst n : Nat) : (addSatF s r inst n).board = s.board := rfl
@[simp] theorem addSatF_staged (r : FRef) (inst n : Nat) : (addSatF s r inst n).staged = s.staged := rfl
@[simp] theorem addSatF_pendLo (r : FRef) (inst n : Nat) : (addSatF s r inst n).pendLo = s.pendLo := rfl
@[simp] theorem addSatF_store (r : FRef) (inst n : Nat) : (addSatF s r inst n).store = s.store := rfl
@[simp] theorem addSatF_sspace (r : FRef) (inst n : Nat) : (addSatF s r inst n).sspace = s.sspace := rfl
@[simp] theorem addSatF_cspace (r : FRef) (inst n : Nat) : (addSatF s r inst n).cspace = s.cspace := rfl
@[simp] theorem addSatF_tick (r : FRef) (inst n : Nat) : (addSatF s r inst n).tick = s.tick := rfl
@[simp] theorem addSatF_threads (r : FRef) (inst n : Nat) : (addSatF s r inst n).threads = s.threads := rfl
@[simp] theorem addSatF_cores (r : FRef) (inst n : Nat) : (addSatF s r inst n).cores = s.cores := rfl
@[simp] theorem addSatF_bitmaps (r : FRef) (inst n : Nat) : (addSatF s r inst n).bitmaps = s.bitmaps := rfl
@[simp] theorem addSatF_sync (r : FRef) (inst n : Nat) : (addSatF s r inst n).sync = s.sync := rfl
@[simp] theorem addSatF_triggers (r : FRef) (inst n : Nat) : (addSatF s r inst n).triggers = s.triggers := rfl
@[simp] theorem addSatF_xlt (r : FRef) (inst n : Nat) : (addSatF s r inst n).xlt = s.xlt := rfl
@[simp] theorem addSatF_descriptors (r : FRef) (inst n : Nat) : (addSatF s r inst n).descriptors = s.descriptors := rfl
@[simp] theorem addSatF_nextDesc (r : FRef) (inst n : Nat) : (addSatF s r inst n).nextDesc = s.nextDesc := rfl
@[simp] theorem addSatF_pools (r : FRef) (inst n : Nat) : (addSatF s r inst n).pools = s.pools := rfl
@[simp] theorem addSatF_haul (r : FRef) (inst n : Nat) : (addSatF s r inst n).haul = s.haul := rfl
@[simp] theorem addSatF_haulRuns (r : FRef) (inst n : Nat) : (addSatF s r inst n).haulRuns = s.haulRuns := rfl
@[simp] theorem addSatF_hosts (r : FRef) (inst n : Nat) : (addSatF s r inst n).hosts = s.hosts := rfl
@[simp] theorem addSatF_splits (r : FRef) (inst n : Nat) : (addSatF s r inst n).splits = s.splits := rfl
@[simp] theorem addSatF_queues (r : FRef) (inst n : Nat) : (addSatF s r inst n).queues = s.queues := rfl
@[simp] theorem addSatF_regions (r : FRef) (inst n : Nat) : (addSatF s r inst n).regions = s.regions := rfl
@[simp] theorem addSatF_coherent (r : FRef) (inst n : Nat) : (addSatF s r inst n).coherent = s.coherent := rfl
@[simp] theorem addSatF_seam (r : FRef) (inst n : Nat) : (addSatF s r inst n).seam = s.seam := rfl
@[simp] theorem addSatF_ports (r : FRef) (inst n : Nat) : (addSatF s r inst n).ports = s.ports := rfl
@[simp] theorem addSatF_fabric (r : FRef) (inst n : Nat) : (addSatF s r inst n).fabric = s.fabric := rfl
@[simp] theorem addSatF_eloan (r : FRef) (inst n : Nat) : (addSatF s r inst n).eloan = s.eloan := rfl
@[simp] theorem addSatF_ras (r : FRef) (inst n : Nat) : (addSatF s r inst n).ras = s.ras := rfl
@[simp] theorem addSatF_henyen (r : FRef) (inst n : Nat) : (addSatF s r inst n).henyen = s.henyen := rfl
@[simp] theorem addSatF_tally (r : FRef) (inst n : Nat) : (addSatF s r inst n).tally = s.tally := rfl
@[simp] theorem addSatF_power (r : FRef) (inst n : Nat) : (addSatF s r inst n).power = s.power := rfl
@[simp] theorem addSatF_pkg (r : FRef) (inst n : Nat) : (addSatF s r inst n).pkg = s.pkg := rfl
@[simp] theorem addSatF_startup (r : FRef) (inst n : Nat) : (addSatF s r inst n).startup = s.startup := rfl
@[simp] theorem addSatF_pins (r : FRef) (inst n : Nat) : (addSatF s r inst n).pins = s.pins := rfl
@[simp] theorem addSatF_clocks (r : FRef) (inst n : Nat) : (addSatF s r inst n).clocks = s.clocks := rfl
@[simp] theorem addSatF_pendingPages (r : FRef) (inst n : Nat) : (addSatF s r inst n).pendingPages = s.pendingPages := rfl
@[simp] theorem addSatF_eventsDue (r : FRef) (inst n : Nat) : (addSatF s r inst n).eventsDue = s.eventsDue := rfl
@[simp] theorem addSatF_out (r : FRef) (inst n : Nat) : (addSatF s r inst n).out = s.out := rfl

/-! ### addWrapF -/

@[simp] theorem addWrapF_pending (r : FRef) (inst n : Nat) : (addWrapF s r inst n).pending = s.pending := rfl
@[simp] theorem addWrapF_now (r : FRef) (inst n : Nat) : (addWrapF s r inst n).now = s.now := rfl
@[simp] theorem addWrapF_free (r : FRef) (inst n : Nat) : (addWrapF s r inst n).free = s.free := rfl
@[simp] theorem addWrapF_fuse (r : FRef) (inst n : Nat) : (addWrapF s r inst n).fuse = s.fuse := rfl
@[simp] theorem addWrapF_board (r : FRef) (inst n : Nat) : (addWrapF s r inst n).board = s.board := rfl
@[simp] theorem addWrapF_staged (r : FRef) (inst n : Nat) : (addWrapF s r inst n).staged = s.staged := rfl
@[simp] theorem addWrapF_pendLo (r : FRef) (inst n : Nat) : (addWrapF s r inst n).pendLo = s.pendLo := rfl
@[simp] theorem addWrapF_store (r : FRef) (inst n : Nat) : (addWrapF s r inst n).store = s.store := rfl
@[simp] theorem addWrapF_sspace (r : FRef) (inst n : Nat) : (addWrapF s r inst n).sspace = s.sspace := rfl
@[simp] theorem addWrapF_cspace (r : FRef) (inst n : Nat) : (addWrapF s r inst n).cspace = s.cspace := rfl
@[simp] theorem addWrapF_tick (r : FRef) (inst n : Nat) : (addWrapF s r inst n).tick = s.tick := rfl
@[simp] theorem addWrapF_threads (r : FRef) (inst n : Nat) : (addWrapF s r inst n).threads = s.threads := rfl
@[simp] theorem addWrapF_cores (r : FRef) (inst n : Nat) : (addWrapF s r inst n).cores = s.cores := rfl
@[simp] theorem addWrapF_bitmaps (r : FRef) (inst n : Nat) : (addWrapF s r inst n).bitmaps = s.bitmaps := rfl
@[simp] theorem addWrapF_sync (r : FRef) (inst n : Nat) : (addWrapF s r inst n).sync = s.sync := rfl
@[simp] theorem addWrapF_triggers (r : FRef) (inst n : Nat) : (addWrapF s r inst n).triggers = s.triggers := rfl
@[simp] theorem addWrapF_xlt (r : FRef) (inst n : Nat) : (addWrapF s r inst n).xlt = s.xlt := rfl
@[simp] theorem addWrapF_descriptors (r : FRef) (inst n : Nat) : (addWrapF s r inst n).descriptors = s.descriptors := rfl
@[simp] theorem addWrapF_nextDesc (r : FRef) (inst n : Nat) : (addWrapF s r inst n).nextDesc = s.nextDesc := rfl
@[simp] theorem addWrapF_pools (r : FRef) (inst n : Nat) : (addWrapF s r inst n).pools = s.pools := rfl
@[simp] theorem addWrapF_haul (r : FRef) (inst n : Nat) : (addWrapF s r inst n).haul = s.haul := rfl
@[simp] theorem addWrapF_haulRuns (r : FRef) (inst n : Nat) : (addWrapF s r inst n).haulRuns = s.haulRuns := rfl
@[simp] theorem addWrapF_hosts (r : FRef) (inst n : Nat) : (addWrapF s r inst n).hosts = s.hosts := rfl
@[simp] theorem addWrapF_splits (r : FRef) (inst n : Nat) : (addWrapF s r inst n).splits = s.splits := rfl
@[simp] theorem addWrapF_queues (r : FRef) (inst n : Nat) : (addWrapF s r inst n).queues = s.queues := rfl
@[simp] theorem addWrapF_regions (r : FRef) (inst n : Nat) : (addWrapF s r inst n).regions = s.regions := rfl
@[simp] theorem addWrapF_coherent (r : FRef) (inst n : Nat) : (addWrapF s r inst n).coherent = s.coherent := rfl
@[simp] theorem addWrapF_seam (r : FRef) (inst n : Nat) : (addWrapF s r inst n).seam = s.seam := rfl
@[simp] theorem addWrapF_ports (r : FRef) (inst n : Nat) : (addWrapF s r inst n).ports = s.ports := rfl
@[simp] theorem addWrapF_fabric (r : FRef) (inst n : Nat) : (addWrapF s r inst n).fabric = s.fabric := rfl
@[simp] theorem addWrapF_eloan (r : FRef) (inst n : Nat) : (addWrapF s r inst n).eloan = s.eloan := rfl
@[simp] theorem addWrapF_ras (r : FRef) (inst n : Nat) : (addWrapF s r inst n).ras = s.ras := rfl
@[simp] theorem addWrapF_henyen (r : FRef) (inst n : Nat) : (addWrapF s r inst n).henyen = s.henyen := rfl
@[simp] theorem addWrapF_tally (r : FRef) (inst n : Nat) : (addWrapF s r inst n).tally = s.tally := rfl
@[simp] theorem addWrapF_power (r : FRef) (inst n : Nat) : (addWrapF s r inst n).power = s.power := rfl
@[simp] theorem addWrapF_pkg (r : FRef) (inst n : Nat) : (addWrapF s r inst n).pkg = s.pkg := rfl
@[simp] theorem addWrapF_startup (r : FRef) (inst n : Nat) : (addWrapF s r inst n).startup = s.startup := rfl
@[simp] theorem addWrapF_pins (r : FRef) (inst n : Nat) : (addWrapF s r inst n).pins = s.pins := rfl
@[simp] theorem addWrapF_clocks (r : FRef) (inst n : Nat) : (addWrapF s r inst n).clocks = s.clocks := rfl
@[simp] theorem addWrapF_pendingPages (r : FRef) (inst n : Nat) : (addWrapF s r inst n).pendingPages = s.pendingPages := rfl
@[simp] theorem addWrapF_eventsDue (r : FRef) (inst n : Nat) : (addWrapF s r inst n).eventsDue = s.eventsDue := rfl
@[simp] theorem addWrapF_out (r : FRef) (inst n : Nat) : (addWrapF s r inst n).out = s.out := rfl

/-! ### raise -/

@[simp] theorem raise_pending (page b : Nat) : (raise s page b).pending = s.pending := by simp only [raise]; split <;> rfl
@[simp] theorem raise_now (page b : Nat) : (raise s page b).now = s.now := by simp only [raise]; split <;> rfl
@[simp] theorem raise_free (page b : Nat) : (raise s page b).free = s.free := by simp only [raise]; split <;> rfl
@[simp] theorem raise_fuse (page b : Nat) : (raise s page b).fuse = s.fuse := by simp only [raise]; split <;> rfl
@[simp] theorem raise_board (page b : Nat) : (raise s page b).board = s.board := by simp only [raise]; split <;> rfl
@[simp] theorem raise_staged (page b : Nat) : (raise s page b).staged = s.staged := by simp only [raise]; split <;> rfl
@[simp] theorem raise_pendLo (page b : Nat) : (raise s page b).pendLo = s.pendLo := by simp only [raise]; split <;> rfl
@[simp] theorem raise_store (page b : Nat) : (raise s page b).store = s.store := by simp only [raise]; split <;> rfl
@[simp] theorem raise_sspace (page b : Nat) : (raise s page b).sspace = s.sspace := by simp only [raise]; split <;> rfl
@[simp] theorem raise_cspace (page b : Nat) : (raise s page b).cspace = s.cspace := by simp only [raise]; split <;> rfl
@[simp] theorem raise_tick (page b : Nat) : (raise s page b).tick = s.tick := by simp only [raise]; split <;> rfl
@[simp] theorem raise_threads (page b : Nat) : (raise s page b).threads = s.threads := by simp only [raise]; split <;> rfl
@[simp] theorem raise_cores (page b : Nat) : (raise s page b).cores = s.cores := by simp only [raise]; split <;> rfl
@[simp] theorem raise_bitmaps (page b : Nat) : (raise s page b).bitmaps = s.bitmaps := by simp only [raise]; split <;> rfl
@[simp] theorem raise_sync (page b : Nat) : (raise s page b).sync = s.sync := by simp only [raise]; split <;> rfl
@[simp] theorem raise_triggers (page b : Nat) : (raise s page b).triggers = s.triggers := by simp only [raise]; split <;> rfl
@[simp] theorem raise_xlt (page b : Nat) : (raise s page b).xlt = s.xlt := by simp only [raise]; split <;> rfl
@[simp] theorem raise_descriptors (page b : Nat) : (raise s page b).descriptors = s.descriptors := by simp only [raise]; split <;> rfl
@[simp] theorem raise_nextDesc (page b : Nat) : (raise s page b).nextDesc = s.nextDesc := by simp only [raise]; split <;> rfl
@[simp] theorem raise_pools (page b : Nat) : (raise s page b).pools = s.pools := by simp only [raise]; split <;> rfl
@[simp] theorem raise_haul (page b : Nat) : (raise s page b).haul = s.haul := by simp only [raise]; split <;> rfl
@[simp] theorem raise_haulRuns (page b : Nat) : (raise s page b).haulRuns = s.haulRuns := by simp only [raise]; split <;> rfl
@[simp] theorem raise_hosts (page b : Nat) : (raise s page b).hosts = s.hosts := by simp only [raise]; split <;> rfl
@[simp] theorem raise_splits (page b : Nat) : (raise s page b).splits = s.splits := by simp only [raise]; split <;> rfl
@[simp] theorem raise_queues (page b : Nat) : (raise s page b).queues = s.queues := by simp only [raise]; split <;> rfl
@[simp] theorem raise_regions (page b : Nat) : (raise s page b).regions = s.regions := by simp only [raise]; split <;> rfl
@[simp] theorem raise_coherent (page b : Nat) : (raise s page b).coherent = s.coherent := by simp only [raise]; split <;> rfl
@[simp] theorem raise_seam (page b : Nat) : (raise s page b).seam = s.seam := by simp only [raise]; split <;> rfl
@[simp] theorem raise_ports (page b : Nat) : (raise s page b).ports = s.ports := by simp only [raise]; split <;> rfl
@[simp] theorem raise_fabric (page b : Nat) : (raise s page b).fabric = s.fabric := by simp only [raise]; split <;> rfl
@[simp] theorem raise_eloan (page b : Nat) : (raise s page b).eloan = s.eloan := by simp only [raise]; split <;> rfl
@[simp] theorem raise_ras (page b : Nat) : (raise s page b).ras = s.ras := by simp only [raise]; split <;> rfl
@[simp] theorem raise_henyen (page b : Nat) : (raise s page b).henyen = s.henyen := by simp only [raise]; split <;> rfl
@[simp] theorem raise_tally (page b : Nat) : (raise s page b).tally = s.tally := by simp only [raise]; split <;> rfl
@[simp] theorem raise_power (page b : Nat) : (raise s page b).power = s.power := by simp only [raise]; split <;> rfl
@[simp] theorem raise_pkg (page b : Nat) : (raise s page b).pkg = s.pkg := by simp only [raise]; split <;> rfl
@[simp] theorem raise_startup (page b : Nat) : (raise s page b).startup = s.startup := by simp only [raise]; split <;> rfl
@[simp] theorem raise_pins (page b : Nat) : (raise s page b).pins = s.pins := by simp only [raise]; split <;> rfl
@[simp] theorem raise_clocks (page b : Nat) : (raise s page b).clocks = s.clocks := by simp only [raise]; split <;> rfl
@[simp] theorem raise_pendingPages (page b : Nat) : (raise s page b).pendingPages = s.pendingPages := by simp only [raise]; split <;> rfl
@[simp] theorem raise_eventsDue (page b : Nat) : (raise s page b).eventsDue = s.eventsDue := by simp only [raise]; split <;> rfl
@[simp] theorem raise_out (page b : Nat) : (raise s page b).out = s.out := by simp only [raise]; split <;> rfl

/-! ### emit -/

@[simp] theorem emit_pending (o : Out) : (emit s o).pending = s.pending := rfl
@[simp] theorem emit_now (o : Out) : (emit s o).now = s.now := rfl
@[simp] theorem emit_free (o : Out) : (emit s o).free = s.free := rfl
@[simp] theorem emit_fuse (o : Out) : (emit s o).fuse = s.fuse := rfl
@[simp] theorem emit_board (o : Out) : (emit s o).board = s.board := rfl
@[simp] theorem emit_regs (o : Out) : (emit s o).regs = s.regs := rfl
@[simp] theorem emit_staged (o : Out) : (emit s o).staged = s.staged := rfl
@[simp] theorem emit_pendLo (o : Out) : (emit s o).pendLo = s.pendLo := rfl
@[simp] theorem emit_store (o : Out) : (emit s o).store = s.store := rfl
@[simp] theorem emit_sspace (o : Out) : (emit s o).sspace = s.sspace := rfl
@[simp] theorem emit_cspace (o : Out) : (emit s o).cspace = s.cspace := rfl
@[simp] theorem emit_tick (o : Out) : (emit s o).tick = s.tick := rfl
@[simp] theorem emit_threads (o : Out) : (emit s o).threads = s.threads := rfl
@[simp] theorem emit_cores (o : Out) : (emit s o).cores = s.cores := rfl
@[simp] theorem emit_bitmaps (o : Out) : (emit s o).bitmaps = s.bitmaps := rfl
@[simp] theorem emit_sync (o : Out) : (emit s o).sync = s.sync := rfl
@[simp] theorem emit_triggers (o : Out) : (emit s o).triggers = s.triggers := rfl
@[simp] theorem emit_xlt (o : Out) : (emit s o).xlt = s.xlt := rfl
@[simp] theorem emit_descriptors (o : Out) : (emit s o).descriptors = s.descriptors := rfl
@[simp] theorem emit_nextDesc (o : Out) : (emit s o).nextDesc = s.nextDesc := rfl
@[simp] theorem emit_pools (o : Out) : (emit s o).pools = s.pools := rfl
@[simp] theorem emit_haul (o : Out) : (emit s o).haul = s.haul := rfl
@[simp] theorem emit_haulRuns (o : Out) : (emit s o).haulRuns = s.haulRuns := rfl
@[simp] theorem emit_hosts (o : Out) : (emit s o).hosts = s.hosts := rfl
@[simp] theorem emit_splits (o : Out) : (emit s o).splits = s.splits := rfl
@[simp] theorem emit_queues (o : Out) : (emit s o).queues = s.queues := rfl
@[simp] theorem emit_regions (o : Out) : (emit s o).regions = s.regions := rfl
@[simp] theorem emit_coherent (o : Out) : (emit s o).coherent = s.coherent := rfl
@[simp] theorem emit_seam (o : Out) : (emit s o).seam = s.seam := rfl
@[simp] theorem emit_ports (o : Out) : (emit s o).ports = s.ports := rfl
@[simp] theorem emit_fabric (o : Out) : (emit s o).fabric = s.fabric := rfl
@[simp] theorem emit_eloan (o : Out) : (emit s o).eloan = s.eloan := rfl
@[simp] theorem emit_ras (o : Out) : (emit s o).ras = s.ras := rfl
@[simp] theorem emit_henyen (o : Out) : (emit s o).henyen = s.henyen := rfl
@[simp] theorem emit_tally (o : Out) : (emit s o).tally = s.tally := rfl
@[simp] theorem emit_power (o : Out) : (emit s o).power = s.power := rfl
@[simp] theorem emit_pkg (o : Out) : (emit s o).pkg = s.pkg := rfl
@[simp] theorem emit_startup (o : Out) : (emit s o).startup = s.startup := rfl
@[simp] theorem emit_pins (o : Out) : (emit s o).pins = s.pins := rfl
@[simp] theorem emit_clocks (o : Out) : (emit s o).clocks = s.clocks := rfl
@[simp] theorem emit_pendingPages (o : Out) : (emit s o).pendingPages = s.pendingPages := rfl
@[simp] theorem emit_eventsDue (o : Out) : (emit s o).eventsDue = s.eventsDue := rfl

/-! ### settle -/

@[simp] theorem settle_pending : (settle s).pending = s.pending := rfl
@[simp] theorem settle_now : (settle s).now = s.now := rfl
@[simp] theorem settle_free : (settle s).free = s.free := rfl
@[simp] theorem settle_fuse : (settle s).fuse = s.fuse := rfl
@[simp] theorem settle_board : (settle s).board = s.board := rfl
@[simp] theorem settle_regs : (settle s).regs = s.regs := rfl
@[simp] theorem settle_staged : (settle s).staged = s.staged := rfl
@[simp] theorem settle_pendLo : (settle s).pendLo = s.pendLo := rfl
@[simp] theorem settle_store : (settle s).store = s.store := rfl
@[simp] theorem settle_sspace : (settle s).sspace = s.sspace := rfl
@[simp] theorem settle_cspace : (settle s).cspace = s.cspace := rfl
@[simp] theorem settle_tick : (settle s).tick = s.tick := rfl
@[simp] theorem settle_threads : (settle s).threads = s.threads := rfl
@[simp] theorem settle_cores : (settle s).cores = s.cores := rfl
@[simp] theorem settle_bitmaps : (settle s).bitmaps = s.bitmaps := rfl
@[simp] theorem settle_sync : (settle s).sync = s.sync := rfl
@[simp] theorem settle_triggers : (settle s).triggers = s.triggers := rfl
@[simp] theorem settle_xlt : (settle s).xlt = s.xlt := rfl
@[simp] theorem settle_descriptors : (settle s).descriptors = s.descriptors := rfl
@[simp] theorem settle_nextDesc : (settle s).nextDesc = s.nextDesc := rfl
@[simp] theorem settle_pools : (settle s).pools = s.pools := rfl
@[simp] theorem settle_haul : (settle s).haul = s.haul := rfl
@[simp] theorem settle_haulRuns : (settle s).haulRuns = s.haulRuns := rfl
@[simp] theorem settle_hosts : (settle s).hosts = s.hosts := rfl
@[simp] theorem settle_splits : (settle s).splits = s.splits := rfl
@[simp] theorem settle_queues : (settle s).queues = s.queues := rfl
@[simp] theorem settle_regions : (settle s).regions = s.regions := rfl
@[simp] theorem settle_coherent : (settle s).coherent = s.coherent := rfl
@[simp] theorem settle_seam : (settle s).seam = s.seam := rfl
@[simp] theorem settle_ports : (settle s).ports = s.ports := rfl
@[simp] theorem settle_fabric : (settle s).fabric = s.fabric := rfl
@[simp] theorem settle_eloan : (settle s).eloan = s.eloan := rfl
@[simp] theorem settle_ras : (settle s).ras = s.ras := rfl
@[simp] theorem settle_henyen : (settle s).henyen = s.henyen := rfl
@[simp] theorem settle_tally : (settle s).tally = s.tally := rfl
@[simp] theorem settle_power : (settle s).power = s.power := rfl
@[simp] theorem settle_pkg : (settle s).pkg = s.pkg := rfl
@[simp] theorem settle_startup : (settle s).startup = s.startup := rfl
@[simp] theorem settle_pins : (settle s).pins = s.pins := rfl
@[simp] theorem settle_clocks : (settle s).clocks = s.clocks := rfl
@[simp] theorem settle_out : (settle s).out = s.out := rfl

/-! ### updPart -/

@[simp] theorem updPart_pending (p : Nat) (f : Partition → Partition) : (updPart s p f).pending = s.pending := rfl
@[simp] theorem updPart_now (p : Nat) (f : Partition → Partition) : (updPart s p f).now = s.now := rfl
@[simp] theorem updPart_free (p : Nat) (f : Partition → Partition) : (updPart s p f).free = s.free := rfl
@[simp] theorem updPart_fuse (p : Nat) (f : Partition → Partition) : (updPart s p f).fuse = s.fuse := rfl
@[simp] theorem updPart_board (p : Nat) (f : Partition → Partition) : (updPart s p f).board = s.board := rfl
@[simp] theorem updPart_regs (p : Nat) (f : Partition → Partition) : (updPart s p f).regs = s.regs := rfl
@[simp] theorem updPart_staged (p : Nat) (f : Partition → Partition) : (updPart s p f).staged = s.staged := rfl
@[simp] theorem updPart_pendLo (p : Nat) (f : Partition → Partition) : (updPart s p f).pendLo = s.pendLo := rfl
@[simp] theorem updPart_store (p : Nat) (f : Partition → Partition) : (updPart s p f).store = s.store := rfl
@[simp] theorem updPart_sspace (p : Nat) (f : Partition → Partition) : (updPart s p f).sspace = s.sspace := rfl
@[simp] theorem updPart_cspace (p : Nat) (f : Partition → Partition) : (updPart s p f).cspace = s.cspace := rfl
@[simp] theorem updPart_tick (p : Nat) (f : Partition → Partition) : (updPart s p f).tick = s.tick := rfl
@[simp] theorem updPart_threads (p : Nat) (f : Partition → Partition) : (updPart s p f).threads = s.threads := rfl
@[simp] theorem updPart_cores (p : Nat) (f : Partition → Partition) : (updPart s p f).cores = s.cores := rfl
@[simp] theorem updPart_bitmaps (p : Nat) (f : Partition → Partition) : (updPart s p f).bitmaps = s.bitmaps := rfl
@[simp] theorem updPart_sync (p : Nat) (f : Partition → Partition) : (updPart s p f).sync = s.sync := rfl
@[simp] theorem updPart_triggers (p : Nat) (f : Partition → Partition) : (updPart s p f).triggers = s.triggers := rfl
@[simp] theorem updPart_xlt (p : Nat) (f : Partition → Partition) : (updPart s p f).xlt = s.xlt := rfl
@[simp] theorem updPart_descriptors (p : Nat) (f : Partition → Partition) : (updPart s p f).descriptors = s.descriptors := rfl
@[simp] theorem updPart_nextDesc (p : Nat) (f : Partition → Partition) : (updPart s p f).nextDesc = s.nextDesc := rfl
@[simp] theorem updPart_pools (p : Nat) (f : Partition → Partition) : (updPart s p f).pools = s.pools := rfl
@[simp] theorem updPart_haul (p : Nat) (f : Partition → Partition) : (updPart s p f).haul = s.haul := rfl
@[simp] theorem updPart_haulRuns (p : Nat) (f : Partition → Partition) : (updPart s p f).haulRuns = s.haulRuns := rfl
@[simp] theorem updPart_hosts (p : Nat) (f : Partition → Partition) : (updPart s p f).hosts = s.hosts := rfl
@[simp] theorem updPart_splits (p : Nat) (f : Partition → Partition) : (updPart s p f).splits = s.splits := rfl
@[simp] theorem updPart_queues (p : Nat) (f : Partition → Partition) : (updPart s p f).queues = s.queues := rfl
@[simp] theorem updPart_regions (p : Nat) (f : Partition → Partition) : (updPart s p f).regions = s.regions := rfl
@[simp] theorem updPart_coherent (p : Nat) (f : Partition → Partition) : (updPart s p f).coherent = s.coherent := rfl
@[simp] theorem updPart_seam (p : Nat) (f : Partition → Partition) : (updPart s p f).seam = s.seam := rfl
@[simp] theorem updPart_ports (p : Nat) (f : Partition → Partition) : (updPart s p f).ports = s.ports := rfl
@[simp] theorem updPart_fabric (p : Nat) (f : Partition → Partition) : (updPart s p f).fabric = s.fabric := rfl
@[simp] theorem updPart_eloan (p : Nat) (f : Partition → Partition) : (updPart s p f).eloan = s.eloan := rfl
@[simp] theorem updPart_henyen (p : Nat) (f : Partition → Partition) : (updPart s p f).henyen = s.henyen := rfl
@[simp] theorem updPart_tally (p : Nat) (f : Partition → Partition) : (updPart s p f).tally = s.tally := rfl
@[simp] theorem updPart_power (p : Nat) (f : Partition → Partition) : (updPart s p f).power = s.power := rfl
@[simp] theorem updPart_pkg (p : Nat) (f : Partition → Partition) : (updPart s p f).pkg = s.pkg := rfl
@[simp] theorem updPart_startup (p : Nat) (f : Partition → Partition) : (updPart s p f).startup = s.startup := rfl
@[simp] theorem updPart_pins (p : Nat) (f : Partition → Partition) : (updPart s p f).pins = s.pins := rfl
@[simp] theorem updPart_clocks (p : Nat) (f : Partition → Partition) : (updPart s p f).clocks = s.clocks := rfl
@[simp] theorem updPart_pendingPages (p : Nat) (f : Partition → Partition) : (updPart s p f).pendingPages = s.pendingPages := rfl
@[simp] theorem updPart_eventsDue (p : Nat) (f : Partition → Partition) : (updPart s p f).eventsDue = s.eventsDue := rfl
@[simp] theorem updPart_out (p : Nat) (f : Partition → Partition) : (updPart s p f).out = s.out := rfl

/-! ### updThread -/

@[simp] theorem updThread_pending (core ctx : Nat) (f : Thread → Thread) : (updThread s core ctx f).pending = s.pending := rfl
@[simp] theorem updThread_now (core ctx : Nat) (f : Thread → Thread) : (updThread s core ctx f).now = s.now := rfl
@[simp] theorem updThread_free (core ctx : Nat) (f : Thread → Thread) : (updThread s core ctx f).free = s.free := rfl
@[simp] theorem updThread_fuse (core ctx : Nat) (f : Thread → Thread) : (updThread s core ctx f).fuse = s.fuse := rfl
@[simp] theorem updThread_board (core ctx : Nat) (f : Thread → Thread) : (updThread s core ctx f).board = s.board := rfl
@[simp] theorem updThread_regs (core ctx : Nat) (f : Thread → Thread) : (updThread s core ctx f).regs = s.regs := rfl
@[simp] theorem updThread_staged (core ctx : Nat) (f : Thread → Thread) : (updThread s core ctx f).staged = s.staged := rfl
@[simp] theorem updThread_pendLo (core ctx : Nat) (f : Thread → Thread) : (updThread s core ctx f).pendLo = s.pendLo := rfl
@[simp] theorem updThread_store (core ctx : Nat) (f : Thread → Thread) : (updThread s core ctx f).store = s.store := rfl
@[simp] theorem updThread_sspace (core ctx : Nat) (f : Thread → Thread) : (updThread s core ctx f).sspace = s.sspace := rfl
@[simp] theorem updThread_cspace (core ctx : Nat) (f : Thread → Thread) : (updThread s core ctx f).cspace = s.cspace := rfl
@[simp] theorem updThread_tick (core ctx : Nat) (f : Thread → Thread) : (updThread s core ctx f).tick = s.tick := rfl
@[simp] theorem updThread_cores (core ctx : Nat) (f : Thread → Thread) : (updThread s core ctx f).cores = s.cores := rfl
@[simp] theorem updThread_bitmaps (core ctx : Nat) (f : Thread → Thread) : (updThread s core ctx f).bitmaps = s.bitmaps := rfl
@[simp] theorem updThread_sync (core ctx : Nat) (f : Thread → Thread) : (updThread s core ctx f).sync = s.sync := rfl
@[simp] theorem updThread_triggers (core ctx : Nat) (f : Thread → Thread) : (updThread s core ctx f).triggers = s.triggers := rfl
@[simp] theorem updThread_xlt (core ctx : Nat) (f : Thread → Thread) : (updThread s core ctx f).xlt = s.xlt := rfl
@[simp] theorem updThread_descriptors (core ctx : Nat) (f : Thread → Thread) : (updThread s core ctx f).descriptors = s.descriptors := rfl
@[simp] theorem updThread_nextDesc (core ctx : Nat) (f : Thread → Thread) : (updThread s core ctx f).nextDesc = s.nextDesc := rfl
@[simp] theorem updThread_pools (core ctx : Nat) (f : Thread → Thread) : (updThread s core ctx f).pools = s.pools := rfl
@[simp] theorem updThread_haul (core ctx : Nat) (f : Thread → Thread) : (updThread s core ctx f).haul = s.haul := rfl
@[simp] theorem updThread_haulRuns (core ctx : Nat) (f : Thread → Thread) : (updThread s core ctx f).haulRuns = s.haulRuns := rfl
@[simp] theorem updThread_hosts (core ctx : Nat) (f : Thread → Thread) : (updThread s core ctx f).hosts = s.hosts := rfl
@[simp] theorem updThread_splits (core ctx : Nat) (f : Thread → Thread) : (updThread s core ctx f).splits = s.splits := rfl
@[simp] theorem updThread_queues (core ctx : Nat) (f : Thread → Thread) : (updThread s core ctx f).queues = s.queues := rfl
@[simp] theorem updThread_regions (core ctx : Nat) (f : Thread → Thread) : (updThread s core ctx f).regions = s.regions := rfl
@[simp] theorem updThread_coherent (core ctx : Nat) (f : Thread → Thread) : (updThread s core ctx f).coherent = s.coherent := rfl
@[simp] theorem updThread_seam (core ctx : Nat) (f : Thread → Thread) : (updThread s core ctx f).seam = s.seam := rfl
@[simp] theorem updThread_ports (core ctx : Nat) (f : Thread → Thread) : (updThread s core ctx f).ports = s.ports := rfl
@[simp] theorem updThread_fabric (core ctx : Nat) (f : Thread → Thread) : (updThread s core ctx f).fabric = s.fabric := rfl
@[simp] theorem updThread_eloan (core ctx : Nat) (f : Thread → Thread) : (updThread s core ctx f).eloan = s.eloan := rfl
@[simp] theorem updThread_ras (core ctx : Nat) (f : Thread → Thread) : (updThread s core ctx f).ras = s.ras := rfl
@[simp] theorem updThread_henyen (core ctx : Nat) (f : Thread → Thread) : (updThread s core ctx f).henyen = s.henyen := rfl
@[simp] theorem updThread_tally (core ctx : Nat) (f : Thread → Thread) : (updThread s core ctx f).tally = s.tally := rfl
@[simp] theorem updThread_power (core ctx : Nat) (f : Thread → Thread) : (updThread s core ctx f).power = s.power := rfl
@[simp] theorem updThread_pkg (core ctx : Nat) (f : Thread → Thread) : (updThread s core ctx f).pkg = s.pkg := rfl
@[simp] theorem updThread_startup (core ctx : Nat) (f : Thread → Thread) : (updThread s core ctx f).startup = s.startup := rfl
@[simp] theorem updThread_pins (core ctx : Nat) (f : Thread → Thread) : (updThread s core ctx f).pins = s.pins := rfl
@[simp] theorem updThread_clocks (core ctx : Nat) (f : Thread → Thread) : (updThread s core ctx f).clocks = s.clocks := rfl
@[simp] theorem updThread_pendingPages (core ctx : Nat) (f : Thread → Thread) : (updThread s core ctx f).pendingPages = s.pendingPages := rfl
@[simp] theorem updThread_eventsDue (core ctx : Nat) (f : Thread → Thread) : (updThread s core ctx f).eventsDue = s.eventsDue := rfl
@[simp] theorem updThread_out (core ctx : Nat) (f : Thread → Thread) : (updThread s core ctx f).out = s.out := rfl

/-! ### updCore -/

@[simp] theorem updCore_pending (core : Nat) (f : Core → Core) : (updCore s core f).pending = s.pending := rfl
@[simp] theorem updCore_now (core : Nat) (f : Core → Core) : (updCore s core f).now = s.now := rfl
@[simp] theorem updCore_free (core : Nat) (f : Core → Core) : (updCore s core f).free = s.free := rfl
@[simp] theorem updCore_fuse (core : Nat) (f : Core → Core) : (updCore s core f).fuse = s.fuse := rfl
@[simp] theorem updCore_board (core : Nat) (f : Core → Core) : (updCore s core f).board = s.board := rfl
@[simp] theorem updCore_regs (core : Nat) (f : Core → Core) : (updCore s core f).regs = s.regs := rfl
@[simp] theorem updCore_staged (core : Nat) (f : Core → Core) : (updCore s core f).staged = s.staged := rfl
@[simp] theorem updCore_pendLo (core : Nat) (f : Core → Core) : (updCore s core f).pendLo = s.pendLo := rfl
@[simp] theorem updCore_store (core : Nat) (f : Core → Core) : (updCore s core f).store = s.store := rfl
@[simp] theorem updCore_sspace (core : Nat) (f : Core → Core) : (updCore s core f).sspace = s.sspace := rfl
@[simp] theorem updCore_cspace (core : Nat) (f : Core → Core) : (updCore s core f).cspace = s.cspace := rfl
@[simp] theorem updCore_tick (core : Nat) (f : Core → Core) : (updCore s core f).tick = s.tick := rfl
@[simp] theorem updCore_threads (core : Nat) (f : Core → Core) : (updCore s core f).threads = s.threads := rfl
@[simp] theorem updCore_bitmaps (core : Nat) (f : Core → Core) : (updCore s core f).bitmaps = s.bitmaps := rfl
@[simp] theorem updCore_sync (core : Nat) (f : Core → Core) : (updCore s core f).sync = s.sync := rfl
@[simp] theorem updCore_triggers (core : Nat) (f : Core → Core) : (updCore s core f).triggers = s.triggers := rfl
@[simp] theorem updCore_xlt (core : Nat) (f : Core → Core) : (updCore s core f).xlt = s.xlt := rfl
@[simp] theorem updCore_descriptors (core : Nat) (f : Core → Core) : (updCore s core f).descriptors = s.descriptors := rfl
@[simp] theorem updCore_nextDesc (core : Nat) (f : Core → Core) : (updCore s core f).nextDesc = s.nextDesc := rfl
@[simp] theorem updCore_pools (core : Nat) (f : Core → Core) : (updCore s core f).pools = s.pools := rfl
@[simp] theorem updCore_haul (core : Nat) (f : Core → Core) : (updCore s core f).haul = s.haul := rfl
@[simp] theorem updCore_haulRuns (core : Nat) (f : Core → Core) : (updCore s core f).haulRuns = s.haulRuns := rfl
@[simp] theorem updCore_hosts (core : Nat) (f : Core → Core) : (updCore s core f).hosts = s.hosts := rfl
@[simp] theorem updCore_splits (core : Nat) (f : Core → Core) : (updCore s core f).splits = s.splits := rfl
@[simp] theorem updCore_queues (core : Nat) (f : Core → Core) : (updCore s core f).queues = s.queues := rfl
@[simp] theorem updCore_regions (core : Nat) (f : Core → Core) : (updCore s core f).regions = s.regions := rfl
@[simp] theorem updCore_coherent (core : Nat) (f : Core → Core) : (updCore s core f).coherent = s.coherent := rfl
@[simp] theorem updCore_seam (core : Nat) (f : Core → Core) : (updCore s core f).seam = s.seam := rfl
@[simp] theorem updCore_ports (core : Nat) (f : Core → Core) : (updCore s core f).ports = s.ports := rfl
@[simp] theorem updCore_fabric (core : Nat) (f : Core → Core) : (updCore s core f).fabric = s.fabric := rfl
@[simp] theorem updCore_eloan (core : Nat) (f : Core → Core) : (updCore s core f).eloan = s.eloan := rfl
@[simp] theorem updCore_ras (core : Nat) (f : Core → Core) : (updCore s core f).ras = s.ras := rfl
@[simp] theorem updCore_henyen (core : Nat) (f : Core → Core) : (updCore s core f).henyen = s.henyen := rfl
@[simp] theorem updCore_tally (core : Nat) (f : Core → Core) : (updCore s core f).tally = s.tally := rfl
@[simp] theorem updCore_power (core : Nat) (f : Core → Core) : (updCore s core f).power = s.power := rfl
@[simp] theorem updCore_pkg (core : Nat) (f : Core → Core) : (updCore s core f).pkg = s.pkg := rfl
@[simp] theorem updCore_startup (core : Nat) (f : Core → Core) : (updCore s core f).startup = s.startup := rfl
@[simp] theorem updCore_pins (core : Nat) (f : Core → Core) : (updCore s core f).pins = s.pins := rfl
@[simp] theorem updCore_clocks (core : Nat) (f : Core → Core) : (updCore s core f).clocks = s.clocks := rfl
@[simp] theorem updCore_pendingPages (core : Nat) (f : Core → Core) : (updCore s core f).pendingPages = s.pendingPages := rfl
@[simp] theorem updCore_eventsDue (core : Nat) (f : Core → Core) : (updCore s core f).eventsDue = s.eventsDue := rfl
@[simp] theorem updCore_out (core : Nat) (f : Core → Core) : (updCore s core f).out = s.out := rfl

/-! ### updTick -/

@[simp] theorem updTick_pending (f : TickUnit → TickUnit) : (updTick s f).pending = s.pending := rfl
@[simp] theorem updTick_now (f : TickUnit → TickUnit) : (updTick s f).now = s.now := rfl
@[simp] theorem updTick_free (f : TickUnit → TickUnit) : (updTick s f).free = s.free := rfl
@[simp] theorem updTick_fuse (f : TickUnit → TickUnit) : (updTick s f).fuse = s.fuse := rfl
@[simp] theorem updTick_board (f : TickUnit → TickUnit) : (updTick s f).board = s.board := rfl
@[simp] theorem updTick_regs (f : TickUnit → TickUnit) : (updTick s f).regs = s.regs := rfl
@[simp] theorem updTick_staged (f : TickUnit → TickUnit) : (updTick s f).staged = s.staged := rfl
@[simp] theorem updTick_pendLo (f : TickUnit → TickUnit) : (updTick s f).pendLo = s.pendLo := rfl
@[simp] theorem updTick_store (f : TickUnit → TickUnit) : (updTick s f).store = s.store := rfl
@[simp] theorem updTick_sspace (f : TickUnit → TickUnit) : (updTick s f).sspace = s.sspace := rfl
@[simp] theorem updTick_cspace (f : TickUnit → TickUnit) : (updTick s f).cspace = s.cspace := rfl
@[simp] theorem updTick_threads (f : TickUnit → TickUnit) : (updTick s f).threads = s.threads := rfl
@[simp] theorem updTick_cores (f : TickUnit → TickUnit) : (updTick s f).cores = s.cores := rfl
@[simp] theorem updTick_bitmaps (f : TickUnit → TickUnit) : (updTick s f).bitmaps = s.bitmaps := rfl
@[simp] theorem updTick_sync (f : TickUnit → TickUnit) : (updTick s f).sync = s.sync := rfl
@[simp] theorem updTick_triggers (f : TickUnit → TickUnit) : (updTick s f).triggers = s.triggers := rfl
@[simp] theorem updTick_xlt (f : TickUnit → TickUnit) : (updTick s f).xlt = s.xlt := rfl
@[simp] theorem updTick_descriptors (f : TickUnit → TickUnit) : (updTick s f).descriptors = s.descriptors := rfl
@[simp] theorem updTick_nextDesc (f : TickUnit → TickUnit) : (updTick s f).nextDesc = s.nextDesc := rfl
@[simp] theorem updTick_pools (f : TickUnit → TickUnit) : (updTick s f).pools = s.pools := rfl
@[simp] theorem updTick_haul (f : TickUnit → TickUnit) : (updTick s f).haul = s.haul := rfl
@[simp] theorem updTick_haulRuns (f : TickUnit → TickUnit) : (updTick s f).haulRuns = s.haulRuns := rfl
@[simp] theorem updTick_hosts (f : TickUnit → TickUnit) : (updTick s f).hosts = s.hosts := rfl
@[simp] theorem updTick_splits (f : TickUnit → TickUnit) : (updTick s f).splits = s.splits := rfl
@[simp] theorem updTick_queues (f : TickUnit → TickUnit) : (updTick s f).queues = s.queues := rfl
@[simp] theorem updTick_regions (f : TickUnit → TickUnit) : (updTick s f).regions = s.regions := rfl
@[simp] theorem updTick_coherent (f : TickUnit → TickUnit) : (updTick s f).coherent = s.coherent := rfl
@[simp] theorem updTick_seam (f : TickUnit → TickUnit) : (updTick s f).seam = s.seam := rfl
@[simp] theorem updTick_ports (f : TickUnit → TickUnit) : (updTick s f).ports = s.ports := rfl
@[simp] theorem updTick_fabric (f : TickUnit → TickUnit) : (updTick s f).fabric = s.fabric := rfl
@[simp] theorem updTick_eloan (f : TickUnit → TickUnit) : (updTick s f).eloan = s.eloan := rfl
@[simp] theorem updTick_ras (f : TickUnit → TickUnit) : (updTick s f).ras = s.ras := rfl
@[simp] theorem updTick_henyen (f : TickUnit → TickUnit) : (updTick s f).henyen = s.henyen := rfl
@[simp] theorem updTick_tally (f : TickUnit → TickUnit) : (updTick s f).tally = s.tally := rfl
@[simp] theorem updTick_power (f : TickUnit → TickUnit) : (updTick s f).power = s.power := rfl
@[simp] theorem updTick_pkg (f : TickUnit → TickUnit) : (updTick s f).pkg = s.pkg := rfl
@[simp] theorem updTick_startup (f : TickUnit → TickUnit) : (updTick s f).startup = s.startup := rfl
@[simp] theorem updTick_pins (f : TickUnit → TickUnit) : (updTick s f).pins = s.pins := rfl
@[simp] theorem updTick_clocks (f : TickUnit → TickUnit) : (updTick s f).clocks = s.clocks := rfl
@[simp] theorem updTick_pendingPages (f : TickUnit → TickUnit) : (updTick s f).pendingPages = s.pendingPages := rfl
@[simp] theorem updTick_eventsDue (f : TickUnit → TickUnit) : (updTick s f).eventsDue = s.eventsDue := rfl
@[simp] theorem updTick_out (f : TickUnit → TickUnit) : (updTick s f).out = s.out := rfl

/-! ### updFabric -/

@[simp] theorem updFabric_pending (f : Fabric → Fabric) : (updFabric s f).pending = s.pending := rfl
@[simp] theorem updFabric_now (f : Fabric → Fabric) : (updFabric s f).now = s.now := rfl
@[simp] theorem updFabric_free (f : Fabric → Fabric) : (updFabric s f).free = s.free := rfl
@[simp] theorem updFabric_fuse (f : Fabric → Fabric) : (updFabric s f).fuse = s.fuse := rfl
@[simp] theorem updFabric_board (f : Fabric → Fabric) : (updFabric s f).board = s.board := rfl
@[simp] theorem updFabric_regs (f : Fabric → Fabric) : (updFabric s f).regs = s.regs := rfl
@[simp] theorem updFabric_staged (f : Fabric → Fabric) : (updFabric s f).staged = s.staged := rfl
@[simp] theorem updFabric_pendLo (f : Fabric → Fabric) : (updFabric s f).pendLo = s.pendLo := rfl
@[simp] theorem updFabric_store (f : Fabric → Fabric) : (updFabric s f).store = s.store := rfl
@[simp] theorem updFabric_sspace (f : Fabric → Fabric) : (updFabric s f).sspace = s.sspace := rfl
@[simp] theorem updFabric_cspace (f : Fabric → Fabric) : (updFabric s f).cspace = s.cspace := rfl
@[simp] theorem updFabric_tick (f : Fabric → Fabric) : (updFabric s f).tick = s.tick := rfl
@[simp] theorem updFabric_threads (f : Fabric → Fabric) : (updFabric s f).threads = s.threads := rfl
@[simp] theorem updFabric_cores (f : Fabric → Fabric) : (updFabric s f).cores = s.cores := rfl
@[simp] theorem updFabric_bitmaps (f : Fabric → Fabric) : (updFabric s f).bitmaps = s.bitmaps := rfl
@[simp] theorem updFabric_sync (f : Fabric → Fabric) : (updFabric s f).sync = s.sync := rfl
@[simp] theorem updFabric_triggers (f : Fabric → Fabric) : (updFabric s f).triggers = s.triggers := rfl
@[simp] theorem updFabric_xlt (f : Fabric → Fabric) : (updFabric s f).xlt = s.xlt := rfl
@[simp] theorem updFabric_descriptors (f : Fabric → Fabric) : (updFabric s f).descriptors = s.descriptors := rfl
@[simp] theorem updFabric_nextDesc (f : Fabric → Fabric) : (updFabric s f).nextDesc = s.nextDesc := rfl
@[simp] theorem updFabric_pools (f : Fabric → Fabric) : (updFabric s f).pools = s.pools := rfl
@[simp] theorem updFabric_haul (f : Fabric → Fabric) : (updFabric s f).haul = s.haul := rfl
@[simp] theorem updFabric_haulRuns (f : Fabric → Fabric) : (updFabric s f).haulRuns = s.haulRuns := rfl
@[simp] theorem updFabric_hosts (f : Fabric → Fabric) : (updFabric s f).hosts = s.hosts := rfl
@[simp] theorem updFabric_splits (f : Fabric → Fabric) : (updFabric s f).splits = s.splits := rfl
@[simp] theorem updFabric_queues (f : Fabric → Fabric) : (updFabric s f).queues = s.queues := rfl
@[simp] theorem updFabric_regions (f : Fabric → Fabric) : (updFabric s f).regions = s.regions := rfl
@[simp] theorem updFabric_coherent (f : Fabric → Fabric) : (updFabric s f).coherent = s.coherent := rfl
@[simp] theorem updFabric_seam (f : Fabric → Fabric) : (updFabric s f).seam = s.seam := rfl
@[simp] theorem updFabric_ports (f : Fabric → Fabric) : (updFabric s f).ports = s.ports := rfl
@[simp] theorem updFabric_eloan (f : Fabric → Fabric) : (updFabric s f).eloan = s.eloan := rfl
@[simp] theorem updFabric_ras (f : Fabric → Fabric) : (updFabric s f).ras = s.ras := rfl
@[simp] theorem updFabric_henyen (f : Fabric → Fabric) : (updFabric s f).henyen = s.henyen := rfl
@[simp] theorem updFabric_tally (f : Fabric → Fabric) : (updFabric s f).tally = s.tally := rfl
@[simp] theorem updFabric_power (f : Fabric → Fabric) : (updFabric s f).power = s.power := rfl
@[simp] theorem updFabric_pkg (f : Fabric → Fabric) : (updFabric s f).pkg = s.pkg := rfl
@[simp] theorem updFabric_startup (f : Fabric → Fabric) : (updFabric s f).startup = s.startup := rfl
@[simp] theorem updFabric_pins (f : Fabric → Fabric) : (updFabric s f).pins = s.pins := rfl
@[simp] theorem updFabric_clocks (f : Fabric → Fabric) : (updFabric s f).clocks = s.clocks := rfl
@[simp] theorem updFabric_pendingPages (f : Fabric → Fabric) : (updFabric s f).pendingPages = s.pendingPages := rfl
@[simp] theorem updFabric_eventsDue (f : Fabric → Fabric) : (updFabric s f).eventsDue = s.eventsDue := rfl
@[simp] theorem updFabric_out (f : Fabric → Fabric) : (updFabric s f).out = s.out := rfl

/-! ### updEloan -/

@[simp] theorem updEloan_pending (f : Eloan → Eloan) : (updEloan s f).pending = s.pending := rfl
@[simp] theorem updEloan_now (f : Eloan → Eloan) : (updEloan s f).now = s.now := rfl
@[simp] theorem updEloan_free (f : Eloan → Eloan) : (updEloan s f).free = s.free := rfl
@[simp] theorem updEloan_fuse (f : Eloan → Eloan) : (updEloan s f).fuse = s.fuse := rfl
@[simp] theorem updEloan_board (f : Eloan → Eloan) : (updEloan s f).board = s.board := rfl
@[simp] theorem updEloan_regs (f : Eloan → Eloan) : (updEloan s f).regs = s.regs := rfl
@[simp] theorem updEloan_staged (f : Eloan → Eloan) : (updEloan s f).staged = s.staged := rfl
@[simp] theorem updEloan_pendLo (f : Eloan → Eloan) : (updEloan s f).pendLo = s.pendLo := rfl
@[simp] theorem updEloan_store (f : Eloan → Eloan) : (updEloan s f).store = s.store := rfl
@[simp] theorem updEloan_sspace (f : Eloan → Eloan) : (updEloan s f).sspace = s.sspace := rfl
@[simp] theorem updEloan_cspace (f : Eloan → Eloan) : (updEloan s f).cspace = s.cspace := rfl
@[simp] theorem updEloan_tick (f : Eloan → Eloan) : (updEloan s f).tick = s.tick := rfl
@[simp] theorem updEloan_threads (f : Eloan → Eloan) : (updEloan s f).threads = s.threads := rfl
@[simp] theorem updEloan_cores (f : Eloan → Eloan) : (updEloan s f).cores = s.cores := rfl
@[simp] theorem updEloan_bitmaps (f : Eloan → Eloan) : (updEloan s f).bitmaps = s.bitmaps := rfl
@[simp] theorem updEloan_sync (f : Eloan → Eloan) : (updEloan s f).sync = s.sync := rfl
@[simp] theorem updEloan_triggers (f : Eloan → Eloan) : (updEloan s f).triggers = s.triggers := rfl
@[simp] theorem updEloan_xlt (f : Eloan → Eloan) : (updEloan s f).xlt = s.xlt := rfl
@[simp] theorem updEloan_descriptors (f : Eloan → Eloan) : (updEloan s f).descriptors = s.descriptors := rfl
@[simp] theorem updEloan_nextDesc (f : Eloan → Eloan) : (updEloan s f).nextDesc = s.nextDesc := rfl
@[simp] theorem updEloan_pools (f : Eloan → Eloan) : (updEloan s f).pools = s.pools := rfl
@[simp] theorem updEloan_haul (f : Eloan → Eloan) : (updEloan s f).haul = s.haul := rfl
@[simp] theorem updEloan_haulRuns (f : Eloan → Eloan) : (updEloan s f).haulRuns = s.haulRuns := rfl
@[simp] theorem updEloan_hosts (f : Eloan → Eloan) : (updEloan s f).hosts = s.hosts := rfl
@[simp] theorem updEloan_splits (f : Eloan → Eloan) : (updEloan s f).splits = s.splits := rfl
@[simp] theorem updEloan_queues (f : Eloan → Eloan) : (updEloan s f).queues = s.queues := rfl
@[simp] theorem updEloan_regions (f : Eloan → Eloan) : (updEloan s f).regions = s.regions := rfl
@[simp] theorem updEloan_coherent (f : Eloan → Eloan) : (updEloan s f).coherent = s.coherent := rfl
@[simp] theorem updEloan_seam (f : Eloan → Eloan) : (updEloan s f).seam = s.seam := rfl
@[simp] theorem updEloan_ports (f : Eloan → Eloan) : (updEloan s f).ports = s.ports := rfl
@[simp] theorem updEloan_fabric (f : Eloan → Eloan) : (updEloan s f).fabric = s.fabric := rfl
@[simp] theorem updEloan_ras (f : Eloan → Eloan) : (updEloan s f).ras = s.ras := rfl
@[simp] theorem updEloan_henyen (f : Eloan → Eloan) : (updEloan s f).henyen = s.henyen := rfl
@[simp] theorem updEloan_tally (f : Eloan → Eloan) : (updEloan s f).tally = s.tally := rfl
@[simp] theorem updEloan_power (f : Eloan → Eloan) : (updEloan s f).power = s.power := rfl
@[simp] theorem updEloan_pkg (f : Eloan → Eloan) : (updEloan s f).pkg = s.pkg := rfl
@[simp] theorem updEloan_startup (f : Eloan → Eloan) : (updEloan s f).startup = s.startup := rfl
@[simp] theorem updEloan_pins (f : Eloan → Eloan) : (updEloan s f).pins = s.pins := rfl
@[simp] theorem updEloan_clocks (f : Eloan → Eloan) : (updEloan s f).clocks = s.clocks := rfl
@[simp] theorem updEloan_pendingPages (f : Eloan → Eloan) : (updEloan s f).pendingPages = s.pendingPages := rfl
@[simp] theorem updEloan_eventsDue (f : Eloan → Eloan) : (updEloan s f).eventsDue = s.eventsDue := rfl
@[simp] theorem updEloan_out (f : Eloan → Eloan) : (updEloan s f).out = s.out := rfl

/-! ### updHen -/

@[simp] theorem updHen_pending (f : Henyen → Henyen) : (updHen s f).pending = s.pending := rfl
@[simp] theorem updHen_now (f : Henyen → Henyen) : (updHen s f).now = s.now := rfl
@[simp] theorem updHen_free (f : Henyen → Henyen) : (updHen s f).free = s.free := rfl
@[simp] theorem updHen_fuse (f : Henyen → Henyen) : (updHen s f).fuse = s.fuse := rfl
@[simp] theorem updHen_board (f : Henyen → Henyen) : (updHen s f).board = s.board := rfl
@[simp] theorem updHen_regs (f : Henyen → Henyen) : (updHen s f).regs = s.regs := rfl
@[simp] theorem updHen_staged (f : Henyen → Henyen) : (updHen s f).staged = s.staged := rfl
@[simp] theorem updHen_pendLo (f : Henyen → Henyen) : (updHen s f).pendLo = s.pendLo := rfl
@[simp] theorem updHen_store (f : Henyen → Henyen) : (updHen s f).store = s.store := rfl
@[simp] theorem updHen_sspace (f : Henyen → Henyen) : (updHen s f).sspace = s.sspace := rfl
@[simp] theorem updHen_cspace (f : Henyen → Henyen) : (updHen s f).cspace = s.cspace := rfl
@[simp] theorem updHen_tick (f : Henyen → Henyen) : (updHen s f).tick = s.tick := rfl
@[simp] theorem updHen_threads (f : Henyen → Henyen) : (updHen s f).threads = s.threads := rfl
@[simp] theorem updHen_cores (f : Henyen → Henyen) : (updHen s f).cores = s.cores := rfl
@[simp] theorem updHen_bitmaps (f : Henyen → Henyen) : (updHen s f).bitmaps = s.bitmaps := rfl
@[simp] theorem updHen_sync (f : Henyen → Henyen) : (updHen s f).sync = s.sync := rfl
@[simp] theorem updHen_triggers (f : Henyen → Henyen) : (updHen s f).triggers = s.triggers := rfl
@[simp] theorem updHen_xlt (f : Henyen → Henyen) : (updHen s f).xlt = s.xlt := rfl
@[simp] theorem updHen_descriptors (f : Henyen → Henyen) : (updHen s f).descriptors = s.descriptors := rfl
@[simp] theorem updHen_nextDesc (f : Henyen → Henyen) : (updHen s f).nextDesc = s.nextDesc := rfl
@[simp] theorem updHen_pools (f : Henyen → Henyen) : (updHen s f).pools = s.pools := rfl
@[simp] theorem updHen_haul (f : Henyen → Henyen) : (updHen s f).haul = s.haul := rfl
@[simp] theorem updHen_haulRuns (f : Henyen → Henyen) : (updHen s f).haulRuns = s.haulRuns := rfl
@[simp] theorem updHen_hosts (f : Henyen → Henyen) : (updHen s f).hosts = s.hosts := rfl
@[simp] theorem updHen_splits (f : Henyen → Henyen) : (updHen s f).splits = s.splits := rfl
@[simp] theorem updHen_queues (f : Henyen → Henyen) : (updHen s f).queues = s.queues := rfl
@[simp] theorem updHen_regions (f : Henyen → Henyen) : (updHen s f).regions = s.regions := rfl
@[simp] theorem updHen_coherent (f : Henyen → Henyen) : (updHen s f).coherent = s.coherent := rfl
@[simp] theorem updHen_seam (f : Henyen → Henyen) : (updHen s f).seam = s.seam := rfl
@[simp] theorem updHen_ports (f : Henyen → Henyen) : (updHen s f).ports = s.ports := rfl
@[simp] theorem updHen_fabric (f : Henyen → Henyen) : (updHen s f).fabric = s.fabric := rfl
@[simp] theorem updHen_eloan (f : Henyen → Henyen) : (updHen s f).eloan = s.eloan := rfl
@[simp] theorem updHen_ras (f : Henyen → Henyen) : (updHen s f).ras = s.ras := rfl
@[simp] theorem updHen_tally (f : Henyen → Henyen) : (updHen s f).tally = s.tally := rfl
@[simp] theorem updHen_power (f : Henyen → Henyen) : (updHen s f).power = s.power := rfl
@[simp] theorem updHen_pkg (f : Henyen → Henyen) : (updHen s f).pkg = s.pkg := rfl
@[simp] theorem updHen_startup (f : Henyen → Henyen) : (updHen s f).startup = s.startup := rfl
@[simp] theorem updHen_pins (f : Henyen → Henyen) : (updHen s f).pins = s.pins := rfl
@[simp] theorem updHen_clocks (f : Henyen → Henyen) : (updHen s f).clocks = s.clocks := rfl
@[simp] theorem updHen_pendingPages (f : Henyen → Henyen) : (updHen s f).pendingPages = s.pendingPages := rfl
@[simp] theorem updHen_eventsDue (f : Henyen → Henyen) : (updHen s f).eventsDue = s.eventsDue := rfl
@[simp] theorem updHen_out (f : Henyen → Henyen) : (updHen s f).out = s.out := rfl

/-! ### updPkg -/

@[simp] theorem updPkg_pending (f : PowerPkg → PowerPkg) : (updPkg s f).pending = s.pending := rfl
@[simp] theorem updPkg_now (f : PowerPkg → PowerPkg) : (updPkg s f).now = s.now := rfl
@[simp] theorem updPkg_free (f : PowerPkg → PowerPkg) : (updPkg s f).free = s.free := rfl
@[simp] theorem updPkg_fuse (f : PowerPkg → PowerPkg) : (updPkg s f).fuse = s.fuse := rfl
@[simp] theorem updPkg_board (f : PowerPkg → PowerPkg) : (updPkg s f).board = s.board := rfl
@[simp] theorem updPkg_regs (f : PowerPkg → PowerPkg) : (updPkg s f).regs = s.regs := rfl
@[simp] theorem updPkg_staged (f : PowerPkg → PowerPkg) : (updPkg s f).staged = s.staged := rfl
@[simp] theorem updPkg_pendLo (f : PowerPkg → PowerPkg) : (updPkg s f).pendLo = s.pendLo := rfl
@[simp] theorem updPkg_store (f : PowerPkg → PowerPkg) : (updPkg s f).store = s.store := rfl
@[simp] theorem updPkg_sspace (f : PowerPkg → PowerPkg) : (updPkg s f).sspace = s.sspace := rfl
@[simp] theorem updPkg_cspace (f : PowerPkg → PowerPkg) : (updPkg s f).cspace = s.cspace := rfl
@[simp] theorem updPkg_tick (f : PowerPkg → PowerPkg) : (updPkg s f).tick = s.tick := rfl
@[simp] theorem updPkg_threads (f : PowerPkg → PowerPkg) : (updPkg s f).threads = s.threads := rfl
@[simp] theorem updPkg_cores (f : PowerPkg → PowerPkg) : (updPkg s f).cores = s.cores := rfl
@[simp] theorem updPkg_bitmaps (f : PowerPkg → PowerPkg) : (updPkg s f).bitmaps = s.bitmaps := rfl
@[simp] theorem updPkg_sync (f : PowerPkg → PowerPkg) : (updPkg s f).sync = s.sync := rfl
@[simp] theorem updPkg_triggers (f : PowerPkg → PowerPkg) : (updPkg s f).triggers = s.triggers := rfl
@[simp] theorem updPkg_xlt (f : PowerPkg → PowerPkg) : (updPkg s f).xlt = s.xlt := rfl
@[simp] theorem updPkg_descriptors (f : PowerPkg → PowerPkg) : (updPkg s f).descriptors = s.descriptors := rfl
@[simp] theorem updPkg_nextDesc (f : PowerPkg → PowerPkg) : (updPkg s f).nextDesc = s.nextDesc := rfl
@[simp] theorem updPkg_pools (f : PowerPkg → PowerPkg) : (updPkg s f).pools = s.pools := rfl
@[simp] theorem updPkg_haul (f : PowerPkg → PowerPkg) : (updPkg s f).haul = s.haul := rfl
@[simp] theorem updPkg_haulRuns (f : PowerPkg → PowerPkg) : (updPkg s f).haulRuns = s.haulRuns := rfl
@[simp] theorem updPkg_hosts (f : PowerPkg → PowerPkg) : (updPkg s f).hosts = s.hosts := rfl
@[simp] theorem updPkg_splits (f : PowerPkg → PowerPkg) : (updPkg s f).splits = s.splits := rfl
@[simp] theorem updPkg_queues (f : PowerPkg → PowerPkg) : (updPkg s f).queues = s.queues := rfl
@[simp] theorem updPkg_regions (f : PowerPkg → PowerPkg) : (updPkg s f).regions = s.regions := rfl
@[simp] theorem updPkg_coherent (f : PowerPkg → PowerPkg) : (updPkg s f).coherent = s.coherent := rfl
@[simp] theorem updPkg_seam (f : PowerPkg → PowerPkg) : (updPkg s f).seam = s.seam := rfl
@[simp] theorem updPkg_ports (f : PowerPkg → PowerPkg) : (updPkg s f).ports = s.ports := rfl
@[simp] theorem updPkg_fabric (f : PowerPkg → PowerPkg) : (updPkg s f).fabric = s.fabric := rfl
@[simp] theorem updPkg_eloan (f : PowerPkg → PowerPkg) : (updPkg s f).eloan = s.eloan := rfl
@[simp] theorem updPkg_ras (f : PowerPkg → PowerPkg) : (updPkg s f).ras = s.ras := rfl
@[simp] theorem updPkg_henyen (f : PowerPkg → PowerPkg) : (updPkg s f).henyen = s.henyen := rfl
@[simp] theorem updPkg_tally (f : PowerPkg → PowerPkg) : (updPkg s f).tally = s.tally := rfl
@[simp] theorem updPkg_power (f : PowerPkg → PowerPkg) : (updPkg s f).power = s.power := rfl
@[simp] theorem updPkg_startup (f : PowerPkg → PowerPkg) : (updPkg s f).startup = s.startup := rfl
@[simp] theorem updPkg_pins (f : PowerPkg → PowerPkg) : (updPkg s f).pins = s.pins := rfl
@[simp] theorem updPkg_clocks (f : PowerPkg → PowerPkg) : (updPkg s f).clocks = s.clocks := rfl
@[simp] theorem updPkg_pendingPages (f : PowerPkg → PowerPkg) : (updPkg s f).pendingPages = s.pendingPages := rfl
@[simp] theorem updPkg_eventsDue (f : PowerPkg → PowerPkg) : (updPkg s f).eventsDue = s.eventsDue := rfl
@[simp] theorem updPkg_out (f : PowerPkg → PowerPkg) : (updPkg s f).out = s.out := rfl

/-! ### updPower -/

@[simp] theorem updPower_pending (p : Nat) (f : PowerPart → PowerPart) : (updPower s p f).pending = s.pending := rfl
@[simp] theorem updPower_now (p : Nat) (f : PowerPart → PowerPart) : (updPower s p f).now = s.now := rfl
@[simp] theorem updPower_free (p : Nat) (f : PowerPart → PowerPart) : (updPower s p f).free = s.free := rfl
@[simp] theorem updPower_fuse (p : Nat) (f : PowerPart → PowerPart) : (updPower s p f).fuse = s.fuse := rfl
@[simp] theorem updPower_board (p : Nat) (f : PowerPart → PowerPart) : (updPower s p f).board = s.board := rfl
@[simp] theorem updPower_regs (p : Nat) (f : PowerPart → PowerPart) : (updPower s p f).regs = s.regs := rfl
@[simp] theorem updPower_staged (p : Nat) (f : PowerPart → PowerPart) : (updPower s p f).staged = s.staged := rfl
@[simp] theorem updPower_pendLo (p : Nat) (f : PowerPart → PowerPart) : (updPower s p f).pendLo = s.pendLo := rfl
@[simp] theorem updPower_store (p : Nat) (f : PowerPart → PowerPart) : (updPower s p f).store = s.store := rfl
@[simp] theorem updPower_sspace (p : Nat) (f : PowerPart → PowerPart) : (updPower s p f).sspace = s.sspace := rfl
@[simp] theorem updPower_cspace (p : Nat) (f : PowerPart → PowerPart) : (updPower s p f).cspace = s.cspace := rfl
@[simp] theorem updPower_tick (p : Nat) (f : PowerPart → PowerPart) : (updPower s p f).tick = s.tick := rfl
@[simp] theorem updPower_threads (p : Nat) (f : PowerPart → PowerPart) : (updPower s p f).threads = s.threads := rfl
@[simp] theorem updPower_cores (p : Nat) (f : PowerPart → PowerPart) : (updPower s p f).cores = s.cores := rfl
@[simp] theorem updPower_bitmaps (p : Nat) (f : PowerPart → PowerPart) : (updPower s p f).bitmaps = s.bitmaps := rfl
@[simp] theorem updPower_sync (p : Nat) (f : PowerPart → PowerPart) : (updPower s p f).sync = s.sync := rfl
@[simp] theorem updPower_triggers (p : Nat) (f : PowerPart → PowerPart) : (updPower s p f).triggers = s.triggers := rfl
@[simp] theorem updPower_xlt (p : Nat) (f : PowerPart → PowerPart) : (updPower s p f).xlt = s.xlt := rfl
@[simp] theorem updPower_descriptors (p : Nat) (f : PowerPart → PowerPart) : (updPower s p f).descriptors = s.descriptors := rfl
@[simp] theorem updPower_nextDesc (p : Nat) (f : PowerPart → PowerPart) : (updPower s p f).nextDesc = s.nextDesc := rfl
@[simp] theorem updPower_pools (p : Nat) (f : PowerPart → PowerPart) : (updPower s p f).pools = s.pools := rfl
@[simp] theorem updPower_haul (p : Nat) (f : PowerPart → PowerPart) : (updPower s p f).haul = s.haul := rfl
@[simp] theorem updPower_haulRuns (p : Nat) (f : PowerPart → PowerPart) : (updPower s p f).haulRuns = s.haulRuns := rfl
@[simp] theorem updPower_hosts (p : Nat) (f : PowerPart → PowerPart) : (updPower s p f).hosts = s.hosts := rfl
@[simp] theorem updPower_splits (p : Nat) (f : PowerPart → PowerPart) : (updPower s p f).splits = s.splits := rfl
@[simp] theorem updPower_queues (p : Nat) (f : PowerPart → PowerPart) : (updPower s p f).queues = s.queues := rfl
@[simp] theorem updPower_regions (p : Nat) (f : PowerPart → PowerPart) : (updPower s p f).regions = s.regions := rfl
@[simp] theorem updPower_coherent (p : Nat) (f : PowerPart → PowerPart) : (updPower s p f).coherent = s.coherent := rfl
@[simp] theorem updPower_seam (p : Nat) (f : PowerPart → PowerPart) : (updPower s p f).seam = s.seam := rfl
@[simp] theorem updPower_ports (p : Nat) (f : PowerPart → PowerPart) : (updPower s p f).ports = s.ports := rfl
@[simp] theorem updPower_fabric (p : Nat) (f : PowerPart → PowerPart) : (updPower s p f).fabric = s.fabric := rfl
@[simp] theorem updPower_eloan (p : Nat) (f : PowerPart → PowerPart) : (updPower s p f).eloan = s.eloan := rfl
@[simp] theorem updPower_ras (p : Nat) (f : PowerPart → PowerPart) : (updPower s p f).ras = s.ras := rfl
@[simp] theorem updPower_henyen (p : Nat) (f : PowerPart → PowerPart) : (updPower s p f).henyen = s.henyen := rfl
@[simp] theorem updPower_tally (p : Nat) (f : PowerPart → PowerPart) : (updPower s p f).tally = s.tally := rfl
@[simp] theorem updPower_pkg (p : Nat) (f : PowerPart → PowerPart) : (updPower s p f).pkg = s.pkg := rfl
@[simp] theorem updPower_startup (p : Nat) (f : PowerPart → PowerPart) : (updPower s p f).startup = s.startup := rfl
@[simp] theorem updPower_pins (p : Nat) (f : PowerPart → PowerPart) : (updPower s p f).pins = s.pins := rfl
@[simp] theorem updPower_clocks (p : Nat) (f : PowerPart → PowerPart) : (updPower s p f).clocks = s.clocks := rfl
@[simp] theorem updPower_pendingPages (p : Nat) (f : PowerPart → PowerPart) : (updPower s p f).pendingPages = s.pendingPages := rfl
@[simp] theorem updPower_eventsDue (p : Nat) (f : PowerPart → PowerPart) : (updPower s p f).eventsDue = s.eventsDue := rfl
@[simp] theorem updPower_out (p : Nat) (f : PowerPart → PowerPart) : (updPower s p f).out = s.out := rfl

/-! ### updSampler -/

@[simp] theorem updSampler_pending (p : Nat) (f : Sampler → Sampler) : (updSampler s p f).pending = s.pending := rfl
@[simp] theorem updSampler_now (p : Nat) (f : Sampler → Sampler) : (updSampler s p f).now = s.now := rfl
@[simp] theorem updSampler_free (p : Nat) (f : Sampler → Sampler) : (updSampler s p f).free = s.free := rfl
@[simp] theorem updSampler_fuse (p : Nat) (f : Sampler → Sampler) : (updSampler s p f).fuse = s.fuse := rfl
@[simp] theorem updSampler_board (p : Nat) (f : Sampler → Sampler) : (updSampler s p f).board = s.board := rfl
@[simp] theorem updSampler_regs (p : Nat) (f : Sampler → Sampler) : (updSampler s p f).regs = s.regs := rfl
@[simp] theorem updSampler_staged (p : Nat) (f : Sampler → Sampler) : (updSampler s p f).staged = s.staged := rfl
@[simp] theorem updSampler_pendLo (p : Nat) (f : Sampler → Sampler) : (updSampler s p f).pendLo = s.pendLo := rfl
@[simp] theorem updSampler_store (p : Nat) (f : Sampler → Sampler) : (updSampler s p f).store = s.store := rfl
@[simp] theorem updSampler_sspace (p : Nat) (f : Sampler → Sampler) : (updSampler s p f).sspace = s.sspace := rfl
@[simp] theorem updSampler_cspace (p : Nat) (f : Sampler → Sampler) : (updSampler s p f).cspace = s.cspace := rfl
@[simp] theorem updSampler_tick (p : Nat) (f : Sampler → Sampler) : (updSampler s p f).tick = s.tick := rfl
@[simp] theorem updSampler_threads (p : Nat) (f : Sampler → Sampler) : (updSampler s p f).threads = s.threads := rfl
@[simp] theorem updSampler_cores (p : Nat) (f : Sampler → Sampler) : (updSampler s p f).cores = s.cores := rfl
@[simp] theorem updSampler_bitmaps (p : Nat) (f : Sampler → Sampler) : (updSampler s p f).bitmaps = s.bitmaps := rfl
@[simp] theorem updSampler_sync (p : Nat) (f : Sampler → Sampler) : (updSampler s p f).sync = s.sync := rfl
@[simp] theorem updSampler_triggers (p : Nat) (f : Sampler → Sampler) : (updSampler s p f).triggers = s.triggers := rfl
@[simp] theorem updSampler_xlt (p : Nat) (f : Sampler → Sampler) : (updSampler s p f).xlt = s.xlt := rfl
@[simp] theorem updSampler_descriptors (p : Nat) (f : Sampler → Sampler) : (updSampler s p f).descriptors = s.descriptors := rfl
@[simp] theorem updSampler_nextDesc (p : Nat) (f : Sampler → Sampler) : (updSampler s p f).nextDesc = s.nextDesc := rfl
@[simp] theorem updSampler_pools (p : Nat) (f : Sampler → Sampler) : (updSampler s p f).pools = s.pools := rfl
@[simp] theorem updSampler_haul (p : Nat) (f : Sampler → Sampler) : (updSampler s p f).haul = s.haul := rfl
@[simp] theorem updSampler_haulRuns (p : Nat) (f : Sampler → Sampler) : (updSampler s p f).haulRuns = s.haulRuns := rfl
@[simp] theorem updSampler_hosts (p : Nat) (f : Sampler → Sampler) : (updSampler s p f).hosts = s.hosts := rfl
@[simp] theorem updSampler_splits (p : Nat) (f : Sampler → Sampler) : (updSampler s p f).splits = s.splits := rfl
@[simp] theorem updSampler_queues (p : Nat) (f : Sampler → Sampler) : (updSampler s p f).queues = s.queues := rfl
@[simp] theorem updSampler_regions (p : Nat) (f : Sampler → Sampler) : (updSampler s p f).regions = s.regions := rfl
@[simp] theorem updSampler_coherent (p : Nat) (f : Sampler → Sampler) : (updSampler s p f).coherent = s.coherent := rfl
@[simp] theorem updSampler_seam (p : Nat) (f : Sampler → Sampler) : (updSampler s p f).seam = s.seam := rfl
@[simp] theorem updSampler_ports (p : Nat) (f : Sampler → Sampler) : (updSampler s p f).ports = s.ports := rfl
@[simp] theorem updSampler_fabric (p : Nat) (f : Sampler → Sampler) : (updSampler s p f).fabric = s.fabric := rfl
@[simp] theorem updSampler_eloan (p : Nat) (f : Sampler → Sampler) : (updSampler s p f).eloan = s.eloan := rfl
@[simp] theorem updSampler_ras (p : Nat) (f : Sampler → Sampler) : (updSampler s p f).ras = s.ras := rfl
@[simp] theorem updSampler_henyen (p : Nat) (f : Sampler → Sampler) : (updSampler s p f).henyen = s.henyen := rfl
@[simp] theorem updSampler_power (p : Nat) (f : Sampler → Sampler) : (updSampler s p f).power = s.power := rfl
@[simp] theorem updSampler_pkg (p : Nat) (f : Sampler → Sampler) : (updSampler s p f).pkg = s.pkg := rfl
@[simp] theorem updSampler_startup (p : Nat) (f : Sampler → Sampler) : (updSampler s p f).startup = s.startup := rfl
@[simp] theorem updSampler_pins (p : Nat) (f : Sampler → Sampler) : (updSampler s p f).pins = s.pins := rfl
@[simp] theorem updSampler_clocks (p : Nat) (f : Sampler → Sampler) : (updSampler s p f).clocks = s.clocks := rfl
@[simp] theorem updSampler_pendingPages (p : Nat) (f : Sampler → Sampler) : (updSampler s p f).pendingPages = s.pendingPages := rfl
@[simp] theorem updSampler_eventsDue (p : Nat) (f : Sampler → Sampler) : (updSampler s p f).eventsDue = s.eventsDue := rfl
@[simp] theorem updSampler_out (p : Nat) (f : Sampler → Sampler) : (updSampler s p f).out = s.out := rfl

/-! ### updPort -/

@[simp] theorem updPort_pending (n : Nat) (f : Port → Port) : (updPort s n f).pending = s.pending := rfl
@[simp] theorem updPort_now (n : Nat) (f : Port → Port) : (updPort s n f).now = s.now := rfl
@[simp] theorem updPort_free (n : Nat) (f : Port → Port) : (updPort s n f).free = s.free := rfl
@[simp] theorem updPort_fuse (n : Nat) (f : Port → Port) : (updPort s n f).fuse = s.fuse := rfl
@[simp] theorem updPort_board (n : Nat) (f : Port → Port) : (updPort s n f).board = s.board := rfl
@[simp] theorem updPort_regs (n : Nat) (f : Port → Port) : (updPort s n f).regs = s.regs := rfl
@[simp] theorem updPort_staged (n : Nat) (f : Port → Port) : (updPort s n f).staged = s.staged := rfl
@[simp] theorem updPort_pendLo (n : Nat) (f : Port → Port) : (updPort s n f).pendLo = s.pendLo := rfl
@[simp] theorem updPort_store (n : Nat) (f : Port → Port) : (updPort s n f).store = s.store := rfl
@[simp] theorem updPort_sspace (n : Nat) (f : Port → Port) : (updPort s n f).sspace = s.sspace := rfl
@[simp] theorem updPort_cspace (n : Nat) (f : Port → Port) : (updPort s n f).cspace = s.cspace := rfl
@[simp] theorem updPort_tick (n : Nat) (f : Port → Port) : (updPort s n f).tick = s.tick := rfl
@[simp] theorem updPort_threads (n : Nat) (f : Port → Port) : (updPort s n f).threads = s.threads := rfl
@[simp] theorem updPort_cores (n : Nat) (f : Port → Port) : (updPort s n f).cores = s.cores := rfl
@[simp] theorem updPort_bitmaps (n : Nat) (f : Port → Port) : (updPort s n f).bitmaps = s.bitmaps := rfl
@[simp] theorem updPort_sync (n : Nat) (f : Port → Port) : (updPort s n f).sync = s.sync := rfl
@[simp] theorem updPort_triggers (n : Nat) (f : Port → Port) : (updPort s n f).triggers = s.triggers := rfl
@[simp] theorem updPort_xlt (n : Nat) (f : Port → Port) : (updPort s n f).xlt = s.xlt := rfl
@[simp] theorem updPort_descriptors (n : Nat) (f : Port → Port) : (updPort s n f).descriptors = s.descriptors := rfl
@[simp] theorem updPort_nextDesc (n : Nat) (f : Port → Port) : (updPort s n f).nextDesc = s.nextDesc := rfl
@[simp] theorem updPort_pools (n : Nat) (f : Port → Port) : (updPort s n f).pools = s.pools := rfl
@[simp] theorem updPort_haul (n : Nat) (f : Port → Port) : (updPort s n f).haul = s.haul := rfl
@[simp] theorem updPort_haulRuns (n : Nat) (f : Port → Port) : (updPort s n f).haulRuns = s.haulRuns := rfl
@[simp] theorem updPort_hosts (n : Nat) (f : Port → Port) : (updPort s n f).hosts = s.hosts := rfl
@[simp] theorem updPort_splits (n : Nat) (f : Port → Port) : (updPort s n f).splits = s.splits := rfl
@[simp] theorem updPort_queues (n : Nat) (f : Port → Port) : (updPort s n f).queues = s.queues := rfl
@[simp] theorem updPort_regions (n : Nat) (f : Port → Port) : (updPort s n f).regions = s.regions := rfl
@[simp] theorem updPort_coherent (n : Nat) (f : Port → Port) : (updPort s n f).coherent = s.coherent := rfl
@[simp] theorem updPort_seam (n : Nat) (f : Port → Port) : (updPort s n f).seam = s.seam := rfl
@[simp] theorem updPort_fabric (n : Nat) (f : Port → Port) : (updPort s n f).fabric = s.fabric := rfl
@[simp] theorem updPort_eloan (n : Nat) (f : Port → Port) : (updPort s n f).eloan = s.eloan := rfl
@[simp] theorem updPort_ras (n : Nat) (f : Port → Port) : (updPort s n f).ras = s.ras := rfl
@[simp] theorem updPort_henyen (n : Nat) (f : Port → Port) : (updPort s n f).henyen = s.henyen := rfl
@[simp] theorem updPort_tally (n : Nat) (f : Port → Port) : (updPort s n f).tally = s.tally := rfl
@[simp] theorem updPort_power (n : Nat) (f : Port → Port) : (updPort s n f).power = s.power := rfl
@[simp] theorem updPort_pkg (n : Nat) (f : Port → Port) : (updPort s n f).pkg = s.pkg := rfl
@[simp] theorem updPort_startup (n : Nat) (f : Port → Port) : (updPort s n f).startup = s.startup := rfl
@[simp] theorem updPort_pins (n : Nat) (f : Port → Port) : (updPort s n f).pins = s.pins := rfl
@[simp] theorem updPort_clocks (n : Nat) (f : Port → Port) : (updPort s n f).clocks = s.clocks := rfl
@[simp] theorem updPort_pendingPages (n : Nat) (f : Port → Port) : (updPort s n f).pendingPages = s.pendingPages := rfl
@[simp] theorem updPort_eventsDue (n : Nat) (f : Port → Port) : (updPort s n f).eventsDue = s.eventsDue := rfl
@[simp] theorem updPort_out (n : Nat) (f : Port → Port) : (updPort s n f).out = s.out := rfl

/-! ### updQueue -/

@[simp] theorem updQueue_pending (q : Nat) (f : HostQueue → HostQueue) : (updQueue s q f).pending = s.pending := rfl
@[simp] theorem updQueue_now (q : Nat) (f : HostQueue → HostQueue) : (updQueue s q f).now = s.now := rfl
@[simp] theorem updQueue_free (q : Nat) (f : HostQueue → HostQueue) : (updQueue s q f).free = s.free := rfl
@[simp] theorem updQueue_fuse (q : Nat) (f : HostQueue → HostQueue) : (updQueue s q f).fuse = s.fuse := rfl
@[simp] theorem updQueue_board (q : Nat) (f : HostQueue → HostQueue) : (updQueue s q f).board = s.board := rfl
@[simp] theorem updQueue_regs (q : Nat) (f : HostQueue → HostQueue) : (updQueue s q f).regs = s.regs := rfl
@[simp] theorem updQueue_staged (q : Nat) (f : HostQueue → HostQueue) : (updQueue s q f).staged = s.staged := rfl
@[simp] theorem updQueue_pendLo (q : Nat) (f : HostQueue → HostQueue) : (updQueue s q f).pendLo = s.pendLo := rfl
@[simp] theorem updQueue_store (q : Nat) (f : HostQueue → HostQueue) : (updQueue s q f).store = s.store := rfl
@[simp] theorem updQueue_sspace (q : Nat) (f : HostQueue → HostQueue) : (updQueue s q f).sspace = s.sspace := rfl
@[simp] theorem updQueue_cspace (q : Nat) (f : HostQueue → HostQueue) : (updQueue s q f).cspace = s.cspace := rfl
@[simp] theorem updQueue_tick (q : Nat) (f : HostQueue → HostQueue) : (updQueue s q f).tick = s.tick := rfl
@[simp] theorem updQueue_threads (q : Nat) (f : HostQueue → HostQueue) : (updQueue s q f).threads = s.threads := rfl
@[simp] theorem updQueue_cores (q : Nat) (f : HostQueue → HostQueue) : (updQueue s q f).cores = s.cores := rfl
@[simp] theorem updQueue_bitmaps (q : Nat) (f : HostQueue → HostQueue) : (updQueue s q f).bitmaps = s.bitmaps := rfl
@[simp] theorem updQueue_sync (q : Nat) (f : HostQueue → HostQueue) : (updQueue s q f).sync = s.sync := rfl
@[simp] theorem updQueue_triggers (q : Nat) (f : HostQueue → HostQueue) : (updQueue s q f).triggers = s.triggers := rfl
@[simp] theorem updQueue_xlt (q : Nat) (f : HostQueue → HostQueue) : (updQueue s q f).xlt = s.xlt := rfl
@[simp] theorem updQueue_descriptors (q : Nat) (f : HostQueue → HostQueue) : (updQueue s q f).descriptors = s.descriptors := rfl
@[simp] theorem updQueue_nextDesc (q : Nat) (f : HostQueue → HostQueue) : (updQueue s q f).nextDesc = s.nextDesc := rfl
@[simp] theorem updQueue_pools (q : Nat) (f : HostQueue → HostQueue) : (updQueue s q f).pools = s.pools := rfl
@[simp] theorem updQueue_haul (q : Nat) (f : HostQueue → HostQueue) : (updQueue s q f).haul = s.haul := rfl
@[simp] theorem updQueue_haulRuns (q : Nat) (f : HostQueue → HostQueue) : (updQueue s q f).haulRuns = s.haulRuns := rfl
@[simp] theorem updQueue_hosts (q : Nat) (f : HostQueue → HostQueue) : (updQueue s q f).hosts = s.hosts := rfl
@[simp] theorem updQueue_splits (q : Nat) (f : HostQueue → HostQueue) : (updQueue s q f).splits = s.splits := rfl
@[simp] theorem updQueue_regions (q : Nat) (f : HostQueue → HostQueue) : (updQueue s q f).regions = s.regions := rfl
@[simp] theorem updQueue_coherent (q : Nat) (f : HostQueue → HostQueue) : (updQueue s q f).coherent = s.coherent := rfl
@[simp] theorem updQueue_seam (q : Nat) (f : HostQueue → HostQueue) : (updQueue s q f).seam = s.seam := rfl
@[simp] theorem updQueue_ports (q : Nat) (f : HostQueue → HostQueue) : (updQueue s q f).ports = s.ports := rfl
@[simp] theorem updQueue_fabric (q : Nat) (f : HostQueue → HostQueue) : (updQueue s q f).fabric = s.fabric := rfl
@[simp] theorem updQueue_eloan (q : Nat) (f : HostQueue → HostQueue) : (updQueue s q f).eloan = s.eloan := rfl
@[simp] theorem updQueue_ras (q : Nat) (f : HostQueue → HostQueue) : (updQueue s q f).ras = s.ras := rfl
@[simp] theorem updQueue_henyen (q : Nat) (f : HostQueue → HostQueue) : (updQueue s q f).henyen = s.henyen := rfl
@[simp] theorem updQueue_tally (q : Nat) (f : HostQueue → HostQueue) : (updQueue s q f).tally = s.tally := rfl
@[simp] theorem updQueue_power (q : Nat) (f : HostQueue → HostQueue) : (updQueue s q f).power = s.power := rfl
@[simp] theorem updQueue_pkg (q : Nat) (f : HostQueue → HostQueue) : (updQueue s q f).pkg = s.pkg := rfl
@[simp] theorem updQueue_startup (q : Nat) (f : HostQueue → HostQueue) : (updQueue s q f).startup = s.startup := rfl
@[simp] theorem updQueue_pins (q : Nat) (f : HostQueue → HostQueue) : (updQueue s q f).pins = s.pins := rfl
@[simp] theorem updQueue_clocks (q : Nat) (f : HostQueue → HostQueue) : (updQueue s q f).clocks = s.clocks := rfl
@[simp] theorem updQueue_pendingPages (q : Nat) (f : HostQueue → HostQueue) : (updQueue s q f).pendingPages = s.pendingPages := rfl
@[simp] theorem updQueue_eventsDue (q : Nat) (f : HostQueue → HostQueue) : (updQueue s q f).eventsDue = s.eventsDue := rfl
@[simp] theorem updQueue_out (q : Nat) (f : HostQueue → HostQueue) : (updQueue s q f).out = s.out := rfl

/-! ### setObj -/

@[simp] theorem setObj_pending (k : Nat) (o : SyncObj) : (setObj s k o).pending = s.pending := rfl
@[simp] theorem setObj_now (k : Nat) (o : SyncObj) : (setObj s k o).now = s.now := rfl
@[simp] theorem setObj_free (k : Nat) (o : SyncObj) : (setObj s k o).free = s.free := rfl
@[simp] theorem setObj_fuse (k : Nat) (o : SyncObj) : (setObj s k o).fuse = s.fuse := rfl
@[simp] theorem setObj_board (k : Nat) (o : SyncObj) : (setObj s k o).board = s.board := rfl
@[simp] theorem setObj_regs (k : Nat) (o : SyncObj) : (setObj s k o).regs = s.regs := rfl
@[simp] theorem setObj_staged (k : Nat) (o : SyncObj) : (setObj s k o).staged = s.staged := rfl
@[simp] theorem setObj_pendLo (k : Nat) (o : SyncObj) : (setObj s k o).pendLo = s.pendLo := rfl
@[simp] theorem setObj_store (k : Nat) (o : SyncObj) : (setObj s k o).store = s.store := rfl
@[simp] theorem setObj_sspace (k : Nat) (o : SyncObj) : (setObj s k o).sspace = s.sspace := rfl
@[simp] theorem setObj_cspace (k : Nat) (o : SyncObj) : (setObj s k o).cspace = s.cspace := rfl
@[simp] theorem setObj_tick (k : Nat) (o : SyncObj) : (setObj s k o).tick = s.tick := rfl
@[simp] theorem setObj_threads (k : Nat) (o : SyncObj) : (setObj s k o).threads = s.threads := rfl
@[simp] theorem setObj_cores (k : Nat) (o : SyncObj) : (setObj s k o).cores = s.cores := rfl
@[simp] theorem setObj_bitmaps (k : Nat) (o : SyncObj) : (setObj s k o).bitmaps = s.bitmaps := rfl
@[simp] theorem setObj_triggers (k : Nat) (o : SyncObj) : (setObj s k o).triggers = s.triggers := rfl
@[simp] theorem setObj_xlt (k : Nat) (o : SyncObj) : (setObj s k o).xlt = s.xlt := rfl
@[simp] theorem setObj_descriptors (k : Nat) (o : SyncObj) : (setObj s k o).descriptors = s.descriptors := rfl
@[simp] theorem setObj_nextDesc (k : Nat) (o : SyncObj) : (setObj s k o).nextDesc = s.nextDesc := rfl
@[simp] theorem setObj_pools (k : Nat) (o : SyncObj) : (setObj s k o).pools = s.pools := rfl
@[simp] theorem setObj_haul (k : Nat) (o : SyncObj) : (setObj s k o).haul = s.haul := rfl
@[simp] theorem setObj_haulRuns (k : Nat) (o : SyncObj) : (setObj s k o).haulRuns = s.haulRuns := rfl
@[simp] theorem setObj_hosts (k : Nat) (o : SyncObj) : (setObj s k o).hosts = s.hosts := rfl
@[simp] theorem setObj_splits (k : Nat) (o : SyncObj) : (setObj s k o).splits = s.splits := rfl
@[simp] theorem setObj_queues (k : Nat) (o : SyncObj) : (setObj s k o).queues = s.queues := rfl
@[simp] theorem setObj_regions (k : Nat) (o : SyncObj) : (setObj s k o).regions = s.regions := rfl
@[simp] theorem setObj_coherent (k : Nat) (o : SyncObj) : (setObj s k o).coherent = s.coherent := rfl
@[simp] theorem setObj_seam (k : Nat) (o : SyncObj) : (setObj s k o).seam = s.seam := rfl
@[simp] theorem setObj_ports (k : Nat) (o : SyncObj) : (setObj s k o).ports = s.ports := rfl
@[simp] theorem setObj_fabric (k : Nat) (o : SyncObj) : (setObj s k o).fabric = s.fabric := rfl
@[simp] theorem setObj_eloan (k : Nat) (o : SyncObj) : (setObj s k o).eloan = s.eloan := rfl
@[simp] theorem setObj_ras (k : Nat) (o : SyncObj) : (setObj s k o).ras = s.ras := rfl
@[simp] theorem setObj_henyen (k : Nat) (o : SyncObj) : (setObj s k o).henyen = s.henyen := rfl
@[simp] theorem setObj_tally (k : Nat) (o : SyncObj) : (setObj s k o).tally = s.tally := rfl
@[simp] theorem setObj_power (k : Nat) (o : SyncObj) : (setObj s k o).power = s.power := rfl
@[simp] theorem setObj_pkg (k : Nat) (o : SyncObj) : (setObj s k o).pkg = s.pkg := rfl
@[simp] theorem setObj_startup (k : Nat) (o : SyncObj) : (setObj s k o).startup = s.startup := rfl
@[simp] theorem setObj_pins (k : Nat) (o : SyncObj) : (setObj s k o).pins = s.pins := rfl
@[simp] theorem setObj_clocks (k : Nat) (o : SyncObj) : (setObj s k o).clocks = s.clocks := rfl
@[simp] theorem setObj_pendingPages (k : Nat) (o : SyncObj) : (setObj s k o).pendingPages = s.pendingPages := rfl
@[simp] theorem setObj_eventsDue (k : Nat) (o : SyncObj) : (setObj s k o).eventsDue = s.eventsDue := rfl
@[simp] theorem setObj_out (k : Nat) (o : SyncObj) : (setObj s k o).out = s.out := rfl

end Sys2Proof.Machine
end

