-- ==== Sys2Proof/Laws/Operations.lean ====
section
/-! SUPPORT. What each shared operation does, once: the aggregator, control words, delivery of packets, answers of messages. -/

namespace Sys2Proof.Machine

/-! ### The aggregator -/

theorem pendingNow_settle (s : State) : pendingNow (settle s) = pendingNow s := rfl

theorem settle_settled (s : State) : (settle s).Settled := rfl

/-! ### Control words -/

/-- A control word of the issuing thread: its meaning begins in the state where the word has been consumed. -/
theorem controlRow_issues {s : State} {core ctx op w : Nat} (act : State → Nat → Nat → Control → State) (h : Issues s core ctx op w) :
    controlRow s core op act = act (consumed s core ctx) ctx (thread s core ctx).pc (control w) := by
  obtain ⟨h1, h2, h3, h4, h5⟩ := h
  simp [controlRow, h1, h2, h3, h4, h5]

theorem thread_updThread_same (s : State) (core ctx : Nat) (f : Thread → Thread) (h : Tab.wf (fun _ => Thread.empty) s.threads = true) :
    thread (updThread s core ctx f) core ctx = f (thread s core ctx) := Tab.get_set_same _ _ _ _ h

theorem thread_updThread_other (s : State) (core ctx core' ctx' : Nat) (f : Thread → Thread)
    (h : Tab.wf (fun _ => Thread.empty) s.threads = true) (hk : thrKey core' ctx' ≠ thrKey core ctx) :
    thread (updThread s core ctx f) core' ctx' = thread s core' ctx' := Tab.get_set_other _ _ _ h hk

/-! ### Packets -/

/-- An accepted packet's meaning begins where it has left the switch and its epoch is recorded. -/
theorem delivered_accepted {s : State} {p : Packet} {ptype : Nat} (f : State → State) (h : Accepted s p ptype) :
    delivered s p ptype f = f (afterDelivery s p) := by
  obtain ⟨h1, h2, h3, h4⟩ := h
  simp only [delivered, admitPacket, afterDelivery]
  rw [if_neg (by simp [h1, h2]), if_neg (by rcases h3 with h3 | h3 <;> simp_all), if_neg (by rcases h4 with h4 | h4 <;> simp_all)]

/-! ### Messages -/

theorem checked_ok (s : State) (cs : List (Bool × Nat)) (f : State → State) (h : cs.all (fun c => !c.1) = true) :
    checked s cs f = f s := by
  have : cs.find? (fun c => c.1) = none := by
    rw [List.find?_eq_none]; intro c hc; simpa using List.all_eq_true.mp h c hc
  simp [checked, this]

theorem domainChecked_ok (s : State) (cs : List (Bool × Nat)) (f : State → State) (h : cs.all (fun c => !c.1) = true) :
    domainChecked s cs f = domainAnswer (f s) domSuccess := by
  have : cs.find? (fun c => c.1) = none := by
    rw [List.find?_eq_none]; intro c hc; simpa using List.all_eq_true.mp h c hc
  simp [domainChecked, this]

theorem domainMessage_serves (s : State) (f : State → State) (h : ServesDomain s) : domainMessage s f = f s := by
  obtain ⟨h1, h2, h3⟩ := h
  simp [domainMessage, h1, h2, h3]

end Sys2Proof.Machine
end

