-- ==== Sys2Proof/WellFormed.lean ====
section
/-! DEFINITION. Which commands are well formed: each operand fits the field or the unit number that carries it. A well-formed
command may still name what the spec refuses (a key ID above 4,095, an absent partition); refusing that is its meaning. -/

namespace Sys2Proof

/-! ### Checks of one operand -/

/-- A value fits a field of n bits. -/
def fits (n v : Nat) : Bool := decide (v < 2 ^ n)
/-- A partition. -/
def inPart (p : Nat) : Bool := decide (p < 12)
/-- A core of the hub. -/
def inCore (c : Nat) : Bool := decide (c < 384)
/-- A thread context of a core. -/
def inCtx (c : Nat) : Bool := decide (c < 64)
/-- A cluster. -/
def inCluster (c : Nat) : Bool := decide (c < 24)
/-- A seam die or an I/O die. -/
def inDie (d : Nat) : Bool := decide (d < 2)
/-- A Nelpin port. -/
def inPort (n : Nat) : Bool := decide (n < 48)
/-- A host port. -/
def inHostPort (q : Nat) : Bool := decide (q < 8)
/-- A host link. -/
def inLink (l : Nat) : Bool := decide (l < 16)
/-- A host queue. -/
def inQueue (q : Nat) : Bool := decide (q < 1024)
/-- A hub ID. -/
def inHub (h : Nat) : Bool := decide (h < 1024)
/-- A DDR5 channel. -/
def inChannel (c : Nat) : Bool := decide (c < 24)
/-- A multiplexed land. -/
def inLand (l : Nat) : Bool := decide (l < 24)
/-- A PLL of CLK_STATUS. -/
def inPll (p : Nat) : Bool := decide (p < 17)
/-- An engine by its unit code: 1 TE, 2 VE, 3 SE, 4 ME (ch. 3, Command words). -/
def inEngine (u : Nat) : Bool := decide (1 ≤ u) && decide (u ≤ 4)
/-- A unit with spare rows: a DDR5 channel, or 32 + p for a stack. -/
def spares (u : Nat) : Bool := inChannel u || (decide (32 ≤ u) && decide (u < 44))
/-- A trained width of a host link. -/
def inWidth (w : Nat) : Bool := decide (1 ≤ w) && decide (w ≤ 16)
/-- Exactly n bytes. -/
def ofLength (n : Nat) (l : List Byte) : Bool := l.length == n
/-- At most n bytes. -/
def upTo (n : Nat) (l : List Byte) : Bool := decide (l.length ≤ n)
/-- Exactly n numbers. -/
def ofCount (n : Nat) (l : List Nat) : Bool := l.length == n
/-- n numbers of a width. -/
def allFit (n w : Nat) (l : List Nat) : Bool := l.length == n && l.all (fits w)
/-- Partitions, each once. -/
def allParts (l : List Nat) : Bool := l.all inPart && l.Nodup
/-- Channels, each once. -/
def allChannels (l : List Nat) : Bool := l.all inChannel && l.Nodup
/-- Hub-local frames, each once. -/
def allFrames (l : List Nat) : Bool := l.all (fits 26) && l.Nodup
/-- n temperatures in quarter degrees that fit 12 signed bits. -/
def temps (n : Nat) (l : List Int) : Bool := l.length == n && l.all (fun t => decide (-2048 ≤ t) && decide (t < 2048))

/-- The fields of a packet fit (Tables 13.3 and 13.4). -/
def Packet.wellFormed (p : Packet) : Bool :=
  fits 6 p.ptype && fits 12 p.dst && fits 12 p.src && fits 16 p.tag && fits 4 p.status && fits 8 p.hops && fits 58 p.addr && fits 64 p.stamp &&
    fits 4 p.spart && fits 32 p.sepoch && fits 64 p.word3 && p.payload.length % 16 == 0

/-- The fields of a flit fit (Table 12.4): 15 units of 16 bytes. -/
def Flit.wellFormed (f : Flit) : Bool :=
  fits 3 f.kind && fits 12 f.seq && fits 12 f.ack && fits 3 f.channel && fits 4 f.start && f.units.all (fits 128) &&
    decide (f.units.length ≤ 15) && fits 12 f.first && fits 8 f.count && f.credits.all (fits 16)

/-- A requester fits. -/
def Requester.wellFormed : Requester → Bool
  | .thread hub part core ctx => inHub hub && fits 4 part && decide (core < 32) && inCtx ctx
  | .host agent => fits 12 agent

/-- The fields of a synchronisation operation fit (Table 3.7). -/
def SyncReq.wellFormed (r : SyncReq) : Bool :=
  r.who.wellFormed && fits 24 r.tag && decide (r.obj < 73728) && fits 4 r.cond && fits 64 r.imm && fits 12 r.context &&
    (match r.packet with | some p => p.wellFormed | none => true)

/-- The fields of a coherent request fit. -/
def CohReq.wellFormed (r : CohReq) : Bool :=
  fits 12 r.agent && fits 16 r.tag && fits 51 r.line && (match r.packet with | some p => p.wellFormed | none => true)

/-- The fields of an envelope fit. -/
def Envelope.wellFormed : Envelope → Bool
  | .request number keyHash kind first count region _ _ _ =>
    fits 16 number && fits 384 keyHash && fits 8 kind && fits 64 first && fits 32 count && fits 16 region
  | .grant number keyId => fits 16 number && fits 16 keyId
  | .revoke number | .receipt number => fits 16 number

/-! ### Commands -/

/-- A command is well formed. -/
def Instr.wellFormed (i : Instr) : Bool :=
  match i with
  | .open_ => true
  | .watch => true
  | .deadline => true
  | .close => true
  | .tickFrame frame => upTo 12 frame
  | .beatFrame frame => upTo 12 frame
  | .beatSend => true
  | .ringLost => true
  | .sourceLost => true
  | .unlockedTimeout => true
  | .bypassSwitch => true
  | .ringReturn frame => (match frame with | some f => upTo 12 f | none => true)
  | .admGoAdmit => true
  | .admGoWithdraw handle => fits 13 handle
  | .mark port packet => inPort port && packet.wellFormed
  | .wedge packet => packet.wellFormed
  | .recomputeStart handle => fits 13 handle
  | .commandFetch core => inCore core
  | .nop core => inCore core
  | .end_ core => inCore core
  | .jump core => inCore core
  | .call core => inCore core
  | .ret core => inCore core
  | .setc core => inCore core
  | .addc core => inCore core
  | .loop core => inCore core
  | .brc core => inCore core
  | .brs core => inCore core
  | .wait core => inCore core
  | .signal core => inCore core
  | .waitq core => inCore core
  | .progress core => inCore core
  | .launch core => inCore core
  | .sinit core => inCore core
  | .qmode core => inCore core
  | .enginePush core => inCore core
  | .queuePushRetry core ctx => inCore core && inCtx ctx
  | .cheaperRestart core ctx => inCore core && inCtx ctx
  | .commandComplete core unit ctx => inCore core && inEngine unit && inCtx ctx
  | .watchdogExpire core unit seq => inCore core && inEngine unit && fits 64 seq
  | .qmonFire core ctx unit => inCore core && inCtx ctx && inEngine unit
  | .syncopWait req => req.wellFormed
  | .syncopSignal req => req.wellFormed
  | .syncopSinit req => req.wellFormed
  | .syncopSample req => req.wellFormed
  | .syncopCancel req => req.wellFormed
  | .syncopAbandon req => req.wellFormed
  | .syncAnswer core ctx => inCore core && inCtx ctx
  | .waitTimeout core ctx => inCore core && inCtx ctx
  | .syncRetry core ctx => inCore core && inCtx ctx
  | .syncStateRead obj => decide (obj < 73728)
  | .syncWaitersClear part => inPart part
  | .trigger packet => packet.wellFormed
  | .coreFlush core => inCore core
  | .operandFill core => inCore core
  | .mma core => inCore core
  | .vmap core => inCore core
  | .vbin core => inCore core
  | .vred core => inCore core
  | .vqnt core => inCore core
  | .padd core => inCore core
  | .pcvt core => inCore core
  | .vdq core => inCore core
  | .sload core => inCore core
  | .scan core => inCore core
  | .gprobe core => inCore core
  | .kmerge core => inCore core
  | .candidateInsert core => inCore core
  | .ucNop core => inCore core
  | .ucJmp core => inCore core
  | .br core => inCore core
  | .emiti core => inCore core
  | .emitf core => inCore core
  | .ucRet core => inCore core
  | .skip core => inCore core
  | .vdot core => inCore core
  | .vsqd core => inCore core
  | .vabsd core => inCore core
  | .vwabsd core => inCore core
  | .vxpop core => inCore core
  | .vlut core => inCore core
  | .vclr core => inCore core
  | .vsqdx core => inCore core
  | .rsum core => inCore core
  | .smov core => inCore core
  | .sadd core => inCore core
  | .ssub core => inCore core
  | .smul core => inCore core
  | .sneg core => inCore core
  | .saddi core => inCore core
  | .fcvt core => inCore core
  | .fmul core => inCore core
  | .fadd core => inCore core
  | .frsq core => inCore core
  | .fneg core => inCore core
  | .sth core => inCore core
  | .seBmcFlush cluster => inCluster cluster
  | .copy core => inCore core
  | .gather core => inCore core
  | .scatter core => inCore core
  | .fatom core => inCore core
  | .ftrig core => inCore core
  | .haul core => inCore core
  | .haulDrop core => inCore core
  | .descriptorSubmit core => inCore core
  | .layerLand entry => fits 12 entry
  | .haulRefill part => inPart part
  | .poolPlace region pmask frames => fits 12 region && fits 12 pmask && fits 28 frames
  | .poolFree region frames => fits 12 region && fits 28 frames
  | .load context => fits 12 context
  | .unload context => fits 12 context
  | .invRange context _ => fits 12 context
  | .invCtx context _ => fits 12 context
  | .invAll _ => true
  | .invalidationDone => true
  | .epochIncrement context => fits 12 context
  | .xltDrain context => fits 12 context
  | .drainDone => true
  | .walkComplete core => inCore core
  | .hostLinkUp link width rate _ _ => inLink link && inWidth width && fits 2 rate
  | .hostLinkLossTimeout link => inLink link
  | .presenceLost port => inHostPort port
  | .ideFailure link => inLink link
  | .perst port => inHostPort port
  | .hostRetrain port => inHostPort port
  | .cxlMemRequest link _ dpa tag bytes mask _ => inLink link && fits 52 dpa && fits 16 tag && upTo 64 bytes && fits 64 mask
  | .mapInvalidate link => inLink link
  | .mapinvDone link => inLink link
  | .set_ index => fits 12 index
  | .free index => fits 12 index
  | .rgnRead index => fits 12 index
  | .shgSync group => fits 12 group
  | .sqTail queue tail => inQueue queue && fits 16 tail
  | .cqHead queue head => inQueue queue && fits 16 head
  | .queueReset queue => inQueue queue
  | .queueFetch queue entry => inQueue queue && ofLength 64 entry
  | .queueNop queue => inQueue queue
  | .copyIn queue _ _ => inQueue queue
  | .copyOut queue => inQueue queue
  | .pageOut queue => inQueue queue
  | .pageIn queue _ _ => inQueue queue
  | .sync queue => inQueue queue
  | .admit_ queue => inQueue queue
  | .withdraw queue => inQueue queue
  | .queueCompletion queue => inQueue queue
  | .hostReadTimeout queue cid => inQueue queue && fits 16 cid
  | .lockInterface queue => inQueue queue
  | .stopInterface queue => inQueue queue
  | .rdcur req => req.wellFormed
  | .rds req => req.wellFormed
  | .rdm req => req.wellFormed
  | .invm req => req.wellFormed
  | .wrcur req => req.wellFormed
  | .wrbk req _ => req.wellFormed
  | .evict req => req.wellFormed
  | .atomic packet => packet.wellFormed
  | .transactionClose line => fits 51 line
  | .birsp line agent bytes _ => fits 51 line && fits 12 agent && (match bytes with | some d => ofLength 64 d | none => true)
  | .biconflict agent line tag => fits 12 agent && fits 51 line && fits 16 tag
  | .inv packet => packet.wellFormed
  | .fwd packet => packet.wellFormed
  | .invack packet => packet.wellFormed
  | .fwdack packet => packet.wellFormed
  | .fwddata packet => packet.wellFormed
  | .fwddone packet => packet.wellFormed
  | .birspTimeout line agent => fits 51 line && fits 12 agent
  | .fwdackTimeout line agent => fits 51 line && fits 12 agent
  | .invackTimeout line agent => fits 51 line && fits 12 agent
  | .leaseInstall die => inDie die
  | .atomicBufferEvict die line => inDie die && fits 51 line
  | .sweep die => inDie die
  | .fenceClear die => inDie die
  | .reserveRewrite die part => inDie die && inPart part
  | .dataFlit port flit => inPort port && flit.wellFormed
  | .sealFlit port flit _ => inPort port && flit.wellFormed
  | .sealSend port => inPort port
  | .nakReceive port ack => inPort port && fits 12 ack
  | .nakResend port => inPort port
  | .replayTimeout port => inPort port
  | .probe port t1 => inPort port && fits 64 t1
  | .probeReply port t1 t2 t3 => inPort port && fits 64 t1 && fits 64 t2 && fits 64 t3
  | .probeSend port => inPort port
  | .laneFail port lane => inPort port && fits 2 lane
  | .retrainRequest port healthy => inPort port && fits 4 healthy
  | .retrainDone port healthy lastSeal credits => inPort port && fits 4 healthy && fits 12 lastSeal && allFit 6 16 credits
  | .laneRecover port lane => inPort port && fits 2 lane
  | .partnerDetect port => inPort port
  | .trainingStep port healthy => inPort port && fits 4 healthy
  | .params port fields => inPort port && ofCount 6 fields
  | .secure port _ => inPort port
  | .trainingTimeout port => inPort port
  | .linkSilent port => inPort port
  | .nlkEnable port => inPort port
  | .nlkRetrain port => inPort port
  | .laneOff port lanes => inPort port && fits 4 lanes
  | .packetRoute entry packet => fits 6 entry && packet.wellFormed
  | .bulkget packet => packet.wellFormed
  | .place packet => packet.wellFormed
  | .bulkdata packet => packet.wellFormed
  | .tableSetUnit packet => packet.wellFormed
  | .tableans packet => packet.wellFormed
  | .segmentEnqueue die => inDie die
  | .segmentEncode die => inDie die
  | .segmentExpand hub xfer => inHub hub && fits 16 xfer
  | .nfabCmpHighClear die => inDie die
  | .data packet => packet.wellFormed
  | .cmp packet => packet.wellFormed
  | .atomres packet => packet.wellFormed
  | .syncres packet => packet.wellFormed
  | .trigres packet => packet.wellFormed
  | .nakpath packet => packet.wellFormed
  | .bulkdone packet => packet.wellFormed
  | .requestResend tag => fits 16 tag
  | .requestTimeout tag => fits 16 tag
  | .fence packet => packet.wellFormed
  | .echo packet => packet.wellFormed
  | .reconcile packet => packet.wellFormed
  | .reconans packet => packet.wellFormed
  | .reconcileTimeout port => inPort port
  | .loss packet => packet.wellFormed
  | .epochNotice packet => packet.wellFormed
  | .hubLost hub => inHub hub
  | .tenantCreate sender keyHash => fits 10 sender && fits 384 keyHash
  | .tenantDelete sender tid => fits 10 sender && fits 16 tid
  | .keyidAssign sender keyId tid => fits 10 sender && fits 16 keyId && fits 16 tid
  | .keyidRevoke sender keyId => fits 10 sender && fits 16 keyId
  | .ctxBind sender context tid => fits 10 sender && fits 16 context && fits 16 tid
  | .objAssign sender obj context => fits 10 sender && fits 32 obj && fits 16 context
  | .envelope sender hub env _ => fits 10 sender && inHub hub && env.wellFormed
  | .keyGen tid keyId _ => fits 16 tid && fits 16 keyId
  | .keyImport tid keyId _ material => fits 16 tid && fits 16 keyId && ofLength 96 material
  | .keyDestroy tid keyId => fits 16 tid && fits 16 keyId
  | .bin tid keyId value => fits 16 tid && fits 16 keyId && fits 8 value
  | .ctxConfirm tid context hash => fits 16 tid && fits 16 context && fits 384 hash
  | .linkBind tid agent keyHash => fits 16 tid && fits 16 agent && fits 384 keyHash
  | .windowReq tid kind hub first count region _ _ _ => fits 16 tid && fits 8 kind && fits 16 hub && fits 64 first && fits 32 count && fits 16 region
  | .windowGrant hub number keyId => inHub hub && fits 16 number && fits 16 keyId
  | .windowDrop tid number => fits 16 tid && fits 16 number
  | .share tid region keyHash _ _ _ => fits 16 tid && fits 16 region && fits 384 keyHash
  | .query tid => fits 16 tid
  | .debugChallenge part level => fits 8 part && fits 8 level
  | .nonceExpire part => inPart part
  | .debugOpen part level _ _ => fits 8 part && fits 8 level
  | .debugClose part _ => fits 8 part
  | .setOwner keyHash => fits 384 keyHash
  | .transfer keyHash _ => fits 384 keyHash
  | .reclaim _ => true
  | .managerCert keyHash _ => fits 384 keyHash
  | .svnCommit cls _ => fits 8 cls
  | .getMeasurements session => fits 10 session
  | .keyProg link stream keyHash => inLink link && fits 1 stream && fits 384 keyHash
  | .clusterScrub cluster => inCluster cluster
  | .keyidFree keyId => fits 16 keyId
  | .heartbeatLoss part => inPart part
  | .partitionReset part => inPart part
  | .partitionUp part => inPart part
  | .partitionFail part => inPart part
  | .resync part => inPart part
  | .coreFence core => inCore core
  | .coreUnfence core => inCore core
  | .managerAbort job => fits 12 job
  | .rowSpare unit => spares unit
  | .frameRetire frames => allFrames frames
  | .channelRetire channel => inChannel channel
  | .retireNext => true
  | .read page offset => fits 17 page && fits 16 offset
  | .write page offset value => fits 16 page && fits 16 offset && fits 64 value
  | .readLo page offset => fits 16 page && fits 16 offset
  | .readHi page offset => fits 16 page && fits 16 offset
  | .writeLo page offset value => fits 16 page && fits 16 offset && fits 32 value
  | .writeHi page offset value => fits 16 page && fits 16 offset && fits 32 value
  | .arm page => fits 16 page
  | .registerWrite page offset value => fits 17 page && fits 16 offset && fits 64 value
  | .pageLock page => fits 16 page
  | .clampClear page => fits 16 page
  | .unstage page => fits 16 page
  | .mctpReceive die transport endpoint _ message => inDie die && fits 1 transport && fits 8 endpoint && upTo 65536 message
  | .intEvent group => fits 6 group
  | .intRemind => true
  | .leaseRenew _ _ => true
  | .leaseSample _ _ => true
  | .stepDown => true
  | .takeover _ _ => true
  | .updLoad _ _ version svn => fits 32 version && fits 16 svn
  | .updStart => true
  | .updRollback => true
  | .tallyCfgWrite part n value => inPart part && fits 6 n && fits 64 value
  | .snapshot part => inPart part
  | .sampleSeed part seed => inPart part && fits 32 seed
  | .sampCtrlWrite part value => inPart part && fits 64 value
  | .samplePop part => inPart part
  | .bwCtrlWrite die value => inDie die && fits 64 value
  | .bwWindowEnd die => inDie die
  | .peakClear die => inDie die
  | .powerReport vin amps parts => fits 16 vin && fits 12 amps && allFit 12 16 parts
  | .dutyReplace part => inPart part
  | .dutyRecover part => inPart part
  | .sustainedCheck => true
  | .sensorRead coreTemps stackTemps dies => temps 12 coreTemps && temps 12 stackTemps && temps 4 dies
  | .thermalCheck => true
  | .vinChange mv => fits 16 mv
  | .quiescedRestart failed => allParts failed
  | .droop part => inPart part
  | .droopMarginDecay part => inPart part
  | .calibrationSlot part => inPart part
  | .refClockLost _ => true
  | .refSelect _ => true
  | .coldStart failed channels => allParts failed && allChannels channels
  | .form domain hub => fits 64 domain && fits 16 hub
  | .join domain hub => fits 64 domain && fits 16 hub
  | .leave => true
  | .forget hub => fits 16 hub
  | .warmArea frame => fits 64 frame
  | .warmReset failed => allParts failed
  | .sleep part => fits 8 part
  | .wake part => fits 8 part
  | .status => true
  | .vstbyLost => true
  | .coldResetPin => true
  | .pinFuncWrite die value => inDie die && fits 64 value
  | .functionSwitch land => inLand land
  | .switchAbandon land => inLand land
  | .idleFlit port flit => inPort port && flit.wellFormed
  | .badCrcFlit port _ => inPort port
  | .partnerTrainingPattern port => inPort port
  | .releaseRecordExpire port => inPort port
  | .resultCacheExpire part agent tag => inPart part && fits 12 agent && fits 16 tag
  | .hostLinkL0Exit link => inLink link
  | .hostLinkL0Return link => inLink link
  | .startInterface queue => inQueue queue
  | .mirrorLost => true
  | .eloanOutOfStep root => inDie root
  | .refClockReturn _ => true
  | .pllLockLost pll => inPll pll
  | .vioChange _ => true
  | .gpioInputChange land _ => inLand land
  | .oldFunctionIdle land => inLand land

end Sys2Proof
end

