-- ==== Sys2Proof/Tests/Slice0.lean ====
section
/-! SUPPORT. Tests: for each statement with hypotheses a state and operands that meet them all, for each check of
well-formedness a command that it refuses, and the values that the spec's worked examples give. -/

open Sys2Proof Sys2Proof.Machine

namespace Sys2Proof.Tests

/-! ### States that the witnesses stand on -/

/-- A hub past start-up: every partition is up, the controllers run, an owner is set, it has joined domain 1. -/
def up : State :=
  { State.reset with
    ras := { Ras.reset with parts := (List.range 12).map (fun p => (p, { Partition.cold with state := PartState.up })) }
    startup := { Startup.reset with phase := .joined, domain := 1 }
    henyen := { Henyen.reset with running := [true, true], mirrorOk := true }
    eloan := { Eloan.reset with owned := true, mirrorOk := true } }

/-- The same hub with a field of a register set. -/
abbrev upF (r : FRef) (v : Nat) : State := setF up r 0 v

/-- The same hub at a place in its tick. -/
def upAt (stage phase : Nat) : State := { up with tick := { TickUnit.reset with stage := stage, phase := phase } }

/-- The same hub at a time. -/
def upNow (now : Nat) : State := { up with now := now }

/-- A packet to hub 0 with nothing but its type, its source, its tag and word 3. -/
def pkt (ptype src tag word3 : Nat) : Packet :=
  { ptype := ptype, dst := 0, src := src, tag := tag, status := 0, hops := 15, resend := false, nocomb := false, addr := 0, stamp := 0,
    spart := 0, sepoch := 0, word3 := word3, payload := [] }

/-- The same with a payload. -/
def pktOf (ptype src tag word3 : Nat) (payload : List Byte) : Packet := { pkt ptype src tag word3 with payload := payload }

/-- The hub with one frame placed in region 1 under key 1 of the vendor's TID, and address context 1 that maps it at 0. -/
def mem : State :=
  { up with
    pools := { up.pools with placed := [(0, 2)] }
    regions := { up.regions with entries := [(1, 0x1001)] }
    eloan := { up.eloan with
      keys := [(1, { KeyId.unused with state := .keyed })]
      bindings := [(1, { candidate := some 0, bound := some 0, hash := none })] }
    xlt := { up.xlt with
      contexts := [(1, { Context.empty with valid := true, segs := [{ base := 0, limit := 0x200000, phys := 0, rd := true, wr := true, fx := true, nc := false }] })] } }

/-- A budget record with one thread slot in partition 0. -/
def oneSlot : Budget :=
  { multiHub := false, dropOnStall := false, deterministic := false, context := 1, stride := 1, job := 1, watchThreshold := 0,
    primary := 0x10000, cheaper := 0x20000, firstTick := 0, ring := 0, ringEntries := 0, progressTotal := 0,
    entries := [{ kind := 0, unit := 0, slots := 1, a := 0, b := 0, c := 0 }] }

/-- A run of the tick 0. -/
def aRun (state : RunState) : StreamRun :=
  { tick := 0, state := state, path := false, progress := 0, atWatch := 0, late := false, cause := 0, recovered := false,
    recomputing := false, abortSeq := 0, farWait := 0, fabricWait := 0, hostWait := 0, exceeded := false, recovery := false,
    trigFirst := 0, trigTaken := 0 }

/-- A stream with the context 0 of core 0. -/
def aStream (run : Option StreamRun) : Stream :=
  { budget := oneSlot, order := 0, startTick := 0, suspended := false, threads := [0], run := run, done := [], redo := [],
    pendingTicks := [], lastStart := 0, used := [] }

/-- A thread of stream 7 that runs. -/
def aThread : Thread := { Thread.empty with state := .run, handle := 7, pc := 0x10000, counters := List.replicate 8 0 }

/-- The hub with a stream that runs and its one thread, at the context 0 of core 0. -/
def withThread (t : Thread) : State :=
  { mem with threads := [(0, t)], tick := { TickUnit.reset with stage := 0, streams := [(7, aStream (some (aRun .running)))] } }

/-- The thread has fetched a word. -/
def withWord (w : Nat) : State := withThread { aThread with fetched := some w }

/-- A word in an engine's queue. -/
def entry (w : Nat) : QueueEntry :=
  { word := w, counters := List.replicate 8 0, address := false, bypass := false, pc := 0x10000, tick := 0, pushed := 0, phase := 0,
    headSince := 0, monitored := false }

/-- The thread with a word in the queue of one engine. -/
def queued (unit w : Nat) : Thread := { aThread with queues := setNth [[], [], [], []] (unit - 1) [entry w] }

/-- A command that an engine has taken from the thread's queue. -/
def taken (w : Nat) (done : Bool) : Held :=
  { seq := 1, ctx := 0, handle := 7, tick := 0, entry := entry w, popped := 0, done := done, aborted := false, cycles := 0, flags := 0,
    error := 0, variant := 0, pos := 0, latch := none }

/-- The hub with a thread and a command held by an engine of its core. -/
def holding (t : Thread) (unit now : Nat) (h : Held) : State :=
  { withThread t with
    now := now
    cores := [(0, { Core.empty with engines := setNth Core.empty.engines (unit - 1) { Engine.idle with held := [h], nextSeq := 2 } })] }

/-- The hub with the host link 0 in L0, secured, its agent 16, and a window of one page in its host. -/
def linked : State :=
  setL (setL (setL (setL (setL (setL mem F.HPORT_LINK_STATUS_state 0 2) F.HPORT_LINK_STATUS_rate 0 3) F.HPORT_LINK_STATUS_ide 0 1)
    F.HPORT_LINK_AGENT_valid 0 1) F.HPORT_LINK_AGENT_agent 0 16) F.HPORT_LINK_HSIZE_pages 0 1

/-- A lease of the first page of the mapped frame, held by the link's agent for context 1. -/
def aLease (ro : Bool) : Lease := { page := 0, size := 4096, agent := 16, context := 1, ro := ro }

/-- A read of this hub that waits for the owner's line. -/
def reading : Request :=
  { packet := { pkt ptRdS 0 3 0 with dst := 5 }, purpose := .host 16 1, firstSend := 0, lastSend := 0, sends := 1, refused := 0, again := false,
    againAt := 0, parked := false, members := [] }

/-- The hub whose mapped frame hub 5 may use. -/
def shared (results : List Stored) : State :=
  { mem with regions := { mem.regions with groups := [(0, 2 ^ 5)] }, fabric := { mem.fabric with results := [(0, results)] } }

/-- A fetch-and-add of 4 bytes by hub 5. -/
def adds : Packet := pktOf ptAtomic 5 3 0x20 (zeroBytes 16)

/-- The hub with a port 47. -/
def atPort (p : Port) : State := { up with ports := [(47, p)] }

/-- The hub with partition 11 in another state. -/
def partIs (x : Partition) : State := { up with ras := { up.ras with parts := Tab.insert up.ras.parts 11 x } }

/-- A flit of a kind and a channel. -/
def flit (kind channel start count : Nat) : Flit :=
  { kind := kind, seq := 0, ack := 4095, nak := false, phase := false, timed := false, channel := channel, start := start, units := [],
    first := 0, count := count, credits := [] }

/-- The command that brings it to its line. -/
def cohReq : CohReq := { agent := 16, tag := 1, line := 0, packet := none }

/-- An operation of the thread 0 of core 0 on object 5 of partition 0. -/
def req (cond imm : Nat) : SyncReq :=
  { who := .thread 0 0 0 0, tag := 1, obj := 5, cond := cond, imm := imm, context := 1, packet := none }

/-! ### The tick -/

/-- OpenRunsItsStepsInOrder, at the first half-nanosecond of the edge. -/
theorem witness_open : (upAt 4 20000000).RegsOk ∧ edgeDue (upAt 4 20000000) = true := by
  unfold State.RegsOk; decide

/-- PhasesFollowTheTick: each position at its first half-nanosecond, and a tick with A ≥ D. -/
theorem witness_phases :
    ((upAt 0 15000000).tick.stage = 0 ∧ watchNs (upAt 0 15000000) < deadlineNs (upAt 0 15000000) ∧
      2 * watchNs (upAt 0 15000000) ≤ (upAt 0 15000000).tick.phase) ∧
    ((upAt 2 17498000).tick.stage = 2 ∧ 2 * deadlineNs (upAt 2 17498000) ≤ (upAt 2 17498000).tick.phase) ∧
    ((upAt 3 19998000).tick.stage = 3 ∧ 2 * (period (upAt 3 19998000) - 1000) ≤ (upAt 3 19998000).tick.phase) ∧
    deadlineNs (upF F.TICK_PHASE_watch 255) ≤ watchNs (upF F.TICK_PHASE_watch 255) ∧ (upAt 4 0).tick.stage = 4 := by decide

/-- A hub of the ring: a follower, its bypass open. -/
def onRing : State :=
  setF (setF { up with tick := { TickUnit.reset with stage := 0, phase := 2000000, bypassClosed := false } } F.TICK_CTRL_role 0 1) F.TICK_STATUS_source 0 1

set_option Elab.async false in
/-- RingFramesAndTheirReturn: frames of a follower and of a hub off the ring. -/
theorem witness_ring_frames :
    (tickFrameOf onRing (ringFrame 5 0) = true ∧ usesRing onRing = true ∧ onRing.tick.badCrc = 0 ∧ frameGood (ringFrame 5 0) = true ∧
      sourceOf (frameArrives onRing (ringFrame 5 0)) = 1) ∧
    (tickFrameOf up (ringFrame 5 0) = true ∧ usesRing up = false) ∧
    (tickFrameOf onRing (ringFrame 5 1) = false ∧ frameGood (ringFrame 5 1) = true ∧ sourceOf onRing = 1) := by decide +kernel

/-- RingFramesAndTheirReturn: the first beat of a tick, frames that return, the bypass in a quiet gap. -/
theorem witness_ring_beats :
    (ticks (upAt 0 2000000) = true ∧ 1000000 < period (upAt 0 2000000) ∧ (upAt 0 2000000).tick.phase % 2000000 = 0 ∧
      0 < (upAt 0 2000000).tick.phase / 2 ∧ (upAt 0 2000000).tick.phase / 2 + 4000 ≤ period (upAt 0 2000000)) ∧
    ({ up with tick := { TickUnit.reset with ringSent := [11] } } : State).tick.ringSent = 11 :: [] ∧
    (getF (setF (upAt 0 6080) F.TICK_CTRL_ring_en 0 1) F.TICK_CTRL_ring_en 0 = 1 ∧
      (setF (upAt 0 6080) F.TICK_CTRL_ring_en 0 1).pkg.state = .normal ∧ (setF (upAt 0 6080) F.TICK_CTRL_ring_en 0 1).tick.bypassClosed = true ∧
      quietGap (setF (upAt 0 6080) F.TICK_CTRL_ring_en 0 1) = true) := by decide

/-- A follower that has lost its source 20 ms ago. -/
def heldOver : State :=
  setF (setF { up with now := 40000000, tick := { TickUnit.reset with noSource := some 0 } } F.TICK_CTRL_role 0 1) F.TICK_STATUS_lock 0 2

/-- A follower of Marks on port 5, locked. -/
def onMarks : State := setF (setF (setF up F.TICK_CTRL_role 0 2) F.NFAB_MARK_parent 0 5) F.TICK_STATUS_lock 0 1

/-- SourcesLockAndRequests: the loss of a source, its time-out, a Mark. -/
theorem witness_sources :
    (onMarks.RegsOk ∧ ownTimer onMarks = false ∧ lockOf onMarks = 1) ∧
    (heldOver.tick.noSource = some 0 ∧ 0 + 40000000 ≤ heldOver.now ∧ sourceOf heldOver = 0 ∧ lockOf heldOver = 2) ∧
    (Accepted onMarks (pktOf ptMark 5 0 1 (zeroBytes 32)) ptMark ∧
      acceptsMarks (afterDelivery onMarks (pktOf ptMark 5 0 1 (zeroBytes 32))) 5 = true) := by
  unfold Accepted State.RegsOk; decide

/-- A Wedge of hub 5 that names this hub. -/
def wedgePacket : Packet := pktOf ptWedge 5 0 0 (zeroBytes 32 ++ [1] ++ zeroBytes 127)

set_option Elab.async false in
/-- SourcesLockAndRequests: a Wedge that names this hub, and room in the admission queue. -/
theorem witness_wedge :
    (Accepted up wedgePacket ptWedge ∧ (setHubs (wedgePacket.payload.drop 32)).contains (hubId (afterDelivery up wedgePacket)) = true ∧
      (afterDelivery up wedgePacket).tick.wedgeSeen.contains (bits (wedgePacket.unit 2) 0 32, bits (wedgePacket.unit 3) 0 64) = false) ∧
    up.tick.queue.length < 1024 ∧ (8191 : Nat) < 8192 := by
  unfold Accepted; decide +kernel

/-- Stream 7 waits for the recompute of an aborted run. -/
def toRedo : State :=
  { up with tick := { TickUnit.reset with stage := 3, streams := [(7, { aStream none with redo := [aRun .recovering] })] } }

/-- SourcesLockAndRequests: a recompute that may start. -/
theorem witness_recompute :
    7 < 8192 ∧ streamOf toRedo 7 = some { aStream none with redo := [aRun .recovering] } ∧
    nextRedo { aStream none with redo := [aRun .recovering] } = some (aRun .recovering) ∧
    threadsReady toRedo { aStream none with redo := [aRun .recovering] } = true ∧ toRedo.tick.stage ≠ 4 := by decide

/-! ### Threads and command words -/

/-- A control word of an operation, with nothing else in it. -/
def ctlWord (op : Nat) : Nat := 16 * op

/-- ControlWordsMoveTheThread: NOP, JUMP, CALL with room on the stack, END with nothing held. -/
theorem witness_moves :
    Issues (withWord (ctlWord 0x00)) 0 0 0x00 (ctlWord 0x00) ∧ Issues (withWord (ctlWord 0x02)) 0 0 0x02 (ctlWord 0x02) ∧
    (Issues (withWord (ctlWord 0x03)) 0 0 0x03 (ctlWord 0x03) ∧ (thread (consumed (withWord (ctlWord 0x03)) 0 0) 0 0).stack.length < 8) ∧
    (Issues (withWord (ctlWord 0x01)) 0 0 0x01 (ctlWord 0x01) ∧ (thread (consumed (withWord (ctlWord 0x01)) 0 0) 0 0).held = []) := by
  unfold Issues; decide

/-- A RET with one address on the stack. -/
def atRet : State := withThread { aThread with fetched := some (ctlWord 0x04), stack := [0x10040] }

/-- A LOOP with a counter of 1, the lowest that goes round. -/
def atLoop : State := withThread { aThread with fetched := some (ctlWord 0x07), counters := 1 :: List.replicate 7 0 }

/-- ControlWordsMoveTheThread: RET, LOOP at 0 and at 1, BRC taken and not. -/
theorem witness_branches :
    (Issues atRet 0 0 0x04 (ctlWord 0x04) ∧ (thread (consumed atRet 0 0) 0 0).stack = 0x10040 :: []) ∧
    (Issues (withWord (ctlWord 0x07)) 0 0 0x07 (ctlWord 0x07) ∧ counter (thread (consumed (withWord (ctlWord 0x07)) 0 0) 0 0) 0 = 0) ∧
    (Issues atLoop 0 0 0x07 (ctlWord 0x07) ∧ counter (thread (consumed atLoop 0 0) 0 0) 0 ≠ 0) ∧
    (Issues (withWord (ctlWord 0x08)) 0 0 0x08 (ctlWord 0x08) ∧
      brcTest 0 (brcSource (consumed (withWord (ctlWord 0x08)) 0 0) 0 0 0) (unsigned 64 (signed 32 0)) = true) ∧
    (Issues (withWord (ctlWord 0x08 + 2 ^ 16)) 0 0 0x08 (ctlWord 0x08 + 2 ^ 16) ∧ (Machine.control (ctlWord 0x08 + 2 ^ 16)).cond = 1 ∧
      brcTest 1 (brcSource (consumed (withWord (ctlWord 0x08)) 0 0) 0 0 0) (unsigned 64 (signed 32 0)) = false) := by
  unfold Issues; decide

/-- ControlWordsSetThreadState: SETC, ADDC, PROGRESS, QMODE; WAITQ on empty queues and on one that holds a word. -/
theorem witness_thread_state :
    Issues (withWord (ctlWord 0x05)) 0 0 0x05 (ctlWord 0x05) ∧ Issues (withWord (ctlWord 0x06)) 0 0 0x06 (ctlWord 0x06) ∧
    Issues (withWord (ctlWord 0x0D)) 0 0 0x0D (ctlWord 0x0D) ∧ Issues (withWord (ctlWord 0x10)) 0 0 0x10 (ctlWord 0x10) ∧
    (Issues (withWord (ctlWord 0x0C + 2 ^ 32)) 0 0 0x0C (ctlWord 0x0C + 2 ^ 32) ∧
      drained (consumed (withWord (ctlWord 0x0C + 2 ^ 32)) 0 0) 0 0 1 = true) := by
  unfold Issues; decide

/-- A WAITQ while the tensor queue holds a word. -/
def atWaitq : State := withThread { queued 1 0x11 with fetched := some (ctlWord 0x0C + 2 ^ 32) }

theorem witness_waitq :
    Issues atWaitq 0 0 0x0C (ctlWord 0x0C + 2 ^ 32) ∧ drained (consumed atWaitq 0 0) 0 0 1 = false := by
  unfold Issues; decide

/-- ControlWordsSetThreadState: LAUNCH that withdraws. -/
theorem witness_launch_withdraw :
    Issues (withWord (ctlWord 0x0E + 2 ^ 16)) 0 0 0x0E (ctlWord 0x0E + 2 ^ 16) ∧ (Machine.control (ctlWord 0x0E + 2 ^ 16)).cond = 1 ∧
      (withWord (ctlWord 0x0E + 2 ^ 16)).tick.queue.length < 1024 := by
  unfold Issues; decide

/-- ControlWordsSetThreadState: LAUNCH that admits, its record's address in the mapped frame. -/
theorem witness_launch_admit :
    Issues (withWord (ctlWord 0x0E)) 0 0 0x0E (ctlWord 0x0E) ∧ (Machine.control (ctlWord 0x0E)).cond ≠ 1 ∧
    ∃ r : Run, (fetchRun (consumed (withWord (ctlWord 0x0E)) 0 0) 0 0).translate ((Machine.control (ctlWord 0x0E)).addr % 2 ^ 57) .rd =
      (some (0, false), r) ∧ r.s.tick.queue.length < 1024 := by
  refine ⟨by unfold Issues; decide, by decide, _, Prod.ext (by decide) rfl, by decide⟩

/-- SyncWordsOpenAnOperation: an object of this hub, and a name that no object has. -/
theorem witness_sync_words :
    (Issues (withWord (ctlWord 0x0A)) 0 0 0x0A (ctlWord 0x0A) ∧
      badName (consumed (withWord (ctlWord 0x0A)) 0 0) (Machine.control (ctlWord 0x0A)).obj = false ∧
      objHub (Machine.control (ctlWord 0x0A)).obj = hubId (consumed (withWord (ctlWord 0x0A)) 0 0)) ∧
    (Issues (withWord (ctlWord 0x09 + 6144 * 2 ^ 96)) 0 0 0x09 (ctlWord 0x09 + 6144 * 2 ^ 96) ∧
      badName (consumed (withWord (ctlWord 0x09 + 6144 * 2 ^ 96)) 0 0) (Machine.control (ctlWord 0x09 + 6144 * 2 ^ 96)).obj = true) := by
  unfold Issues; decide

/-- WordsAreFetchedAndPushed: a fetch from the mapped frame. -/
theorem witness_fetch :
    coreRuns (withThread aThread) 0 = true ∧ fetcher (withThread aThread) 0 = some 0 ∧
    ∃ g : Run, (fetchRun (withThread aThread) 0 0).readM (thread (withThread aThread) 0 0).pc 32 .fx true = ((zeroBytes 32, false), g) ∧
      g.stop = .go ∧ wordOk (leValue (zeroBytes 32)) = true := by
  refine ⟨by decide, by decide, _, Prod.ext (by decide) rfl, by decide, by decide⟩

/-- A full queue of the tensor engine. -/
def fullQueue : Thread := { aThread with queues := [List.replicate 8 (entry 0x11), [], [], []] }

/-- WordsAreFetchedAndPushed: a push with room, one without, and the retry of a held word when a place is free. -/
theorem witness_push :
    (coreRuns (withWord 0x11) 0 = true ∧ issuer (withWord 0x11) 0 = some 0 ∧ (thread (withWord 0x11) 0 0).fetched = some 0x11 ∧
      wordUnit 0x11 ≠ 0 ∧ pushOk (thread (withWord 0x11) 0 0).counters 0x11 = true ∧ queueRoom (thread (withWord 0x11) 0 0) 1 = true) ∧
    (issuer (withThread { fullQueue with fetched := some 0x11 }) 0 = some 0 ∧
      queueRoom (thread (withThread { fullQueue with fetched := some 0x11 }) 0 0) (wordUnit 0x11) = false) ∧
    (let s := withThread { aThread with state := .waitQueue, pushing := some 0x11 }
     (thread s 0 0).pushing = some 0x11 ∧ (thread s 0 0).state = .waitQueue ∧ coreRuns s 0 = true ∧
       runIssues s (thread s 0 0).handle = true ∧ queueRoom (thread s 0 0) (wordUnit 0x11) = true) := by decide

/-- WordsAreFetchedAndPushed: a thread that has drained for its cheaper list. -/
theorem witness_cheaper :
    let s := withThread { aThread with state := .waitDrain, drain := 15, switching := some 3 }
    (thread s 0 0).switching = some 3 ∧ streamOf s (thread s 0 0).handle = some (aStream (some (aRun .running))) ∧
      (thread s 0 0).state = .waitDrain ∧ (thread s 0 0).sync = none ∧ drained s 0 0 15 = true := by decide

set_option Elab.async false in
/-- CommandsCompleteOrExpire: a command that is done; one whose bound of 16,384 cycles has run out; the head of a queue that has
waited. -/
theorem witness_completion :
    (let s := holding aThread 1 0 (taken 0x11 true)
     oldestHeld s 0 1 0 = some (taken 0x11 true) ∧ (taken 0x11 true).done = true ∧ released s 0 1 (taken 0x11 true) = true ∧
       coreRuns s 0 = true ∧ s.descriptors = [] ∧ (taken 0x11 true).error = 0 ∧ (taken 0x11 true).aborted = false ∧
       (header (taken 0x11 true).entry.word).sigEn = false ∧
       (thread (sampleDone (stickyFlags (noteDone (dropHeld (dropInbox s 0 1 1) 0 1 1) 0 1 (taken 0x11 true)) 0 1 0)
         0 1 (taken 0x11 true) 0) 0 0).state ≠ .faulted) ∧
    (let h := taken (0x11 + 2 ^ 22) false
     let s := holding aThread 1 20480 h
     heldCmd s 0 1 1 = some h ∧ h.error = 0 ∧ coreRuns s 0 = true ∧ watched s 0 1 h = true ∧ boundOf s 0 h ≤ mostCycles s (s.now - h.popped) ∧
       h.aborted = false) ∧
    (let s := { withThread (queued 1 0x11) with now := 2 ^ 40 }
     nth [] (thread s 0 0).queues 0 = entry 0x11 :: [] ∧ (entry 0x11).monitored = false ∧ coreRuns s 0 = true ∧
       getF s F.CORE_QMON_limit 0 * 1024 ≤ mostCycles s (s.now - (entry 0x11).headSince)) := by decide +kernel

/-! ### Synchronisation -/

/-- The hub in which an operation is on its way to object 5, which context 1 may use. -/
def atObject (op : SyncOpKind) (o : SyncObj) (r : SyncReq) : State :=
  { mem with sync := { mem.sync with objs := [(5, o)], assigned := [(5, 1)], flight := [(op, r)] } }

/-- The same operation as one that waits at the object. -/
def waiter : Waiter := { who := .thread 0 0 0 0, tag := 1, imm := 1 }

/-- OperationsAtTheirObject: WAIT on a semaphore of just the count, on a free lock, on a set event. -/
theorem witness_waits :
    (ReachesObject (atObject .wait { SyncObj.empty with count := 1 } (req 0 1)) .wait (req 0 1) [] ∧
      (syncObj (atObject .wait { SyncObj.empty with count := 1 } (req 0 1)) 5).kind = .semaphore ∧
      (syncObj (atObject .wait { SyncObj.empty with count := 1 } (req 0 1)) 5).waiters = [] ∧
      (req 0 1).imm ≤ (syncObj (atObject .wait { SyncObj.empty with count := 1 } (req 0 1)) 5).count) ∧
    (ReachesObject (atObject .wait { SyncObj.empty with kind := .lock, abandoned := true } (req 0 0)) .wait (req 0 0) [] ∧
      (syncObj (atObject .wait { SyncObj.empty with kind := .lock, abandoned := true } (req 0 0)) 5).holder = none ∧
      heldBy (atObject .wait { SyncObj.empty with kind := .lock, abandoned := true } (req 0 0)) (req 0 0).who < 8) ∧
    (ReachesObject (atObject .wait { SyncObj.empty with kind := .event, isSet := true } (req 0 0)) .wait (req 0 0) [] ∧
      (syncObj (atObject .wait { SyncObj.empty with kind := .event, isSet := true } (req 0 0)) 5).isSet = true) := by
  unfold ReachesObject; decide

/-- OperationsAtTheirObject: SIGNAL that clears an event, of a lock held by another, to the highest count of a semaphore. -/
theorem witness_signals :
    (ReachesObject (atObject .signal { SyncObj.empty with kind := .event } (req 1 0)) .signal (req 1 0) [] ∧ (req 1 0).cond = 1) ∧
    (ReachesObject (atObject .signal { SyncObj.empty with kind := .lock } (req 0 0)) .signal (req 0 0) [] ∧
      (syncObj (atObject .signal { SyncObj.empty with kind := .lock } (req 0 0)) 5).holder ≠ some (req 0 0).who) ∧
    (ReachesObject (atObject .signal { SyncObj.empty with count := 1 } (req 0 (2 ^ 32 - 2))) .signal (req 0 (2 ^ 32 - 2)) [] ∧
      (syncObj (atObject .signal { SyncObj.empty with count := 1 } (req 0 (2 ^ 32 - 2))) 5).count + (req 0 (2 ^ 32 - 2)).imm < 2 ^ 32) := by
  unfold ReachesObject; decide

/-- OperationsAtTheirObject: SINIT of an object in use, of a free one as a barrier of 1 and as an event. -/
theorem witness_inits :
    (ReachesObject (atObject .sinit { SyncObj.empty with waiters := [waiter] } (req 0 0)) .sinit (req 0 0) [] ∧
      (syncObj (atObject .sinit { SyncObj.empty with waiters := [waiter] } (req 0 0)) 5).waiters ≠ []) ∧
    (ReachesObject (atObject .sinit SyncObj.empty (req 1 1)) .sinit (req 1 1) [] ∧ (req 1 1).cond ≤ 3 ∧ 0 < (req 1 1).imm ∧ (req 1 1).imm ≤ 65535) ∧
    (ReachesObject (atObject .sinit SyncObj.empty (req 3 1)) .sinit (req 3 1) [] ∧ (req 3 1).cond = 3 ∧ (req 3 1).imm ≤ 1) := by
  unfold ReachesObject; decide

/-- OperationsAtTheirObject: SAMPLE, CANCEL of a waiter, ABANDON by the holder. -/
theorem witness_samples :
    ReachesObject (atObject .sample SyncObj.empty (req 0 0)) .sample (req 0 0) [] ∧
    (ReachesObject (atObject .cancel { SyncObj.empty with waiters := [waiter] } (req 0 0)) .cancel (req 0 0) [] ∧
      (syncObj (atObject .cancel { SyncObj.empty with waiters := [waiter] } (req 0 0)) 5).waiters.any
        (fun w => w.isOf (req 0 0).who (req 0 0).tag) = true) ∧
    (ReachesObject (atObject .abandon { SyncObj.empty with kind := .lock, holder := some (.thread 0 0 0 0) } (req 0 0)) .abandon (req 0 0) [] ∧
      (syncObj (atObject .abandon { SyncObj.empty with kind := .lock, holder := some (.thread 0 0 0 0) } (req 0 0)) 5).holder = some (req 0 0).who) := by
  unfold ReachesObject; decide

/-- What a thread has open at an object. -/
def open_ (op timeout : Nat) (retrying outstanding : Bool) (answer : Option (Nat × Nat)) : OpenSync :=
  { tag := 1, op := op, obj := 5, ra := 0, cond := 0, imm := 0, disp := 0, timeout := timeout, since := 0, retrying := retrying,
    outstanding := outstanding, cancelled := false, answer := answer }

/-- AnswersTimersAndReadings: an answer, a wait at its time (1,280 half-nanoseconds are 1,024 cycles), a refused operation. -/
theorem witness_answers :
    (let o := open_ 0x0F 0 false false (some (0, 0))
     (thread (withThread { aThread with sync := some o }) 0 0).sync = some o ∧ o.answer = some (0, 0) ∧ o.op = 0x0F) ∧
    (let o := open_ 0x0A 1 false true none
     let s := { withThread { aThread with sync := some o } with now := 1280 }
     (thread s 0 0).sync = some o ∧ o.op = 0x0A ∧ 0 < o.timeout ∧ o.cancelled = false ∧ o.timeout * 1024 ≤ mostCycles s (s.now - o.since) ∧
       o.outstanding = true) ∧
    (let o := open_ 0x0A 0 true false none
     (thread (withThread { aThread with sync := some o }) 0 0).sync = some o ∧ o.retrying = true ∧ o.outstanding = false ∧ o.answer = none) := by
  decide

/-- AnswersTimersAndReadings: the highest object and partition, the caches of a core. -/
theorem witness_readings :
    (73727 < 73728 ∧ partUp up (73727 / 6144) = true) ∧ (11 < 12 ∧ partUp up 11 = true) ∧
    (pageDown up (corePage 383) = false ∧ pageExists up (corePage 383) = true) ∧
    (let f : Fill := { line := { addr := 0, context := 1, data := zeroBytes 64 }, stale := true }
     let s := { up with cores := [(0, { Core.empty with fills := [f] })] }
     (coreOf s 0).fills = f :: [] ∧ f.stale = true) ∧
    (let f : Fill := { line := { addr := 0, context := 1, data := zeroBytes 64 }, stale := false }
     let s := { up with cores := [(0, { Core.empty with fills := [f] })] }
     (coreOf s 0).fills = f :: [] ∧ f.stale = false ∧ (coreOf s 0).opLines = []) := by decide

/-- A trigger entry that takes callers of group 0. -/
def triggerEntry : TriggerEntry :=
  { handle := 7, maxTake := 1, callerSet := 0, ring := 0x1000, ringEntries := 4, nextSeq := 0, taken := 0, freed := 0 }

/-- The hub with one trigger, for stream 7, that hub 5 may call. -/
def triggered : State :=
  { withThread aThread with triggers := [triggerEntry], regions := { mem.regions with groups := [(0, 2 ^ 5)] } }

/-- AnswersTimersAndReadings: a trigger of hub 5. -/
theorem witness_trigger :
    let p := pkt ptTrigger 5 3 0
    let a := afterDelivery triggered p
    Accepted triggered p ptTrigger ∧ storedResult a (triggerPart a 0) p.src p.tag = none ∧ (resultsOf a (triggerPart a 0)).length < rcSize ∧
      a.triggers[0]? = some triggerEntry ∧ triggerEntry.ringEntries ≠ 0 ∧ (streamOf a triggerEntry.handle).isSome = true ∧
      inGroup a triggerEntry.callerSet p.src = true ∧
      ∃ q : Packet, answerOf (takeTrigger a 0 triggerEntry p).2 p ptTrigRes (takeTrigger a 0 triggerEntry p).1 0 [] = some q := by
  unfold Accepted
  exact ⟨by decide, by decide, by decide, by decide, by decide, by decide, by decide, _, rfl⟩

/-! ### Engines -/

/-- The head of the queue of the thread with one word. -/
def head_ (w : Nat) : Head := { ctx := 0, handle := 7, entry := entry w }

/-- EngineWordsAreCarriedOut: each word of the tensor and the vector engine is taken up from a queue that holds it alone. -/
theorem witness_engine_words :
    ∀ u ∈ [(1, 0x01), (2, 0x01), (2, 0x02), (2, 0x03), (2, 0x04), (2, 0x05), (2, 0x06), (2, 0x07)],
      Starts (withThread (queued u.1 (u.1 + 16 * u.2))) 0 u.1 u.2 (head_ (u.1 + 16 * u.2)) := by
  unfold Starts; decide

/-- EngineWordsAreCarriedOut: a VMAP goes on, an MMA whose shape record is all zeros does not. -/
theorem witness_engine_ends :
    (noPre (startedCmd (withThread (queued 2 0x12)) 0 2 (head_ 0x12)) (startedRun (withThread (queued 2 0x12)) 0 2 (head_ 0x12))).2.going = true ∧
    (mmaPre (startedCmd (withThread (queued 1 0x11)) 0 1 (head_ 0x11)) (startedRun (withThread (queued 1 0x11)) 0 1 (head_ 0x11))).2.going = false := by
  decide

/-- VectorWordsWriteTheirElements: a count that every format takes. -/
theorem witness_vector_words : mxCountOk (veWord (taken 0x12 false)) = true ∧ bit (veWord (taken 0x22 false)).fn 7 = false := by decide

/-- MoveWordsAreCarriedOut: each word of the move engine, with no program in the table and none that runs. -/
theorem witness_move_words :
    ∀ op ∈ [0x01, 0x02, 0x03, 0x10, 0x11, 0x30, 0x31],
      Starts (withThread (queued 4 (4 + 16 * op))) 0 4 op (head_ (4 + 16 * op)) ∧
      (headsOf (withThread (queued 4 (4 + 16 * op))) 0 4).all (mayPopMe 0 (withThread (queued 4 (4 + 16 * op)))) = true := by
  unfold Starts; decide

/-- The hub with a search word in the queue, whose query descriptor stands at 0 of the core's S-space. -/
def searching (op : Nat) : State :=
  { withThread (queued 3 (3 + 16 * op)) with
    sspace := [(4, 32), (0x0A, 1), (0x14, 255), (0x15, 255), (0x16, 255), (0x17, 255), (0x18, 2), (0x28, 32), (0x30, 12), (0x32, 1), (0x34, 1),
      (0x36, 1), (0x38, 2)] }

/-- SearchWordsAndInsertions: a chosen SLOAD with every context free. -/
theorem witness_sload :
    let s := { withThread (queued 3 0x13) with cores := [(0, { Core.empty with search := { Core.empty.search with chosen := some 0 } })] }
    coreRuns s 0 = true ∧ sloadHeld s 0 = none ∧ (searchOf s 0).chosen = some 0 ∧ chosenHead s 0 = some (head_ 0x13) ∧
      (searchOf s 0).qctxs = [] := by decide

/-- SearchWordsAndInsertions: SCAN, GPROBE and KMERGE with their records in place. -/
theorem witness_search_words :
    ∀ op ∈ [2, 3, 4], coreRuns (searching op) 0 = true ∧ stillQ (searching op) 0 op = [] ∧ sloadChosen (searching op) 0 = false ∧
      freeQctx (searching op) 0 = some 0 ∧ chooseHead (searching op) 0 3 (headsOf (searching op) 0 3) = some (head_ (3 + 16 * op)) ∧
      wordOp (head_ (3 + 16 * op)).entry.word = op ∧
      (match readRecords (updSearch (popHead (searching op) 0 3 (head_ (3 + 16 * op))).1 0 (fun u => { u with
          qctxs := Tab.insert u.qctxs 0 (QCtx.taken (popHead (searching op) 0 3 (head_ (3 + 16 * op))).2.seq 0 (op == 3)) })) 0
          (popHead (searching op) 0 3 (head_ (3 + 16 * op))).2 with | .ok _ => true | .error _ => false) = true := by decide

/-- A query context that waits at a microword, over vectors of 32 bytes. -/
def query (pc : Nat) (inPrologue : Bool) (vec : List Byte) : QCtx :=
  { QCtx.taken 1 0 false with state := .ready, pc := pc, inPrologue := inPrologue, vec := vec, desc := { QDesc.none with vlen := 32, k := 1 } }

/-- SearchWordsAndInsertions: a candidate to insert, the caches of the last cluster. -/
theorem witness_insert :
    (let c : Insert := { qctx := 0, id := 9, key := 1, reranked := false }
     let s := { withThread aThread with cores := [(0, { Core.empty with search := { Core.empty.search with
       qctxs := [(0, query 0 false [])], inserts := [c] } })] }
     coreRuns s 0 = true ∧ (searchOf s 0).inserts = c :: [] ∧
       qctxOf (updSearch s 0 (fun u => { u with inserts := [] })) 0 0 = some (query 0 false [])) ∧
    (23 < 24 ∧ pageDown up (F.SE_BMC_CTRL_flush.page + 23) = false ∧ pageExists up (F.SE_BMC_CTRL_flush.page + 23) = true) := by decide

/-- InsertionKeepsTheOrder: an ordered list, and a full one that keeps a worse record out. -/
theorem witness_order :
    let a : Rec := { id := 1, key := 5, expanded := false, reranked := false }
    let b : Rec := { id := 2, key := 5, expanded := false, reranked := false }
    inOrder [a] = true ∧ (b ∉ insertRec 1 [a] b ∨ a ∉ insertRec 1 [b] a) := by decide

/-- The hub with a query context at the word 256 of the core's microcode. -/
def atMicroword (w : Nat) (x : QCtx) : State :=
  { holding aThread 3 0 (taken 0x23 false) with
    cores := [(0, { Core.empty with
      engines := setNth Core.empty.engines 2 { Engine.idle with held := [taken 0x23 false], nextSeq := 2 }
      search := { Core.empty.search with qctxs := [(0, x)] }
      ucode := [(256, { word := w, shared := true, context := 0 })] })] }

/-- ScalarMicrowords and MicrowordsOfControlAndEmission: every word steps; STH stores at the start of the S-space. -/
theorem witness_microwords :
    (∀ op ∈ [0x00, 0x01, 0x02, 0x03, 0x04, 0x06, 0x20, 0x30, 0x31, 0x32, 0x33, 0x34, 0x35, 0x38, 0x39, 0x3A, 0x3B, 0x3C, 0x41],
      Microstep (atMicroword op (query 256 false [])) 0 op 0 (taken 0x23 false) (query 256 false []) (uw op)) ∧
    (Microstep (atMicroword 0x05 (query 256 true [])) 0 0x05 0 (taken 0x23 false) (query 256 true []) (uw 0x05) ∧
      (query 256 true []).inPrologue = true ∧ (query 256 false []).inPrologue = false) ∧
    (0 ≤ ((query 256 false []).desc.aux : Int) + signed 32 (uw 0x41).imm + signed 64 (sreg (query 256 false []) (uw 0x41).b) ∧
      ((query 256 false []).desc.aux : Int) + signed 32 (uw 0x41).imm + signed 64 (sreg (query 256 false []) (uw 0x41).b) + 2 ≤ 2 ^ 21) := by
  unfold Microstep; decide

/-- The context with a vector of 32 bytes read. -/
abbrev scoring : QCtx := query 256 false (zeroBytes 32)

/-- VectorMicrowords: the words of two sources and the one that clears. -/
theorem witness_vector_microwords :
    (∀ op ∈ [0x10, 0x11, 0x12, 0x14, 0x17, 0x16], Microstep (atMicroword op scoring) 0 op 0 (taken 0x23 false) scoring (uw op)) ∧
    scoring.vec.isEmpty = false ∧
    vecBytes (stepping (atMicroword 0x10 scoring) 0 0) 0 scoring 0 0 (vecLen (uw 0x10) 32) = some (zeroBytes 32, false) ∧
    vecBytes (stepping (atMicroword 0x17 scoring) 0 0) 0 scoring 0 ((0 + sreg scoring 0) % 2 ^ 64) (vecLen (uw 0x17) 32) = some (zeroBytes 32, false) := by
  unfold Microstep; decide

/-- VectorMicrowords: the weighted word over the query, and the table word over a table at 0. -/
theorem witness_weighted_words :
    (Microstep (atMicroword (0x13 + 2 ^ 24) scoring) 0 0x13 0 (taken 0x23 false) scoring (uw (0x13 + 2 ^ 24)) ∧ (uw (0x13 + 2 ^ 24)).vt ≠ 0 ∧
      vecBytes (stepping (atMicroword (0x13 + 2 ^ 24) scoring) 0 0) 0 scoring 1 (0 % 2 ^ 64) 32 = some (zeroBytes 32, false) ∧
      vecBytes (stepping (atMicroword (0x13 + 2 ^ 24) scoring) 0 0) 0 scoring 2 0 32 = some (zeroBytes 32, false)) ∧
    (Microstep (atMicroword 0x15 scoring) 0 0x15 0 (taken 0x23 false) scoring (uw 0x15) ∧
      (∀ i, i < 32 → scoring.desc.aux + (256 * i + (nth 0 (zeroBytes 32) i).toNat) * 2 + 2 ≤ 2 ^ 21 ∧
        sPoisoned (stepping (atMicroword 0x15 scoring) 0 0) 0 (scoring.desc.aux + (256 * i + (nth 0 (zeroBytes 32) i).toNat) * 2) 2 = false)) := by
  unfold Microstep; decide

/-! ### Moves, pools, translation and regions -/

/-- A program of one layer in the Haul table, its window in the mapped frame. -/
def program (tags : List (Option (Nat × Nat))) (missed : List Nat) : HaulEntry :=
  { context := 1, id := 1, window := 0x1000, slotBytes := 64, slots := 1, resident := true, gen := 1, tags := tags, srcs := [0], handle := 7,
    late := false, held := true, next := 0, missed := missed }

/-- The HAUL that runs it, at its layer 0 of as many as are named. -/
def hauling (last : Nat) : HaulRun :=
  { core := 0, seq := 1, ctx := 0, entry := 3, layers := [{ src := 0, bytes := 64, due := 0, tag := 0 }], fullObj := 0, freeObj := 0, slack := 0,
    lateSwitch := false, layer := 0, last := last, asked := true, granted := true, stopping := false, waitTag := 0, depth := 4 }

/-- TransfersAndPools: the last layer of a program and one before it land; a line missed by a layer is refilled. -/
theorem witness_haul :
    (∀ last ∈ [0, 1],
      let s := { holding aThread 4 0 (taken 0x304 false) with haul := [(3, program [some (0, 1)] [])], haulRuns := [hauling last] }
      s.haulRuns.find? (fun x => x.entry == 3) = some (hauling last) ∧ Tab.find? s.haul 3 = some (program [some (0, 1)] []) ∧
        heldCmd s 0 4 1 = some (taken 0x304 false) ∧ (taken 0x304 false).error = 0 ∧ (hauling last).granted = true ∧
        isResident s (hauling last) = true ∧ (hauling last).stopping = false) ∧
    (let e := program [] [0]
     let s := { mem with haul := [(3, e)] }
     let b := updEntry (refillLine s e 0).1 3 (fun e => { e with missed := e.missed.filter (fun m => m != 0) })
     refillDue s e (some 0) 0 = true ∧ (refillLine s e 0).2 = true ∧ b.haul.any (fun p => p.2.missed.any (refillDue b p.2 (some 0))) = false) := by
  decide

/-- TransfersAndPools: a core that runs, the pool unit idle and busy. -/
theorem witness_pools :
    coreRuns up 383 = true ∧ getF up F.HUB_POOL_RESULT_busy 0 = 0 ∧
      getF (upF F.HUB_POOL_RESULT_busy 1) F.HUB_POOL_RESULT_busy 0 = 1 := by decide

set_option Elab.async false in
/-- TranslationUnit: busy and idle; a descriptor that is good and one that is not; a context in use and one that is not. -/
theorem witness_xlt_operations :
    ({ mem with xlt := { mem.xlt with busy := some none } } : State).xlt.busy.isSome = true ∧ mem.xlt.busy = none ∧
    (hubRead { mem with store := [(512, 1)] } (getF mem F.XLT_CTX_BASE_addr 0 * 2 ^ 21 + 512 * 1) 512 = some (1 :: zeroBytes 511) ∧
      descOk { mem with store := [(512, 1)] } (1 :: zeroBytes 511) = true) ∧
    (hubRead mem (getF mem F.XLT_CTX_BASE_addr 0 * 2 ^ 21 + 512 * 4095) 512 = some (zeroBytes 512) ∧ descOk mem (zeroBytes 512) = false) ∧
    contextInUse (withThread aThread) 1 = true ∧ contextInUse mem 1 = false := by decide +kernel

/-- A page walk of core 0 that has read its tables. -/
def walked : Walk :=
  { core := 0, stale := false, entry := { context := 1, vbase := 0, pbase := 0, size := 4096, rd := true, wr := false, fx := false, nc := false } }

/-- TranslationUnit: an operation ends, an epoch grows, a drain is done, a walk completes. -/
theorem witness_xlt_ends :
    (let s := { mem with xlt := { mem.xlt with busy := some (some 1) } }
     s.xlt.busy = some (some 1) ∧ contextBusy s (some 1) = false ∧ s.xlt.heldBumps = []) ∧
    (let s := { mem with xlt := { mem.xlt with heldBumps := [1] } }
     s.xlt.heldBumps.contains 1 = true ∧ bumpWaits s 1 = false) ∧
    watchDone (upF F.XLT_DRAIN_STATUS_armed 1) = true ∧
    (let s := { mem with xlt := { mem.xlt with walks := [walked] } }
     takeFirst (fun w => w.core == 0) s.xlt.walks = some (walked, []) ∧ walked.stale = false ∧ partUp s (partOfCore 0) = true) := by decide

set_option Elab.async false in
/-- RegionOperations: while one runs; an entry without a key; one that changes the key of a region with frames; a new region; what
has frames and what has not; a share group. -/
theorem witness_regions :
    4095 < 4096 ∧ getF (upF F.HUB_RGN_RESULT_busy 1) F.HUB_RGN_RESULT_busy 0 = 1 ∧ getF mem F.HUB_RGN_RESULT_busy 0 = 0 ∧
    (rgnValid 1 = true ∧ badEntry mem 1 = true) ∧
    (let s := { mem with eloan := { mem.eloan with keys := [(1, { KeyId.unused with state := .keyed }), (2, { KeyId.unused with state := .keyed })] } }
     rgnValid 0x2001 = true ∧ badEntry s 0x2001 = false ∧ hasFrames s 1 = true ∧ rgnKey 0x2001 ≠ rgnKey (regionEntry s 1)) ∧
    (rgnValid 0x1001 = true ∧ badEntry mem 0x1001 = false ∧ hasFrames mem 4095 = false ∧ hasLeases mem 4095 = false ∧
      rgnValid (regionEntry mem 4095) = false) ∧
    (hubRead mem (getF mem F.HUB_SHG_BASE_addr 0 * 4096 + 512 * 4095) 512 = some (zeroBytes 512) ∧
      (List.range 4096).filter (fun a => bit (Tab.getC 0 mem.regions.groups 4095) a && !bit (leValue (zeroBytes 512)) a) = []) := by decide +kernel

/-! ### Host links and queues -/

/-- The same link out of L0. -/
def linkedOut (now : Nat) : State := { linked with now := now, hosts := [(0, { HostLink.down with outOfL0 := some 0 })] }

/-- HostLinks: a link comes up at 16 lanes, the second link of a split port at 8. -/
theorem witness_link_up :
    (0 < 16 ∧ linkExists (takeSplit up 0) 0 = true ∧ linkIdle (takeSplit up 0) 0 = true ∧ 16 ∈ [1, 2, 4, 8, 16] ∧
      16 ≤ (if portSplit (takeSplit up 0) 0 then 8 else 16)) ∧
    (let s := setF up F.HPORT_CFG_split 7 1
     15 < 16 ∧ linkExists (takeSplit s 7) 15 = true ∧ linkIdle (takeSplit s 7) 15 = true ∧ 8 ≤ (if portSplit (takeSplit s 7) 7 then 8 else 16)) := by
  decide

/-- HostLinks: out of L0 and back, lost after its time, an IDE failure, the map forgotten. -/
theorem witness_link_ends :
    (getL linked F.HPORT_LINK_STATUS_state 0 = 2 ∧ linkOut linked 0 = false) ∧ linkOut (linkedOut 0) 0 = true ∧
    (let s := linkedOut (2000 * getF linked F.HPORT_CFG_loss_us 0)
     (hostLink s 0).outOfL0 = some 0 ∧ 0 + 2000 * getF s F.HPORT_CFG_loss_us (0 / 2) ≤ s.now) ∧
    (linkIdle linked 0 = false ∧ getL linked F.HPORT_LINK_STATUS_ide 0 = 1) ∧
    (linkExists linked 0 = true ∧ (hostLink linked 0).invalidating = none) ∧
    (let s := { linked with hosts := [(0, { HostLink.down with invalidating := some [3] })] }
     (hostLink s 0).invalidating = some [3] ∧ (openTags s (linkAgent s 0)).any [3].contains = false) := by decide

/-- The same link with CXL.mem on and one map entry cached. -/
def mapped (e : Nat) : State :=
  { setL (setL linked F.HPORT_LINK_STATUS_mem 0 1) F.HPORT_LINK_DPA_entries 0 1 with hosts := [(0, { HostLink.down with mapCache := [(0, e)] })] }

/-- HostLinks: a request past the map, one to an unmapped page, a write to a read-only page, and one that passes. -/
theorem witness_cxl :
    memCarries linked 0 = true ∧ getL linked F.HPORT_LINK_STATUS_mem 0 = 0 ∧
    (memCarries (mapped 1) 0 = true ∧ getL (mapped 1) F.HPORT_LINK_STATUS_mem 0 = 1 ∧ getL (mapped 1) F.HPORT_LINK_DPA_entries 0 ≤ 2 ^ 21 / 2 ^ 21) ∧
    (0 < getL (mapped 0) F.HPORT_LINK_DPA_entries 0 ∧ mapEntry (mapped 0) 0 0 = (some 0, mapped 0) ∧ bit 0 0 = false) ∧
    (mapEntry (mapped 3) 0 0 = (some 3, mapped 3) ∧ bit 3 0 = true ∧ bit 3 1 = true ∧ cxlWrites (.memWr 0) = true) ∧
    (mapEntry (mapped 1) 0 0 = (some 1, mapped 1) ∧ bit 1 0 = true ∧ bit 1 1 = false) := by decide

/-- A command of a host queue. -/
def hostCmd (opcode a0 a1 a2 : Nat) : QueueCmd :=
  { opcode := opcode, cid := 9, fence := false, irq := true, arg0 := a0, arg1 := a1, arg2 := a2, headAfter := 1, started := false, waiting := false,
    since := 0, cancelled := false, complete := none, doneAt := 0 }

/-- Queue 0 of the link runs for context 1 on partition 0, with commands taken in. -/
def queueing (cmds : List QueueCmd) : State :=
  { setReg linked (queuePage 0) 0x100 (2 ^ 30 + 1) with
    queues := [(0, { HostQueue.empty with bound := true, enable := true, head := 0, tail := 1, cmds := cmds })] }

/-- HostQueueRings: doorbells, a fetch, a reset, the interface's states, a completion. -/
theorem witness_queue_rings :
    hostWrites (queueing []) 0 = true ∧
    ((1 :: zeroBytes 63).length = 64 ∧ entryOk (1 :: zeroBytes 63) = true ∧ queueRuns (settleQueue (queueing []) 0) 0 = true ∧
      (hostQueue (settleQueue (queueing []) 0) 0).enable = true ∧
      (hostQueue (settleQueue (queueing []) 0) 0).head ≠ (hostQueue (settleQueue (queueing []) 0) 0).tail ∧
      (hostQueue (settleQueue (queueing []) 0) 0).cmds.length < 16) ∧
    (hostQueue (dropQueueWork (queueing []) 0) 0).tdisp ≠ .error ∧ (hostQueue (queueing []) 1023).tdisp = .unlocked ∧
    (hostQueue { linked with queues := [(1023, { HostQueue.empty with tdisp := .locked })] } 1023).tdisp = .locked ∧
    (let c := { hostCmd 1 0 0 0 with started := true, complete := some (0, 0, 0) }
     let s := queueing [c]
     linkCarries s (queueLink s 0) = true ∧ linkOut s (queueLink s 0) = false ∧
       ((hostQueue s 0).cqTail + 1) % 2 ^ (hostQueue s 0).cqLog ≠ (hostQueue s 0).cqHead ∧ doneCmd s 0 = some c ∧ c.irq = true) := by decide

/-- HostQueueCommands: NOP, SYNC with no wait that has expired, ADMIT of a record in the mapped frame, WITHDRAW. -/
theorem witness_queue_commands :
    (∀ op ∈ [1, 6, 7, 8], NextHostCommand (queueing [hostCmd op 0 0 0]) 0 op (hostCmd op 0 0 0)) ∧
    expiredWait (queueing [hostCmd 6 0 0 0]) 0 = none ∧
    (∃ r : Run, (queueRun (queueing [hostCmd 7 0 0 0]) 0 (hostCmd 7 0 0 0)).translate 0 .rd = (some (0, false), r)) ∧
    (let w := { hostCmd 6 (2 * 2 ^ 28) 0 1 with started := true, waiting := true }
     let s := { queueing [w] with now := 2000 }
     queueRuns s 0 = true ∧ expiredWait s 0 = some w) := by
  unfold NextHostCommand
  exact ⟨by decide, by decide, ⟨_, Prod.ext (by decide) rfl⟩, by decide⟩

/-- HostQueueCommands: a copy in and one out of a whole page, and a copy in whose data do not come. -/
theorem witness_copies :
    (let c := hostCmd 2 0 0x1000 64
     let s := queueing [c]
     NextHostCommand s 0 2 c ∧ inHostWindow s 0 c.arg0 c.arg2 = true ∧ leasedElse s 0 c.arg1 c.arg2 = false ∧
       (((queueRun s 0 c).crossHost 0 c.arg2 false).writeMp (c.arg1 % 2 ^ 57) (zeroBytes 64) false).stop = .go ∧
       ((queueRun s 0 c).writeMp (c.arg1 % 2 ^ 57) (zeroBytes c.arg2) true).stop = .go) ∧
    (let c := hostCmd 3 (4096 - 64) 0x1000 64
     let s := queueing [c]
     let x := readPieces (queueRun s 0 c) (c.arg1 % 2 ^ 57) c.arg2
     NextHostCommand s 0 3 c ∧ inHostWindow s 0 c.arg0 c.arg2 = true ∧ leasedElse s 0 c.arg1 c.arg2 = false ∧
       (x.2.crossHost 0 c.arg2 true).stop = .go ∧ x.1.any (fun p => p.2.2) = false) := by
  unfold NextHostCommand; decide

/-- HostQueueCommands: a page that may go out, one that has to ask, one that comes back unchanged. -/
theorem witness_pages :
    (let c := { hostCmd 4 0 0 0 with started := true, waiting := true }
     let r : LeaseReq := { lease := aLease true, dies := [], queue := 0, cid := 9, hostAddr := 0 }
     let s := { queueing [c] with regions := { linked.regions with leaseReqs := [r] } }
     queueRuns s 0 = true ∧ readyLease s 0 = some (c, r)) ∧
    (readyLease (queueing [hostCmd 4 0 0 0]) 0 = none ∧ NextHostCommand (queueing [hostCmd 4 0 0 0]) 0 4 (hostCmd 4 0 0 0)) ∧
    (let c := hostCmd 5 0 0 0
     let s := { queueing [c] with seam := [{ SeamDie.empty with leases := [aLease true] }, SeamDie.empty] }
     NextHostCommand s 0 5 c ∧ inHostWindow s 0 c.arg1 (leaseSize c.arg2) = true ∧
       (∃ r : Run, (queueRun s 0 c).translate (c.arg0 % 2 ^ 57) .rd = (some (0, false), r)) ∧ isLocal s 0 = true ∧
       ownLease s 0 (paOff 0) (leaseSize c.arg2) = some (aLease true) ∧ (aLease true).ro = true) := by
  unfold NextHostCommand
  exact ⟨by decide, by decide, by decide, by decide, ⟨_, Prod.ext (by decide) rfl⟩, by decide, by decide, rfl⟩

/-! ### Nelpin links -/

/-- A port that carries traffic. -/
def liveFor (now : Nat) : State := { atPort { Port.disabled with state := .active, healthy := 15, width := 4, keyed := true } with now := now }

/-- FlitsSealsAndReplay: a seal that has credit to tell, flits of the highest channel, start and count, in order and out of order. -/
theorem witness_flits :
    (let s := atPort { Port.disabled with state := .active, freed := [1] }
     47 < 48 ∧ (port s 47).state = .active ∧ (port s 47).replay.length < 1024 ∧ portReady s 47 = false ∧ (port s 47).freed ≠ (port s 47).told) ∧
    ((port (heardFlit (liveFor 0) 47 (flit 0 5 15 0)) 47).state = .active ∧ (flit 0 5 15 0).channel < 6 ∧ (flit 0 5 15 0).start ≤ 15) ∧
    ((port (heardFlit (liveFor 0) 47 (flit 1 0 0 127)) 47).state = .active ∧ (flit 1 0 0 127).count ≤ 127) ∧
    (flit 2 0 0 0).seq = (port (heardFlit (liveFor 0) 47 (flit 2 0 0 0)) 47).expected ∧
    (let s := atPort { Port.disabled with state := .active, expected := 7 }
     (port (heardFlit s 47 (flit 2 0 0 0)) 47).state = .active ∧ (flit 2 0 0 0).seq ≠ (port (heardFlit s 47 (flit 2 0 0 0)) 47).expected) := by decide

/-- FlitsSealsAndReplay: a nak repeated after 1 µs, a replay after the port's time. -/
theorem witness_replay :
    (let s := { atPort { Port.disabled with state := .active, nakPending := true } with now := 2000 }
     (port s 47).nakPending = true ∧ (port s 47).nakAt + 2000 ≤ s.now) ∧
    (let s := { atPort { Port.disabled with state := .active, replay := [flit 0 0 0 0] } with now := 2000 * getF up F.NLK_CFG_replay_us 47 }
     (port s 47).replay ≠ [] ∧ (port s 47).ackAt + 2000 * getF s F.NLK_CFG_replay_us 47 ≤ s.now) := by decide

/-- TrainingAndLanes: the steps from detect to active. -/
theorem witness_training :
    ((port (atPort { Port.disabled with state := .detect }) 47).state = .detect ∧ 0 ≤ (atPort Port.disabled).now) ∧
    ((port (atPort { Port.disabled with state := .equalize }) 47).state = .equalize ∧ allowedLanes (atPort Port.disabled) 47 (15 % 16) ≠ 0) ∧
    (port (atPort { Port.disabled with state := .align }) 47).state = .align ∧
    ((port (atPort { Port.disabled with state := .delay, probes := 16 }) 47).state = .delay ∧
      16 ≤ (port (atPort { Port.disabled with state := .delay, probes := 16 }) 47).probes) ∧
    (let s := atPort { Port.disabled with state := .params }
     (port s 47).state = .params ∧ joined s = false ∧ nth 0 [5, 0, 0, 0, 0, 1] 0 % 1024 ≠ hubId s ∧ nth 0 [5, 0, 0, 0, 0, 1] 5 = 1) ∧
    (let s := setF (atPort { Port.disabled with state := .params }) F.HUB_ID_INFO_joined 0 1
     (port s 47).state = .params ∧ joined s = true ∧ nth 0 [5, 0, 0, 2, 1, 1] 4 = 1 ∧ nth 0 [5, 0, 0, 2, 1, 1] 3 ≠ s.startup.domain) ∧
    (port (atPort { Port.disabled with state := .secure }) 47).state = .secure := by decide

/-- TrainingAndLanes: the time-outs of retrain and equalize, a live port. -/
theorem witness_training_ends :
    (let s := { atPort { Port.disabled with state := .retrain } with now := 20000 }
     (port s 47).state = .retrain ∧ (port s 47).since + 20000 ≤ s.now) ∧
    (let s := { atPort { Port.disabled with state := .equalize } with now := 100000000 }
     stateTimeout (port s 47).state = some 100000000 ∧ (port s 47).since + 100000000 ≤ s.now ∧ (port s 47).state ≠ .retrain ∧
       (port s 47).state ≠ .detect) ∧
    (port (liveFor 0) 47).live = true := by decide

/-- TrainingAndLanes: a lane fails, recovers with and without widening, lanes are renegotiated. -/
theorem witness_lanes :
    (3 < 4 ∧ (port (liveFor 0) 47).inSession = true ∧ bit (port (liveFor 0) 47).healthy 3 = true) ∧
    (let s := setF (atPort { Port.disabled with state := .active, healthy := 7, width := 2 }) F.NLK_CTRL_auto_widen 47 0
     (port s 47).state = .active ∧ bit (port s 47).healthy 3 = false ∧ bit (getF s F.NLK_CTRL_lane_off 47) 3 = false ∧
       getF s F.NLK_CTRL_auto_widen 47 = 0) ∧
    (let s := setF (atPort { Port.disabled with state := .active, healthy := 7, width := 2 }) F.NLK_CTRL_auto_widen 47 1
     getF s F.NLK_CTRL_auto_widen 47 = 1 ∧ (port s 47).width < widthOf ((port s 47).healthy + 2 ^ 3)) ∧
    (let s := atPort { Port.disabled with state := .retrain, width := 4 }
     (port s 47).state = .retrain ∧ allowedLanes s 47 (0 % 16) = 0 ∧ allowedLanes s 47 (15 % 16) ≠ 0) ∧
    (let s := setF (atPort { Port.disabled with state := .active, healthy := 7, width := 2 }) F.NLK_CTRL_lane_off 47 (8 % 16)
     allowedLanes s 47 (port s 47).healthy = (port s 47).healthy) := by decide

/-- TrainingAndLanes: the enable, both retrains, a silent link. -/
theorem witness_link_commands :
    getF (setF up F.NLK_CTRL_enable 47 0) F.NLK_CTRL_enable 47 = 0 ∧
    ((port (atPort { Port.disabled with state := .detect }) 47).state ≠ .disabled ∧
      (port (atPort { Port.disabled with state := .detect }) 47).inSession = false) ∧
    ((port (liveFor 0) 47).state ≠ .disabled ∧ (port (liveFor 0) 47).inSession = true) ∧
    ((port (liveFor 2000) 47).state = .active ∧ (port (liveFor 2000) 47).lastGood + 2000 ≤ (liveFor 2000).now) := by decide

/-! ### Coherence -/

/-- A request of agent 16 for the line 0. -/
def seamReq (k : SeamKind) : SeamReq := SeamReq.plain k (.agent 16 1) 0

/-- The hub with that request on its way. -/
def asked (k : SeamKind) : State := { linked with coherent := [seamReq k] }

/-- The hub in which agent 16 owns the line 0. -/
def owned (s : State) : State :=
  { s with seam := [{ SeamDie.empty with dir := [(bucketOf 0, [{ way := 0, tag := tagOf 0, age := 0, entry := { state := .m, holders := [16], overflow := false, group := 0 } }])] },
    SeamDie.empty] }

/-- CoherentRequestsReachTheirLine: each kind of request of a link, and the packets of another hub. -/
theorem witness_coherent :
    (∀ k ∈ [SeamKind.rdCur, .rdS, .rdM, .invM, .evict],
      takeFirst (fun r => decide (r.kind = k) && r.line == cohReq.line && decide (r.who = .agent cohReq.agent cohReq.tag)) (asked k).coherent =
        some (seamReq k, [])) ∧
    takeFirst (fun r => (match r.kind with | .wrCur | .wrBk _ => true | _ => false) && !ownsLine (asked .wrCur) r && r.line == cohReq.line &&
      decide (r.who = .agent cohReq.agent cohReq.tag)) (asked .wrCur).coherent = some (seamReq .wrCur, []) ∧
    (∀ m ∈ [true, false], takeFirst (fun r => decide (r.kind = .wrBk m) && ownsLine (owned (asked (.wrBk m))) r && r.line == cohReq.line &&
      decide (r.who = .agent cohReq.agent cohReq.tag)) (owned (asked (.wrBk m))).coherent = some (seamReq (.wrBk m), [])) := by decide

theorem witness_coherent_packets :
    ∀ p ∈ [pkt 0x01 5 3 0, pkt 0x02 5 3 0, pktOf 0x03 5 3 0 (zeroBytes 64), pkt 0x04 5 3 0],
      Accepted linked p p.ptype ∧ hostHeld linked p = false := by unfold Accepted; decide

/-- DirectoryFollowsItsTable: a request of an agent, and an entry in each state. -/
theorem witness_directory :
    (seamReq .rdS).who = .agent 16 1 ∧ (DirEntry.absent.state = .i ∧ DirEntry.absent.holders = []) ∧
    (let e : DirEntry := { state := .s, holders := [17], overflow := true, group := 0 }
     e.state = .s ∧ e.overflow = true) ∧
    (let e : DirEntry := { state := .m, holders := [16], overflow := false, group := 0 }
     e.state = .m ∧ e.holders = [16] ∧ e.overflow = false) := by decide

/-- DirectoryKeepsEveryLine: the last line, an entry in use and one that is not. -/
theorem witness_directory_lines :
    2 ^ 39 - 1 < 2 ^ 39 ∧ ({ DirEntry.absent with state := .m } : DirEntry).state ≠ .i ∧ DirEntry.absent.state = .i ∧ (1 : Nat) ≠ 0 := by decide

/-- A transaction of agent 16 on the line 0 that awaits an answer. -/
def txn (awaits : List Await) : SeamTxn := { req := seamReq .rdM, awaits := awaits, served := false, opened := 0 }

/-- The hub with that transaction open; agent 1024 belongs to hub 5. -/
def opened (now : Nat) (awaits : List Await) : State :=
  { linked with now := now, fabric := { linked.fabric with agents := [(0, 2 ^ 15 + 5)] }, seam := [{ SeamDie.empty with txns := [txn awaits] }, SeamDie.empty] }

/-- A forward that this hub carries to agent 16. -/
def forward : Forward := { line := 0, owner := 16, home := 5, tag := 3, inv := false, requester := none, start := 0 }

/-- SeamAnswersAndTimers: a transaction with all its answers; answers to a forward and to a snoop; an Inv and a Fwd. -/
theorem witness_answers_of_snoops :
    (txnOf (opened 0 []) 0 = some (txn []) ∧ (txn []).awaits = []) ∧
    forwardOf { linked with fabric := { linked.fabric with forwards := [forward] } } 0 16 = some forward ∧
    (forwardOf linked 0 16 = none ∧ isLocal linked (0 * 64) = true) ∧
    Accepted linked (pkt ptInv 5 3 0) ptInv ∧
    (Accepted linked (pkt ptFwd 5 3 16) ptFwd ∧
      linkOfAgent (send (afterDelivery linked (pkt ptFwd 5 3 16)) (mkPacket (afterDelivery linked (pkt ptFwd 5 3 16)) ptFwdAck 5 3 0 0 15 [])) 16 = some 0) := by
  unfold Accepted; decide

/-- SeamAnswersAndTimers: InvAck, FwdAck, FwdData and FwdDone, good and bad. -/
theorem witness_acknowledgements :
    (Accepted (opened 0 []) (pkt ptInvAck 5 3 0) ptInvAck ∧ respLine (afterDelivery (opened 0 []) (pkt ptInvAck 5 3 0)) (pkt ptInvAck 5 3 0) = some 0) ∧
    (let s := opened 0 [{ agent := 1024, kind := .fwd, acked := false }]
     let p := pkt ptFwdAck 5 3 0
     Accepted s p ptFwdAck ∧ respLine (afterDelivery s p) p = some 0 ∧ fwdOwner (afterDelivery s p) 0 p.src = some 1024) ∧
    (let s := { linked with fabric := { linked.fabric with requests := [reading] } }
     let p := pktOf ptFwdData 5 3 0 (zeroBytes 64)
     Accepted s p ptFwdData ∧ findRequest (afterDelivery s p) p.tag = some reading ∧ reading.packet.addr = p.addr / 64 * 64 ∧ reading.packet.ptype = ptRdS) ∧
    (let s := opened 0 [{ agent := 1024, kind := .fwd, acked := true }]
     ∀ st ∈ [0, 1], Accepted s { pkt ptFwdDone 5 3 0 with status := st } ptFwdDone ∧
       fwdOwner (afterDelivery s { pkt ptFwdDone 5 3 0 with status := st }) 0 5 = some 1024) := by
  unfold Accepted; decide

/-- SeamAnswersAndTimers: each wait at the end of its time. -/
theorem witness_seam_timers :
    (forwardOf { upNow 200000 with fabric := { up.fabric with forwards := [forward] } } 0 16 = some forward ∧ forward.start + 200000 ≤ (upNow 200000).now) ∧
    awaitedFor (opened 200000 [{ agent := 16, kind := .biInv, acked := false }]) 0 16 200000
      (fun w => decide (w.kind = .biInv ∨ w.kind = .biData)) = true ∧
    awaitedFor (opened 100000 [{ agent := 16, kind := .fwd, acked := false }]) 0 16 100000 (fun w => decide (w.kind = .fwd) && !w.acked) = true ∧
    awaitedFor (opened 100000 [{ agent := 16, kind := .inv, acked := false }]) 0 16 100000 (fun w => decide (w.kind = .inv)) = true ∧
    forwardOf (opened 200000 []) (paOff 0) 16 = none := by decide

/-- SeamAnswersAndTimers: a lease reaches the second die; an atomic buffer, a sweep, a fence and the reserve copy. -/
theorem witness_seam_work :
    (let r : LeaseReq := { lease := aLease true, dies := [1], queue := 0, cid := 9, hostAddr := 0 }
     let s := { linked with regions := { linked.regions with leaseReqs := [r] } }
     s.regions.leaseReqs.find? (fun r => r.dies.head? == some 1) = some r ∧ s.seam.length = 2 ∧ (seamDie s 0).waiting = [] ∧
       (seamDie s 1).waiting = [] ∧ (linesOf r.lease.page r.lease.size).all (fun line => decide ((dirEntry s line).state = .i)) = true) ∧
    txnOf up 0 = none ∧
    (let s := { up with seam := [SeamDie.empty, { SeamDie.empty with sweeping := true, position := 2 ^ 25 - 1 }] }
     (seamDie s 1).sweeping = true ∧ Tab.getC [] (seamDie s 1).dir (seamDie s 1).position = []) ∧
    (let s := { up with seam := [SeamDie.empty, { SeamDie.empty with fences := [(0, { mark := .silent, swept := true, start := 0 })] }] }
     (fenceOf s 1 (getF s F.SEAM_FENCE_SEL_agent 1)).mark = .silent ∧ (fenceOf s 1 (getF s F.SEAM_FENCE_SEL_agent 1)).swept = true) ∧
    (let s := setF up F.SEAM_DIR_copy_stale 1 (2 ^ 11)
     bit (getF s F.SEAM_DIR_copy_stale 1) 11 = true ∧ partUp s 11 = true) := by decide

/-- AtomicsAtTheirHome: one that has been answered, one that goes to its line, the line itself. -/
theorem witness_atomics :
    (let s := shared [{ agent := 5, tag := 3, packet := pkt ptAtomRes 0 3 0, entered := 0, dead := false }]
     Accepted s adds ptAtomic ∧ adds.count = 0 ∧ atomOpen (afterDelivery s adds) adds = false ∧
       storedResult (afterDelivery s adds) ((homePart (afterDelivery s adds) (paOff adds.addr)).getD 0) 5 3 = some (pkt ptAtomRes 0 3 0) ∧
       resultDead (afterDelivery s adds) ((homePart (afterDelivery s adds) (paOff adds.addr)).getD 0) 5 3 = false) ∧
    (let b := afterDelivery (shared []) adds
     Accepted (shared []) adds ptAtomic ∧ atomOpen b adds = false ∧ storedResult b ((homePart b (paOff adds.addr)).getD 0) 5 3 = none ∧
       (resultsOf b ((homePart b (paOff adds.addr)).getD 0)).length + weight adds ≤ rcSize ∧ atomRefusal b adds = none) ∧
    lineDead (shared []) 0 = false ∧ (atomApply 0x20 0 (2 ^ 32 - 1)).1 = 0 ∧ (atomApply 0x51 1 (2 ^ 160)).1 ≠ 0 := by
  unfold Accepted; decide

set_option Elab.async false in
/-- AtomicsAtTheirHome: a result cache that is full. -/
theorem witness_full_cache :
    let s := shared (List.replicate 8192 { agent := 6, tag := 0, packet := pkt ptAtomRes 0 0 0, entered := 0, dead := false })
    storedResult s 0 5 3 = none ∧ rcSize < (resultsOf s 0).length + weight adds := by decide +kernel

/-! ### The fabric -/

/-- The hub with requests open. -/
def waitingFor (now : Nat) (rs : List Request) : State := { mem with now := now, fabric := { mem.fabric with requests := rs } }

/-- RequestsAndTheirAnswers: a packet on its way through, from this hub and from port 47. -/
theorem witness_route :
    (let p := { pkt ptRdCur 0 3 0 with dst := 5 }
     p.dst ≠ hubId up ∧ 48 ≤ 48 ∧
       takeFirst (fun (e : Nat × Nat × Packet) => e.1 == 47 && decide (e.2.2 = p))
         ({ up with fabric := { up.fabric with incoming := [(47, 0, p)] } } : State).fabric.incoming = some ((47, 0, p), [])) := by decide

/-- RequestsAndTheirAnswers: each kind of answer from the hub that was asked. -/
theorem witness_fabric_answers :
    ∀ t ∈ [(0x10, 64), (0x11, 0), (0x12, 0), (0x13, 16), (0x14, 0)],
      let p := pktOf t.1 5 3 0 (zeroBytes t.2)
      Accepted (waitingFor 0 [reading]) p t.1 ∧ findRequest (afterDelivery (waitingFor 0 [reading]) p) p.tag = some reading ∧
        reading.packet.dst = p.src ∧ reading.purpose ≠ .combined := by
  unfold Accepted; decide

/-- RequestsAndTheirAnswers: an answer to a combined request, a NakPath, a BulkDone. -/
theorem witness_special_answers :
    (let r := { reading with purpose := .combined }
     Accepted (waitingFor 0 [r]) (pkt 0x11 5 3 0) 0x11 ∧ findRequest (afterDelivery (waitingFor 0 [r]) (pkt 0x11 5 3 0)) 3 = some r ∧
       r.packet.dst = 5 ∧ r.purpose = .combined) ∧
    (Accepted (waitingFor 0 [reading]) (pkt ptNakPath 5 3 2) ptNakPath ∧
      findRequest (afterDelivery (waitingFor 0 [reading]) (pkt ptNakPath 5 3 2)) 3 = some reading ∧
      reading.packet.ptype = (pkt ptNakPath 5 3 2).word3 % 64 ∧ reading.purpose ≠ .combined ∧ reading.single = false) ∧
    (let r := { reading with purpose := .descriptor 0 1 }
     Accepted (waitingFor 0 [r]) (pkt ptBulkDone 5 3 0) ptBulkDone ∧
       findRequest (afterDelivery (waitingFor 0 [r]) (pkt ptBulkDone 5 3 0)) 3 = some r ∧ r.packet.dst = 5 ∧ r.purpose = .descriptor 0 1 ∧
       (pkt ptBulkDone 5 3 0).status = 0) := by
  unfold Accepted; decide

/-- RequestsAndTheirAnswers: a request is due again after 20 µs, is over at its limit; a stored result is dropped after 400 µs. -/
theorem witness_request_timers :
    (let s := waitingFor 40000 [reading]
     findRequest s 3 = some reading ∧ reading.parked = false ∧ reading.single = false ∧ reading.purpose ≠ .combined ∧
       reading.lastSend + 40000 ≤ s.now ∧ s.now < reading.limit ∧ reading.packet.once = false) ∧
    (reading.limit ≤ (waitingFor 100000 [reading]).now ∧ (reading.single && reading.again) = false) ∧
    (resultsOf { shared [{ agent := 5, tag := 3, packet := pkt ptAtomRes 0 3 0, entered := 0, dead := false }] with now := 800000 } 0).any
      (fun r => r.agent == 5 && r.tag == 3 && decide (r.entered + 800000 ≤ 800000) &&
        !(r.packet.ptype == ptSyncRes && r.packet.word3 % 256 == stQueued)) = true := by decide

/-- The first unit of a bulk request: 64 bytes at offset 0 of a transfer of 64. -/
def bulkUnit : List Byte := [0, 0, 0, 0, 0, 0x40, 0, 0, 64, 0, 0, 0, 0, 0, 0, 0]

/-- BulkTransfers: a BulkGet of another hub's address, and one of a line that the asking hub may read. -/
theorem witness_bulk_gets :
    (let p := { pktOf ptBulkGet 5 3 1 bulkUnit with addr := 2 ^ 47 }
     Accepted (shared []) p ptBulkGet ∧ isLocal (afterDelivery (shared []) p) p.addr = false) ∧
    (let p := pktOf ptBulkGet 5 3 1 bulkUnit
     let b := afterDelivery (shared []) p
     Accepted (shared []) p ptBulkGet ∧ isLocal b p.addr = true ∧ bits (p.unit 2) 40 13 = 64 ∧
       (linesOf (paOff p.addr) (bits (p.unit 2) 40 13)).any (fun l => refuses b (.remote p.src) .rd (l * 64)) = false ∧
       findSend b p.src (p.word3 % 2 ^ 16) true = none ∧ bits (p.unit 2) 0 40 = 0) := by
  unfold Accepted; decide

/-- A transfer from hub 5 into the first 64 bytes of the mapped frame; its stream has come to an offset. -/
def arriving (nextOffset : Nat) (headDone : Bool) (stream : List Byte) : RecvXfer :=
  { newRecv (shared []) 5 1 none 64 with
    headDone := headDone, stream := stream, nextOffset := nextOffset
    places := [{ offset := 0, bytes := 64, addr := 0, tag := 3, done := 0, refused := false }] }

/-- The hub that receives it. -/
def receiving (x : RecvXfer) : State := { shared [] with fabric := { (shared []).fabric with recvs := [x] } }

/-- BulkTransfers: a Place, raw bytes, coded bytes at the next offset and 15 before it, the start of a table set, its answer. -/
theorem witness_bulk_data :
    (let p := pktOf ptPlace 5 3 1 bulkUnit
     Accepted (receiving (arriving 0 false [])) p ptPlace ∧ findRecv (afterDelivery (receiving (arriving 0 false [])) p) 5 1 = some (arriving 0 false [])) ∧
    (let p := pktOf ptBulkData 5 3 1 (zeroBytes 64)
     Accepted (receiving (arriving 0 false [])) p ptBulkData ∧ findRecv (afterDelivery (receiving (arriving 0 false [])) p) 5 1 = some (arriving 0 false []) ∧
       bit p.word3 57 = false) ∧
    (∀ next ∈ [16, 31],
      let x := arriving next true (zeroBytes next)
      let p := pktOf ptBulkData 5 3 (2 ^ 57 + 16 * 2 ^ 16 + 1) (zeroBytes 16)
      Accepted (receiving x) p ptBulkData ∧ findRecv (afterDelivery (receiving x) p) 5 1 = some x ∧ bit p.word3 57 = true ∧ ofTableSet x p = false ∧
        bits p.word3 16 40 ≤ x.nextOffset ∧ x.nextOffset < bits p.word3 16 40 + 16) ∧
    (let p := pktOf ptBulkData 5 3 (2 ^ 57 + 1) ([1, 0, 1, 0, 1, 0, 0, 0] ++ zeroBytes 8)
     ofTableSet (arriving 0 false []) p = true ∧ bits p.word3 16 40 = 0 ∧
       p.payload.length < 16 + 128 * (List.range 32).countP (fun i => bit (field p.payload 4 4) i)) ∧
    Accepted (shared []) (pkt ptTableAns 5 0 1) ptTableAns := by
  unfold Accepted; decide

/-- A transfer to hub 5 whose table set has been accepted and whose bytes have been read. -/
def sending : SendXfer :=
  { newSend mem 5 1 false 0 1 7 64 none with die := 1, table := .ok, bytes := zeroBytes 64 }

/-- A segment of it. -/
def segment : Segment4k := { peer := 5, number := 1, serves := false, bytes := zeroBytes 64, last := true }

/-- A stored segment of 8 bytes on the wire, and its bytes. -/
def storedWire : List Byte := storedSegment 1 0 (List.replicate 8 7)

/-- SegmentsAreStagedAndExpanded: a segment enters, one passes, one expands and one does not. -/
theorem witness_segments :
    (let s := { mem with fabric := { mem.fabric with sends := [sending] } }
     (∀ x ∈ s.fabric.sends, x.serves = false) ∧ (cmpDie s 1).withheld = [] ∧
       s.fabric.sends.find? (fun x => x.die == 1 && (nextSegment x).isSome) = some sending ∧ nextSegment sending = some segment) ∧
    (let s := { mem with fabric := { mem.fabric with cmp := [CmpDie.empty, { CmpDie.empty with queue := [segment], passing := true }] } }
     (cmpDie s 1).passing = true ∧ (cmpDie s 1).queue = segment :: []) ∧
    (let x := { arriving 16 true storedWire with total := 8 }
     findRecv (receiving x) 5 1 = some x ∧ x.headDone = true ∧ 8 ≤ x.stream.length ∧ onlyFill x.stream = false ∧
       wireLength x.stream ≤ x.stream.length ∧ x.expanded < x.total ∧
       expandSegment x.tables (x.stream.take (wireLength x.stream)) = some (List.replicate 8 7) ∧
       (List.replicate 8 (7 : Byte)).length = min 4096 (x.total - x.expanded)) ∧
    (let x := arriving 16 true (zeroBytes 16)
     findRecv (receiving x) 5 1 = some x ∧ 8 ≤ x.stream.length ∧ onlyFill x.stream = false ∧ wireLength x.stream ≤ x.stream.length ∧
       x.expanded < x.total ∧ expandSegment x.tables (x.stream.take (wireLength x.stream)) = none) := by decide

/-- The hub with a port 47 toward hub 5 that has ended a session. -/
def settling (p : Port) : State := { atPort p with now := 4000000 }

/-- FencesReconciliationAndLoss: a Fence and an Echo, a Reconcile and its answers. -/
theorem witness_fences :
    Accepted up (pkt ptFence 5 3 0) ptFence ∧ Accepted up (pkt ptEcho 5 3 0) ptEcho ∧ Accepted up (pkt ptReconcile 5 3 0) ptReconcile ∧
    (let s := atPort { Port.disabled with state := .active, partnerHub := 5, reconciling := some 0 }
     Accepted s (pkt ptReconAns 5 47 0) ptReconAns ∧ (port (afterDelivery s (pkt ptReconAns 5 47 0)) 47).reconciling.isSome = true ∧
       (port (afterDelivery s (pkt ptReconAns 5 47 0)) 47).partnerHub = 5 ∧ bit (pkt ptReconAns 5 47 0).word3 12 = false ∧
       Accepted s (pkt ptReconAns 5 47 (2 ^ 12)) ptReconAns ∧ bit (pkt ptReconAns 5 47 (2 ^ 12)).word3 12 = true ∧
       (port (afterDelivery s (pkt ptReconAns 5 47 (2 ^ 12))) 47).handed = [] ∧
       (afterDelivery s (pkt ptReconAns 5 47 (2 ^ 12))).fabric.flows.filter (fun g => g.fenced == some (reconMark 47)) = []) := by
  unfold Accepted; decide

/-- A Loss of the agent 6 that names this hub, and a notice of hub 5 of its own new epoch. -/
def lossOf (agent : Nat) : Packet := pktOf ptLoss 5 0 0 ([BitVec.ofNat 8 agent] ++ zeroBytes 15 ++ [1] ++ zeroBytes 127)

set_option Elab.async false in
/-- FencesReconciliationAndLoss: the reconcile's time, a release record's, a Loss, an epoch notice, a hub that may be declared lost. -/
theorem witness_losses :
    (let s := { settling { Port.disabled with state := .active, reconciling := some 0 } with now := 2000 * getF up F.NFAB_CFG_rec_us (sliceOf 47) }
     (port s 47).reconciling = some 0 ∧ 0 + 2000 * getF s F.NFAB_CFG_rec_us (sliceOf 47) ≤ s.now) ∧
    (let s := settling { Port.disabled with release := some (9, 0) }
     (port s 47).release = some (9, 0) ∧ 0 + 4000000 ≤ s.now) ∧
    (Accepted up (lossOf 6) ptLoss ∧ lossAgent (lossOf 6) ≠ (lossOf 6).src ∧ (passOn (afterDelivery up (lossOf 6)) (lossOf 6)).2 = true) ∧
    ((lossOf 5).ok = true ∧ (lossOf 5).ptype = ptLoss ∧ lossAgent (lossOf 5) = (lossOf 5).src ∧ (lossOf 5).src ≠ hubId (takeIn up (lossOf 5)) ∧
      (takeIn up (lossOf 5)).fabric.lostHubs.contains (lossOf 5).src = false ∧ (passOn (takeIn up (lossOf 5)) (lossOf 5)).2 = true ∧
      noticeOld (passOn (takeIn up (lossOf 5)) (lossOf 5)).1 (lossOf 5) = false) := by
  unfold Accepted; decide +kernel

theorem witness_declared :
    let s := { up with
      now := 8000
      ports := [(0, { Port.disabled with state := .active, partnerHub := 6 }), (1, { Port.disabled with state := .detect, partnerHub := 1023, cause := 1 })]
      fabric := { up.fabric with unreconciled := [1023] } }
    1023 ≠ hubId s ∧ mayDeclare s 1023 = true := by decide

/-! ### Keys, tenants, debug, ownership -/

/-- The hub with key ID 1 in a state, of a tenant. -/
def keyed (st : KeyState) (tid : Nat) : State :=
  { mem with eloan := { mem.eloan with keys := [(1, { KeyId.unused with state := st, tid := tid })], tenants := [(1023, 9)] } }

/-- A table that lists every key of a run finds each of them. -/
theorem find_run (n k t : Nat) (h : k ≤ t) (h2 : t < k + n) : Tab.find? ((List.range' k n).map (fun t => (t, 0))) t = some 0 := by
  induction n generalizing k with
  | zero => omega
  | succ n ih =>
    rw [List.range'_succ, List.map_cons, Tab.find?]
    by_cases e : t = k
    · rw [if_neg (by omega), if_pos e]
    · rw [if_neg (by omega), if_neg e]; exact ih (k + 1) (by omega) (by omega)

/-- ManagerMessages: every TID in use. -/
theorem witness_full :
    (range 1 1023).filter (fun t => !tidKnown { up with eloan := { up.eloan with tenants := (List.range' 1 1023).map (fun t => (t, 0)) } } t) = [] := by
  rw [List.filter_eq_nil_iff]
  intro t ht
  obtain ⟨i, hi, rfl⟩ := List.mem_map.1 ht
  have : i < 1023 := List.mem_range.1 hi
  simp [tidKnown, find_run 1023 1 (1 + i) (by omega) (by omega)]

set_option Elab.async false in
/-- ManagerMessages: a TID that is free, the last one in use. -/
theorem witness_tenants : (range 1 1023).filter (fun t => !tidKnown up t) ≠ [] ∧ tidKnown (keyed .free 0) 1023 = true := by decide +kernel

/-- ManagerMessages: key IDs, contexts and objects at the ends of their ranges. -/
theorem witness_manager :
    (keyArg 4095 = true ∧ tidKnown up 0 = true ∧ (keyOf up 4095).state = .free) ∧
    (keyArg 1 = true ∧ (keyOf mem 1).state ≠ .free) ∧
    (objHub (11 * 2 ^ 13 + 6143) = hubId up ∧ objPart (11 * 2 ^ 13 + 6143) ≤ 11 ∧ objIndex (11 * 2 ^ 13 + 6143) ≤ 6143 ∧ 11 * 2 ^ 13 + 6143 < 2 ^ 27 ∧
      (syncObj up (objKey (11 * 2 ^ 13 + 6143))).waiters = [] ∧ tidOf up 4095 = 0 ∧
      Tab.getC 0 up.sync.assigned (objKey (11 * 2 ^ 13 + 6143)) ≠ 4095) := by decide

/-- TenantMessages: a key ID that is assigned, one that is keyed, one that is neither. -/
theorem witness_keys :
    ((keyChecks (keyed .assigned 1023) 1023 1).all (fun c => !c.1) = true ∧ (keyOf (keyed .assigned 1023) 1).state = .assigned ∧
      vendorDebug (keyed .assigned 1023) = false ∧ (zeroBytes 96).length = 96) ∧
    ((keyChecks (keyed .keyed 1023) 1023 1).all (fun c => !c.1) = true ∧ (keyOf (keyed .keyed 1023) 1).state = .keyed ∧
      (keyOf (keyed .keyed 1023) 1).state ≠ .assigned) := by decide

set_option Elab.async false in
/-- The hub in which context 1 waits for its tenant's confirmation. -/
def unconfirmed : State := { mem with eloan := { mem.eloan with bindings := [(1, { candidate := some 0, bound := none, hash := none })] } }

theorem unconfirmed_reads : hubRead unconfirmed (getF unconfirmed F.XLT_CTX_BASE_addr 0 * 2 ^ 21 + 512 * 1) 512 = some (zeroBytes 512) := by
  decide +kernel

/-- TenantMessages: a context whose descriptor is in the mapped frame. -/
theorem witness_confirm :
    tidKnown unconfirmed 0 = true ∧ (Tab.getC Binding.unbound unconfirmed.eloan.bindings 1).candidate = some 0 ∧
      descriptorHash unconfirmed 1 = some (Config.hash (zeroBytes 512)) :=
  ⟨by decide, by decide, by unfold descriptorHash; rw [unconfirmed_reads]; rfl⟩

/-- TenantMessages: a link whose two streams have one key. -/
theorem witness_link_bind :
    let s := { linked with eloan := { linked.eloan with linkKey := [(0, 9), (1, 9)] } }
    linkOfAgent s 16 = some 0 ∧ tidKnown s 0 = true ∧ linkTenant s 0 = 0 ∧ Tab.find? s.eloan.linkKey (2 * 0) = some 9 ∧
      Tab.find? s.eloan.linkKey (2 * 0 + 1) = some 9 := by decide

/-- A window of a tenant onto hub 5. -/
def window (tid : Nat) : Window :=
  { number := 3, tid := tid, kind := 0, hub := 5, first := 0, count := 1, rd := true, wr := false, atm := false, region := 4095, keyId := 0 }

set_option Elab.async false in
/-- TenantMessages: a window at the largest range, its grant, its end by its own tenant and by another. -/
theorem witness_windows :
    (let s := { up with fabric := { up.fabric with jobs := [{ job := 0, valid := true, hubs := 33 }] } }
     5 ≠ hubId s ∧ rangeOk s 0 5 (2 ^ 47 - 2 ^ 21) (2 ^ 22) = true ∧ 4095 ≤ 4095 ∧ tidKnown s 0 = true ∧ unusedNumbers s ≠ []) ∧
    (let s := { up with eloan := { up.eloan with windowReqs := [window 0] } }
     takeFirst (fun w => w.number == 3 && w.hub == 5) s.eloan.windowReqs = some (window 0, [])) ∧
    (∀ t ∈ [0, 1],
      let s := { up with eloan := { up.eloan with windows := [window t] } }
      windowOf s 3 = some (window t) ∧ tidKnown s 0 = true) ∧ (window 0).tid = 0 ∧ (window 1).tid ≠ 0 := by decide +kernel

/-- TenantMessages: a share by the tenant of the region's key, and by another; a query. -/
theorem witness_share :
    rgnValid (regionEntry (keyed .keyed 0) 1) = true ∧ tidKnown (keyed .keyed 0) 0 = true ∧
      (keyOf (keyed .keyed 0) (rgnKey (regionEntry (keyed .keyed 0) 1))).tid = 0 ∧
      (keyOf (keyed .keyed 0) (rgnKey (regionEntry (keyed .keyed 0) 1))).tid ≠ 1023 ∧ tidKnown (keyed .keyed 0) 1023 = true := by decide

/-- The hub with a nonce for VENDOR debug of partition 11. -/
def challenged (now : Nat) : State :=
  { up with now := now, eloan := { up.eloan with nonces := [(11, { level := 2, value := 0, since := 0 })] } }

/-- DebugAndOwnership: a challenge, the end of a nonce, an open that verifies and one that does not, a close. -/
theorem witness_debug :
    lockedOut up 11 = false ∧
    (Tab.find? (challenged nonceLife).eloan.nonces 11 = some { level := 2, value := 0, since := 0 } ∧ 0 + nonceLife ≤ (challenged nonceLife).now) ∧
    debugVerifies (challenged (nonceLife - 1)) 11 2 true true = true ∧ debugVerifies (challenged nonceLife) 11 2 true true = false ∧
    Tab.getC 0 ({ up with eloan := { up.eloan with debugOpen := [(11, 2)] } } : State).eloan.debugOpen 11 ≠ 0 ∧ up.eloan.owned = true := by decide

/-- DebugAndOwnership: no owner and one, the last transfer, a minimum version that can be raised and one that has no fuses left. -/
theorem witness_ownership :
    (State.reset.eloan.owned = false ∧ State.reset.eloan.ownerGen < 64) ∧
    (let s := { up with eloan := { up.eloan with ownerGen := 63 } }
     s.eloan.owned = true ∧ s.eloan.ownerGen < 64) ∧
    ({ up with board := { up.board with ownerClear := true } } : State).board.ownerClear = true ∧
    (let s := { up with henyen := { up.henyen with micro := { cls := 2, version := 1, svn := 1 }, stock := { cls := 3, version := 1, svn := 1 } } }
     2 ≤ 2 ∧ s.eloan.owned = true ∧ (classSvn s 2).1 < (classSvn s 2).2 ∧ raisesLeft s 2 ≠ 0 ∧
       raisesLeft { s with eloan := { s.eloan with raises := [64, 64, 0] } } 2 = 0) := by decide

/-- DebugAndOwnership: the second key of a link, a key ID after its scrub, the roots in step. -/
theorem witness_key_ends :
    (let s := { linked with eloan := { linked.eloan with linkKey := [(0, 9)] } }
     linkExists s 0 = true ∧ 1 < 2 ∧ getL s F.HPORT_LINK_STATUS_state 0 = 2 ∧
       (Tab.find? (Tab.insert s.eloan.linkKey (2 * 0 + 1) 9) (2 * 0)).isSome = true ∧
       (Tab.find? (Tab.insert s.eloan.linkKey (2 * 0 + 1) 9) (2 * 0 + 1)).isSome = true) ∧
    (let s := { keyed .scrub 0 with regions := up.regions }
     (keyOf s 1).state = .scrub ∧ s.regions.entries.any (fun e => rgnValid e.2 && rgnKey e.2 == 1) = false ∧
       s.eloan.grants.any (fun g => g.keyId == 1) = false) ∧
    up.eloan.mirrorOk = true := by decide

/-- ScrubZeroesOneCluster: the last cluster, with something in its S-space. -/
theorem witness_scrub :
    let s := { up with sspace := [(383 * sSize, 7)], eloan := { up.eloan with scrubbing := [23] } }
    s.eloan.scrubbing.contains 23 = true ∧ Tab.wf (fun _ => (0 : Byte)) s.sspace = true ∧ Tab.wf (fun _ => (0 : Byte)) s.cspace = true := by decide

/-! ### Partitions, spares, retirement -/

/-- PartitionsAndCores: a partition that comes up, one that has tripped, a row to bring into step, cores and a job. -/
theorem witness_partitions :
    ((partition (partIs Partition.cold) 11).state = .inReset ∧ (partition (partIs Partition.cold) 11).failed = false ∧
      (powerOf (partIs Partition.cold) 11).tripped = false) ∧
    (powerOf { partIs Partition.cold with power := [(11, { PowerPart.cold with tripped := true })] } 11).tripped = true ∧
    (let s := partIs { Partition.cold with state := .up, resync := [5] }
     partUp s 11 = true ∧ (partition s 11).resync = [5] ∧ erasedCount s 5 < 3) ∧
    (383 < 384 ∧ memOnly up (partOfCore 383) = false ∧ partUp up (partOfCore 383) = true) ∧
    (coreOf { up with cores := [(383, { Core.empty with fenced := true })] } 383).fenced = true ∧
    (withThread aThread).tick.streams.filterMap (fun e =>
      if e.2.budget.job = 1 ∧ e.2.ended.any StreamRun.abortable = true then some e.1 else none) ≠ [] := by decide

/-- SparesAndRetirement: the last stack's spare row, a frame, the last channel. -/
theorem witness_spares :
    (spareUnit 43 = true ∧ 0 < Tab.getC 0 ({ up with ras := { up.ras with spareLeft := [(43, 1)] } } : State).ras.spareLeft 43) ∧
    [0, 0].filter (fun f => isFrame up f && !up.ras.retired.contains f) = 0 :: [0] ∧ up.ras.retiredChannels.contains 23 = false := by decide

/-! ### Registers and the Henyen controllers -/

/-- RegisterOperations: the last offset of the last page, served and refused. -/
theorem witness_register_operations :
    65535 < 65536 ∧ 0xFF8 % 8 = 0 ∧ 0xFF8 ≤ 0xFF8 ∧ (henServes up = true ∧ up.henyen.log = []) ∧ henServes State.reset = false := by decide

/-- A field of the upper half of a register. -/
def field_ (a : Access) : Field := { off := 0x100, lo := 32, len := 32, access := a, reset := 0, legal := .any }

/-- FieldsFollowTheirAccess: fields of each access, a page that is locked and one that is not. -/
theorem witness_fields :
    (∀ a ∈ [Access.ro, .rw, .rws, .w1c, .w1s, .rwl, .wo], (field_ a).lo + (field_ a).len ≤ 64 ∧ (field_ a).access = a) ∧
    2 ^ 64 - 1 < 2 ^ 64 ∧ pageLocked up 4 = false ∧ pageLocked (setReg up 4 0x10 1) 4 = true := by decide

/-- ClampsTakeTheNearestLegalValue: two ranges with a gap. -/
theorem witness_clamps :
    [(1, 3), (7, 9)] ≠ [] ∧ (∀ r ∈ [(1, 3), (7, 9)], r.1 ≤ r.2) ∧ [(1, 3), (7, 9)].Pairwise (fun a b : Nat × Nat => a.2 < b.1) ∧
      nearest 5 [(1, 3), (7, 9)] = 3 := by decide

/-- A register message with one operation. -/
def message : List Byte := [1, 0, 1, 0, 0, 0, 0, 0] ++ zeroBytes 16

/-- PagesMessagesAndEvents: a page, a message over I3C, an event that is due, a reminder. -/
theorem witness_register_pages :
    (pageDown up 175 = false ∧ pageExists up 175 = true ∧ pageKind 175 = some (.kNLK, 47) ∧ Kind.kNLK.lockable = true) ∧
    (transportLive up 1 0 = true ∧ up.eloan.owned = true ∧ (messageOps message).isSome = true ∧ Tab.getC 0 up.henyen.buffers 4 + message.length ≤ 65536) ∧
    (({ up with eventsDue := [63] } : State).eventsDue.contains 63 = true ∧ nth false up.henyen.running up.henyen.active = true) ∧
    getF (upF F.HEN_CTRL_remind_ms 1) F.HEN_CTRL_remind_ms (upF F.HEN_CTRL_remind_ms 1).henyen.active ≠ 0 := by decide

/-- ControllersAndUpdates: the lease's holder steps down at 4 ms, the other takes over at 5 ms. -/
theorem witness_controllers :
    (nth false up.henyen.running up.henyen.active = true ∧ nth false up.henyen.running (1 - up.henyen.active) = true) ∧
    (upNow 8000000).henyen.lastRenew + 8000000 ≤ (upNow 8000000).now ∧ mayTakeOver (upNow 10000000) [true, true] = true ∧
    up.henyen.mirrorOk = true := by decide

/-- The hub with an image in the mapped frame, its class chosen. -/
def loading (minEloan : Nat) : State :=
  { setF mem F.HEN_UPD_CTRL_class 0 1 with eloan := { mem.eloan with minEloan := minEloan } }

set_option Elab.async false in
/-- ControllersAndUpdates: an update that runs, an image below and at the minimum, one loaded, one to return to. -/
theorem witness_updates :
    ({ up with henyen := { up.henyen with updState := 3 } } : State).henyen.updState = 3 ∧ up.henyen.updState ≠ 1 ∧ up.henyen.updState ≠ 3 ∧
    (updClassOf (loading 1) ≠ 0 ∧ 0 < fusedMin (loading 1) (updClassOf (loading 1)) ∧ fusedMin (loading 1) (updClassOf (loading 1)) ≤ 1) ∧
    (let i : Image := { cls := 0, version := 1, svn := 0 }
     let s := { up with henyen := { up.henyen with loaded := some i, previous := some i } }
     s.henyen.loaded = some i ∧ i.cls = updClassOf s ∧ s.henyen.previous = some i ∧ fusedMin s i.cls ≤ i.svn) := by decide

theorem witness_image : (hubRead (loading 1) (getF (loading 1) F.HEN_UPD_SRC_addr 0 * 4096) 4096).isSome = true := by decide +kernel

/-! ### Counters, samples and windows -/

/-- CountersSamplesAndWindows: the last counter keeps its TID and takes another; a snapshot; a sampler with records. -/
theorem witness_counters :
    cfgF (writeByAccess up (tallyPage 11) (0x100 + 8 * 63) .both 0).1 11 63 F.TALLY_CFGn_tid = cfgF up 11 63 F.TALLY_CFGn_tid ∧
    cfgF (writeByAccess up (tallyPage 11) (0x100 + 8 * 63) .both (2 ^ F.TALLY_CFGn_tid.lo)).1 11 63 F.TALLY_CFGn_tid ≠ cfgF up 11 63 F.TALLY_CFGn_tid ∧
    (let s := { up with tally := { up.tally with samplers := [(11, { Sampler.idle with records := [zeroBytes 64] })] } }
     getF (writeByAccess s (tallyPage 11) 0x788 .both 0).1 F.TALLY_SAMP_CTRL_tid 11 = getF s F.TALLY_SAMP_CTRL_tid 11 ∧
       getF (writeByAccess s (tallyPage 11) 0x788 .both (2 ^ F.TALLY_SAMP_CTRL_tid.lo)).1 F.TALLY_SAMP_CTRL_tid 11 ≠ getF s F.TALLY_SAMP_CTRL_tid 11 ∧
       (sampler s 11).records ≠ []) ∧
    getF up F.TALLY_SAMP_CTRL_tid 11 = 0 ∧ getF (setF up F.TALLY_SAMP_CTRL_tid 11 1) F.TALLY_SAMP_CTRL_tid 11 ≠ 0 := by decide

theorem witness_snapshot : up.RegsOk := by unfold State.RegsOk; decide

/-- The hub whose bandwidth window has run for 20 ms, with bytes at port 0 and an alarm. -/
def counting (limit : Nat) : State :=
  { setF (setF up F.TALLY_BW_CTRL_en 1 1) F.TALLY_BW_ALARM_limit 1 limit with
    now := 40000000
    tally := { up.tally with bw := [(bwKey 1 0 0, { BwPort.empty with bytes := 2 ^ 40 })] } }

set_option Elab.async false in
/-- CountersSamplesAndWindows: windows switched on and off, one that ends below its alarm and above it. -/
theorem witness_windows_end :
    (getF (writeByAccess up (bwPage 1) 0x100 .both (2 ^ F.TALLY_BW_CTRL_en.lo)).1 F.TALLY_BW_CTRL_en 1 = 1 ∧
      rawReg (writeByAccess up (bwPage 1) 0x100 .both (2 ^ F.TALLY_BW_CTRL_en.lo)).1 (bwPage 1) 0x100 ≠ rawReg up (bwPage 1) 0x100) ∧
    getF (writeByAccess up (bwPage 1) 0x100 .both 0).1 F.TALLY_BW_CTRL_en 1 ≠ 1 ∧
    (bwDue (counting 0) 1 = true ∧ getF (addWrapF (bwAll (counting 0) 1 (bwResult 40000000)) F.TALLY_BW_WINDOWS_windows 1 1) F.TALLY_BW_ALARM_limit 1 = 0) ∧
    (let c := addWrapF (bwAll (counting 1) 1 (bwResult 40000000)) F.TALLY_BW_WINDOWS_windows 1 1
     bwDue (counting 1) 1 = true ∧ getF c F.TALLY_BW_ALARM_limit 1 ≠ 0 ∧
       getF c F.TALLY_BW_ALARM_limit 1 < (Tab.getC BwPort.empty c.tally.bw (bwKey 1 (getF c F.TALLY_BW_ALARM_unit 1) (getF c F.TALLY_BW_ALARM_dir 1))).rate) := by
  decide +kernel

/-! ### Power, clocks and pins -/

/-- The hub with partition 11's power machinery. -/
def powered (now : Nat) (x : PowerPart) : State := { up with now := now, power := [(11, x)] }

/-- PowerLoopsAndSensors: a supply in its range, a duty that stands in for a point, and its recovery at 10 µs. -/
theorem witness_duty :
    (outOfService up = false ∧ followSupply up = up) ∧
    (let s := powered 200000 { PowerPart.cold with duty := 8, point := 16 }
     (powerOf s 11).duty < 16 ∧ (powerOf s 11).dutySince + 200000 ≤ s.now ∧ 800 ≤ pointMHz (pointNow s 11) * (powerOf s 11).duty / 16) ∧
    (let s := powered 20000 { PowerPart.cold with duty := 8, marginSince := some 0 }
     (powerOf s 11).marginSince = some 0 ∧ (powerOf s 11).duty < 16 ∧ 0 + 20000 ≤ s.now ∧ ¬ 20000 < 0 + 20000) := by decide

/-- PowerLoopsAndSensors: a sustained check, the die sensors at their marks. -/
theorem witness_thermal :
    (0 < (upAt 0 2000000).tick.phase ∧ (upAt 0 2000000).tick.phase % 2000000 = 0) ∧ dieAt up 420 = false ∧ dieAt up 440 = false ∧
    dieAt { up with pkg := { up.pkg with dieTemp := [0, 0, 0, 420] } } 420 = true ∧
    dieAt { up with pkg := { up.pkg with dieTemp := [0, 0, 0, 440] } } 440 = true := by decide

/-- The die temperatures that a sensor reading leaves. -/
theorem witness_sensors :
    dieAt (updPkg ((List.range 12).foldl (sensePart [] []) up) (fun x => { x with dieTemp := (List.range 4).map (fun i => nth (nth 0 x.dieTemp i) [439, 0, 0, 0] i) })) 440 = false ∧
    dieAt (updPkg ((List.range 12).foldl (sensePart [] []) up) (fun x => { x with dieTemp := (List.range 4).map (fun i => nth (nth 0 x.dieTemp i) [440, 0, 0, 0] i) })) 440 = true := by
  decide

/-- PowerLoopsAndSensors: a droop, the one that reaches the threshold, the decay of a margin, a calibration slot. -/
theorem witness_droops :
    (partUp up 11 = true ∧ (up.now :: (powerOf up 11).droops.filter (fun t => decide (up.now < t + 2000000))).length < getF up F.PWR_PART_DROOP_thresh 11) ∧
    (let s := powered 0 { PowerPart.cold with droops := List.replicate 15 0, margin := 9 }
     getF s F.PWR_PART_DROOP_thresh 11 ≤ (s.now :: (powerOf s 11).droops.filter (fun t => decide (s.now < t + 2000000))).length ∧
       (powerOf s 11).margin < 10) ∧
    (let s := powered 2000000000 { PowerPart.cold with margin := 1 }
     0 < (powerOf s 11).margin ∧ (powerOf s 11).lastDroop + 2000000000 ≤ s.now) ∧
    (let s := { upAt 0 10000 with now := 2010000 }
     s.tick.phase = 2 * (1000 + 2000 * (11 % 3)) ∧ (powerOf s 11).slotTime + 2000 * getF s F.PWR_PART_CAL_interval_us 11 ≤ tickBegan s) := by decide

/-- SupplyClocksAndPins: the supply at rest, and VIN at the ends of its ranges. -/
theorem witness_supply :
    (up.pkg.state = .normal ∧ up.pkg.dips = [] ∧ up.pkg.dipStart = none ∧ up.pkg.below9 = none ∧ up.pkg.surgeStart = none ∧ 10800 ≤ up.pkg.vin ∧
      up.pkg.vin ≤ 13200) ∧
    (9000 ≤ 10799 ∧ 10799 < 10800) ∧ (10800 ≤ 13200 ∧ 13200 ≤ 13200) ∧ (13200 < 13201 ∧ 14000 ≤ 14000) ∧ 14000 < 14001 := by decide

/-- SupplyClocksAndPins: one reference, both, and the other in use. -/
theorem witness_clocks :
    (let s := { up with clocks := { refA := true, refB := false, onB := false } }
     refPresent s false = true ∧ refPresent s (!false) = false ∧ refPresent s true = false ∧ refPresent s (!true) = true) ∧
    (refPresent up false = true ∧ refPresent up (!false) = true ∧ up.clocks.onB = false) ∧
    (refPresent up true = true ∧ refPresent up (!true) = true ∧ up.clocks.onB ≠ true) := by decide

/-- The hub with a land in a switch of its function. -/
def switching (now : Nat) (x : Land) : State := { up with now := now, pins := { up.pins with lands := [(12, x)] } }

/-- SupplyClocksAndPins: a function asked for, the end of a switch, the old one idle or over its time, an input. -/
theorem witness_lands :
    ((offered 12).contains 0 = true ∧ 0 ≠ (landOf up 12).wanted ∧ (landOf up 12).state = 0 ∧ alwaysIdle (landOf up 12).active = false) ∧
    (let s := switching 100 { Land.rest 1 with wanted := 0, state := 1, tz := 100, hold := 0 }
     (landOf s 12).state = 1 ∧ (landOf s 12).dueAt ≤ s.now) ∧
    (let s := switching 2000000 { Land.rest 1 with wanted := 0, state := 2 }
     (landOf s 12).state = 2 ∧ (landOf s 12).since + 2000000 ≤ s.now) ∧
    (let s := switching 1999999 { Land.rest 1 with wanted := 0, state := 2 }
     (landOf s 12).state = 2 ∧ s.now < (landOf s 12).since + 2000000) ∧
    (underFunction up 23 0 = true ∧ up.pins.vio = true) := by decide

/-! ### Start-up, the domain and resets -/

/-- The hub as a member of its domain. -/
def member : State := setF up F.HUB_ID_INFO_joined 0 1

/-- DomainMessages: FORM and JOIN in each state that answers them otherwise. -/
theorem witness_form :
    ServesDomain up ∧ joined member = true ∧ (joined mem = false ∧ anyRegion mem = true) ∧
    (joined up = false ∧ anyRegion up = false ∧ otherRecord up 1023 = false ∧ inRejoin up = false ∧ 2 ^ 64 - 1 ≠ 0 ∧ 1023 ≤ 1023) ∧
    (let s := { member with startup := { member.startup with phase := .rejoin } }
     inRejoin s = true ∧ joined s = true ∧ 0 = hubId s) := by
  unfold ServesDomain; decide

/-- The hub with sixteen frames for a warm record in region 1. -/
def reserved : State := { mem with pools := { mem.pools with placed := (range 16 16).map (fun f => (f, 2)) } }

/-- DomainMessages: LEAVE in use and not, a warm area, a partition that sleeps and one that wakes. -/
theorem witness_leave :
    (joined member = true ∧ stillInUse member = false) ∧ stillInUse { member with regions := mem.regions } = true ∧
    (1023 ≠ hubId up ∧ 0 = hubId up) ∧ (16 ≠ 0 ∧ areaRegion reserved 16 = some 1) ∧
    (partUp up 11 = true ∧ partBusy up 11 = false) ∧ (partUp (withThread aThread) 0 = true ∧ partBusy (withThread aThread) 0 = true) ∧
    (partition (partIs { Partition.cold with state := .asleep }) 11).state = .asleep := by decide

theorem witness_no_owner :
    let s := { up with eloan := { up.eloan with owned := false } }
    nth false s.henyen.running s.henyen.active = true ∧ s.eloan.owned = false := by decide

/-- The state in which a cold start from reset chooses its image. -/
def starting : State :=
  { coldReset State.reset with
    pins := { State.reset.pins with lands := [], vstby := true, coldResetLow := false }
    eloan := { fusedEloan State.reset.eloan with mirrorOk := true } }

/-- StartUpAndResets: a cold start from reset, a warm reset, a quiesced hub after 10 ms of good supply and before. -/
theorem witness_starts :
    (supplyGood State.reset = true ∧ State.reset.startup.phase = .starting ∧
      bestSlot starting = some 0) ∧
    (up.henyen.updState ≠ 1 ∧ up.henyen.updState ≠ 3) ∧
    (let s := { upNow 20000000 with pkg := { up.pkg with state := .quiesced, above114 := some 0 } }
     s.pkg.state = .quiesced ∧ s.pkg.above114 = some 0 ∧ s.pkg.below75 = false ∧ 0 + 20000000 ≤ s.now ∧ 19999999 < 0 + 20000000) := by decide

/-! ### Arithmetic, coding, parity -/

/-- ExactSumsIgnoreOrderAndSplit: a term that saturates and one that does not; operands within their bounds. -/
theorem witness_sums :
    (let p : Partial := { x := 2 ^ 159 - 1, anchor := 158, tag := .none, sat := false, bound := false }
     p.x + floorAt false 1 0 (p.anchor - 158) > 2 ^ 159 - 1 ∧ p.x + floorAt true 1 0 (p.anchor - 158) ≤ 2 ^ 159 - 1) ∧
    (let ps : List (FV × FV) := [(.fin false 1 0, .fin true 1 0)]
     0 < 1 ∧ ps.length ≤ 1 ∧ (∀ p ∈ ps, breaksBound 8 p.1 = false ∧ breaksBound 8 p.2 = false)) := by decide

set_option Elab.async false in
/-- SampleLengthsMakeACode and CodedSegmentsExpandToThemselves: a sample, and a table of 8 bits for every byte. -/
theorem witness_codes :
    ([7] : List Byte) ≠ [] ∧ [List.replicate 256 8].length = planesOf 1 ∧
    (∀ t ∈ [List.replicate 256 8], t.length = 256 ∧ (∀ l ∈ t, 1 ≤ l ∧ l ≤ 12) ∧ (t.map (fun l => 2 ^ (12 - l))).foldl (· + ·) 0 ≤ 4096) := by decide +kernel

/-- The hub with one guarded row, whose channels of the listed partitions are away. -/
def guarding (down : List Nat) : State :=
  { upF F.HUB_POOL_SPLIT_guard_rows 1 with
    ras := { up.ras with parts := (List.range 12).map (fun p => (p, { Partition.cold with state := if down.contains p then PartState.inReset else .up })) } }

/-- ErasedBlocksAreRebuilt: a guarded line with its own block erased, two blocks away and four. -/
theorem witness_guarded :
    (farSlot (guarding []) farBase).isSome = true ∧
    (match farSlot (guarding [1]) farBase with
      | some f => f.guarded && ownErased (guarding [1]) f && decide (erasedCount (guarding [1]) f.frame ≤ 2)
      | none => false) = true ∧
    (match farSlot (guarding [1, 2]) farBase with
      | some f => f.guarded && ownErased (guarding [1, 2]) f && decide (3 ≤ erasedCount (guarding [1, 2]) f.frame)
      | none => false) = true := by decide

/-- ParityFollowsDeltas: two blocks of a stripe. -/
theorem witness_deltas : 0 < (zeroBytes 22).length ∧ 21 < (zeroBytes 22).length ∧ (0 : Nat) ≠ 21 := by decide

/-! ### What every step keeps -/

/-- EveryStepKeepsPagesSettled: a settled state and a step from it. -/
theorem witness_settled : State.reset.Settled ∧ ∃ t : State, step State.reset = .next t := ⟨by unfold State.Settled; decide, _, rfl⟩

/-- StepRunsFrontCommand: an empty queue. -/
theorem witness_empty_queue : State.reset.pending = [] := rfl

/-! ### Commands that are not well formed -/

/-- Ring frames and beats have at most 12 bytes; a handle has 13 bits. -/
theorem test_ill_formed_tick :
    (Instr.tickFrame (zeroBytes 13)).wellFormed = false ∧ (Instr.ringReturn (some (zeroBytes 13))).wellFormed = false ∧
      (Instr.admGoWithdraw 8192).wellFormed = false ∧ (Instr.admGoWithdraw 8191).wellFormed = true := by decide

/-- Cores, contexts, engines, clusters, partitions, objects. -/
theorem test_ill_formed_units :
    (Instr.nop 384).wellFormed = false ∧ (Instr.syncAnswer 0 64).wellFormed = false ∧ (Instr.commandComplete 0 0 0).wellFormed = false ∧
      (Instr.commandComplete 0 5 0).wellFormed = false ∧ (Instr.commandComplete 383 4 63).wellFormed = true ∧ (Instr.seBmcFlush 24).wellFormed = false ∧
      (Instr.partitionReset 12).wellFormed = false ∧ (Instr.syncStateRead 73728).wellFormed = false ∧ (Instr.heartbeatLoss 11).wellFormed = true := by decide

/-- Dies, ports, links, queues, hubs, channels, lands, PLLs, groups, units with spare rows. -/
theorem test_ill_formed_hub :
    (Instr.sweep 2).wellFormed = false ∧ (Instr.probeSend 48).wellFormed = false ∧ (Instr.perst 8).wellFormed = false ∧
      (Instr.hostLinkL0Exit 16).wellFormed = false ∧ (Instr.queueNop 1024).wellFormed = false ∧ (Instr.hubLost 1024).wellFormed = false ∧
      (Instr.channelRetire 24).wellFormed = false ∧ (Instr.functionSwitch 24).wellFormed = false ∧ (Instr.pllLockLost 17).wellFormed = false ∧
      (Instr.intEvent 64).wellFormed = false ∧ (Instr.rowSpare 31).wellFormed = false ∧ (Instr.rowSpare 44).wellFormed = false ∧
      (Instr.rowSpare 43).wellFormed = true := by decide

/-- Widths and lengths of operands. -/
theorem test_ill_formed_operands :
    (Instr.hostLinkUp 0 17 0 false false).wellFormed = false ∧ (Instr.hostLinkUp 0 0 0 false false).wellFormed = false ∧
      (Instr.queueFetch 0 (zeroBytes 63)).wellFormed = false ∧ (Instr.params 0 [1, 2, 3, 4, 5]).wellFormed = false ∧
      (Instr.retrainDone 0 15 0 [0, 0, 0, 0, 0, 65536]).wellFormed = false ∧ (Instr.keyImport 0 1 false (zeroBytes 95)).wellFormed = false ∧
      (Instr.powerReport 12000 0 (List.replicate 11 0)).wellFormed = false ∧ (Instr.write 0 0 (2 ^ 64)).wellFormed = false ∧
      (Instr.read (2 ^ 17) 0).wellFormed = false := by decide

/-- Lists of units without repeats; temperatures of 12 signed bits. -/
theorem test_ill_formed_lists :
    (Instr.coldStart [1, 1] []).wellFormed = false ∧ (Instr.coldStart [] [24]).wellFormed = false ∧ (Instr.frameRetire [5, 5]).wellFormed = false ∧
      (Instr.warmReset [12]).wellFormed = false ∧ (Instr.sensorRead (List.replicate 12 2048) (List.replicate 12 0) [0, 0, 0, 0]).wellFormed = false ∧
      (Instr.sensorRead (List.replicate 12 2047) (List.replicate 12 (-2048)) [0, 0, 0, 0]).wellFormed = true := by decide

/-- Packets, flits, requests and envelopes with a field too wide. -/
theorem test_ill_formed_messages :
    (Instr.fence (pkt 64 5 0 0)).wellFormed = false ∧ (Instr.fence (pktOf ptFence 5 0 0 (zeroBytes 15))).wellFormed = false ∧
      (Instr.fence (pkt ptFence 4096 0 0)).wellFormed = false ∧ (Instr.fence (pkt ptFence 4095 0 7)).wellFormed = true ∧
      (Instr.dataFlit 0 { flit 0 0 0 0 with channel := 8 }).wellFormed = false ∧
      (Instr.dataFlit 0 { flit 0 0 0 0 with units := List.replicate 16 0 }).wellFormed = false ∧
      (Instr.syncopWait { req 0 0 with obj := 73728 }).wellFormed = false ∧
      (Instr.syncopWait { req 0 0 with who := .thread 0 0 32 0 }).wellFormed = false ∧ (Instr.syncopWait (req 0 0)).wellFormed = true ∧
      (Instr.rds { cohReq with line := 2 ^ 51 }).wellFormed = false ∧ (Instr.envelope 0 5 (.grant 65536 0) true).wellFormed = false := by decide

/-! ### What the spec works out -/

/-- The six pairs of Table 4.16. -/
def examplePairs : List (FV × FV) :=
  [(.fin false 4096 0, .fin false 4096 0), (.fin false 1 0, .fin false 1 0), (.fin false 4096 0, .fin true 4096 0), (.fin false 1 0, .fin false 1 0),
    (.fin false 1 (-70), .fin true 1 (-70)), (.fin false 3 0, .fin false 1 (-1))]

/-- The accumulator of a list of pairs from the anchor 28. -/
def exampleSum (ps : List (FV × FV)) : Partial := cellExact (Partial.zero 28) (ps.map Prod.fst) (ps.map Prod.snd)

set_option Elab.async false in
/-- Table 4.17: one TE, and two pieces added by PADD. -/
theorem test_exact_sum :
    (exampleSum examplePairs).x = 7 * 2 ^ 129 - 1 ∧ (exampleSum (examplePairs.take 3)).x = 2 ^ 130 ∧
      (exampleSum (examplePairs.drop 3)).x = 5 * 2 ^ 129 - 1 ∧
      (exampleSum (examplePairs.take 3)).add (exampleSum (examplePairs.drop 3)) = exampleSum examplePairs := by decide +kernel

/-- The E4M3 row of Table 4.1. -/
abbrev e4m3 : Fmt := ⟨8, 4, 3, 7, .e4m3, false⟩

set_option Elab.async false in
/-- Table 5.5: expansion of a DLT2 block over E4M3 bases, scale code 0x7B. -/
theorem test_delta_expansion :
    (expandWeight e4m3 0 (e4m3.decode 0x38) (deltaValue 2 1) 0x7B).1 = e4m3.decode 0x38 ∧
      (expandWeight e4m3 0 (e4m3.decode 0x30) (deltaValue 2 3) 0x7B).1 = e4m3.decode 0x2E ∧
      (expandWeight e4m3 0 (e4m3.decode 0x7E) (deltaValue 2 3) 0x7B).1 = e4m3.decode 0x7E ∧
      (expandWeight e4m3 0 (e4m3.decode 0xA8) (deltaValue 2 0) 0x7B) = (e4m3.decode 0xA8, 0) := by decide +kernel

set_option Elab.async false in
/-- The worked example of ch. 9: the slot of x = 104 MiB + 0x1A_BCDE with three guarded rows. -/
theorem test_far_decode :
    (farDecode (upF F.HUB_POOL_SPLIT_guard_rows 3) (104 * 2 ^ 20 + 0x1ABCDE)).map (fun f => (f.frame, f.q, f.channel, f.block, f.offset)) =
      some (2, 4, 13, 11, 0x70CDE) := by decide +kernel

set_option Elab.async false in
/-- The worked example of ch. 15: D6 and D7 rebuilt from P and Q over zeros. -/
theorem test_rebuild :
    rebuildBlock 6 [6, 7] (some 0x04) (some 0xDD) (zeroBytes 22) = some 0x05 ∧ rebuildBlock 7 [6, 7] (some 0x04) (some 0xDD) (zeroBytes 22) = some 0x01 := by
  decide +kernel

/-- The worked example of ch. 6: the stock L2 INT8 kernel. -/
theorem test_stock_kernel : stockAt 1 0 = 0x01000011 ∧ stockAt 1 1 = 0x20 ∧ stockAt 1 2 = 0x03 := by decide

/-- Right after reset the hub is not owned: a register operation is refused and counted. -/
theorem test_refused_before_owner :
    (match exec (.read 4 0x110) { State.reset with henyen := { Henyen.reset with running := [true, false] } } with
      | .next t => getF t F.HEN_MCTP_refused 0
      | _ => 0) = 1 := by decide

/-- A step with a command in front runs it and drops it from the queue. -/
theorem test_step_takes_the_front :
    (match step { up with pending := [.vioChange false, .peakClear 0] } with
      | .next t => (t.pending, t.pins.vio)
      | _ => ([], true)) = ([.peakClear 0], false) := by decide

set_option Elab.async false in
/-- An empty queue: half a nanosecond passes. -/
theorem test_time_passes : (match step up with | .next t => t.now | _ => 0) = 1 := by decide +kernel

/-! ### Errors of the silicon (Table 15.2) -/

/-- A plain line that its code does not correct is poison; a word of S-space stays poisoned until it is written. -/
theorem test_uncorrected_data :
    lineDead (detect mem (.dramLost 0)) 0 = true ∧ lineDead (detect mem (.dramOne 0 3)) 0 = false ∧
      (detect mem (.scratch false 5)).ras.poisonS = [(5, ())] := by decide

/-- The third residue check within a millisecond fences its core; one that failed before that has left the count. -/
theorem test_third_check_fences :
    let s (now : Nat) := { holding aThread 1 now (taken 0x11 false) with ras := { up.ras with checks := [(0, 0), (0, 1000000)] } }
    (coreOf (detect (s 1999999) (.residue 0 1)) 0).fenced = true ∧
      (coreOf (detect (s 2000000) (.residue 0 1)) 0).fenced = false := by decide

/-- A result whose entry has failed keeps its key and answers nothing. -/
theorem test_dead_result :
    resultDead (detect (shared [{ agent := 5, tag := 3, packet := pkt ptAtomRes 0 3 0, entered := 0, dead := false }]) (.result 0 5 3)) 0 5 3 = true := by
  decide

/-- R133: the state word of an abandoned lock keeps its former holder's bits below 31, with bit 31 clear. -/
theorem test_abandoned_lock :
    holderField { SyncObj.empty with kind := .lock, abandoned := true, former := some (.thread 0 1 2 3) } = 2179 := by decide

end Sys2Proof.Tests
end

section
/-! PROOF. WATCH, DEADLINE and CLOSE in their order in the tick (ch. 2). -/

namespace Sys2Proof.Machine

variable {s : State}

@[simp] theorem updTick_tick (f : TickUnit → TickUnit) : (updTick s f).tick = f s.tick := rfl

theorem reached_iff {ns : Nat} : reached s ns = true ↔ 2 * ns ≤ s.tick.phase := decide_eq_true_iff

/-! ### The commands: each is its phase, and then the aggregator follows -/

theorem exec_watch (s : State) : exec .watch s = .next (settle (watchTick s)) := rfl

theorem exec_deadline (s : State) : exec .deadline s = .next (settle (deadlineTick s)) := rfl

theorem exec_close (s : State) : exec .close s = .next (settle (closeTick s)) := rfl

/-! ### WATCH (R69, R86) -/

theorem watchTick_of_stage_ne_zero (h : s.tick.stage ≠ 0) : watchTick s = s := if_neg fun hc => h hc.1

/-- R69: with A at or above D no run is sampled and none switches. -/
theorem watchTick_of_deadlineNs_le (h : deadlineNs s ≤ watchNs s) : watchTick s = s :=
  if_neg fun ⟨_, hlt, _⟩ => absurd hlt (Nat.not_lt.mpr h)

theorem watchTick_stage (h0 : s.tick.stage = 0) (hlt : watchNs s < deadlineNs s) (hph : 2 * watchNs s ≤ s.tick.phase) :
    (watchTick s).tick.stage = 2 := by
  rw [watchTick, if_pos ⟨h0, hlt, reached_iff.mpr hph⟩, updTick_tick]

/-! ### DEADLINE (R69, R89) -/

/-- The streams whose runs D finds incomplete. -/
def missedStreams (s : State) : List Nat := (s.tick.streams.filter (fun e => misses e.2)).map Prod.fst

/-- The runs of the missed streams stall, the stage becomes 3, and a miss is an interrupt. -/
def stallMissed (s : State) : State :=
  let b := updTick ((missedStreams s).foldl stallRun s) (fun t => { t with stage := 3 })
  if (missedStreams s).isEmpty then b else raise b tickPage 5

theorem stallMissed_stage (s : State) : (stallMissed s).tick.stage = 3 := by
  unfold stallMissed
  split
  · rw [updTick_tick]
  · rw [raise_tick, updTick_tick]

/-- DEADLINE is due after WATCH, or straight after OPEN where WATCH coincides with it (R69). -/
theorem deadlineTick_of_due (h : s.tick.stage = 2 ∨ s.tick.stage = 0 ∧ deadlineNs s ≤ watchNs s)
    (hph : 2 * deadlineNs s ≤ s.tick.phase) : deadlineTick s = stallMissed s :=
  if_pos ⟨h, reached_iff.mpr hph⟩

theorem deadlineTick_of_closed (h : s.tick.stage = 4) : deadlineTick s = s :=
  if_neg fun hc => by omega

/-! ### CLOSE (R71) -/

theorem closeTick_of_stage_ne_three (h : s.tick.stage ≠ 3) : closeTick s = s := if_neg fun hc => h hc.1

theorem closeTick_stage (h3 : s.tick.stage = 3) (hph : 2 * (period s - 1000) ≤ s.tick.phase) : (closeTick s).tick.stage = 4 := by
  rw [closeTick, if_pos ⟨h3, reached_iff.mpr hph⟩, updTick_tick]

/-! ### The statement -/

/-- Settles O3: each phase's stage lets that phase alone go on, and with A at or above D the deadline is due from the stage of OPEN. -/
theorem phasesFollowTheTick : Obligations.PhasesFollowTheTick := by
  refine ⟨fun s h0 hlt hph => ?watch, fun s h2 hph => ?deadline, fun s h3 hph => ?close, fun s hle => ⟨?noSwitch, fun h0 hph => ?atD⟩,
    fun s h4 => ⟨?watchClosed, ?deadlineClosed, ?closeClosed⟩⟩
  case watch => exact ⟨_, exec_watch s, by rw [settle_tick, watchTick_stage h0 hlt hph]⟩
  case deadline =>
    exact ⟨_, exec_deadline s, by rw [settle_tick, deadlineTick_of_due (.inl h2) hph, stallMissed_stage]⟩
  case close => exact ⟨_, exec_close s, by rw [settle_tick, closeTick_stage h3 hph]⟩
  case noSwitch => rw [exec_watch, watchTick_of_deadlineNs_le hle]
  case atD => rw [exec_deadline, deadlineTick_of_due (.inr ⟨h0, hle⟩) hph]; rfl
  case watchClosed => rw [exec_watch, watchTick_of_stage_ne_zero (by omega)]
  case deadlineClosed => rw [exec_deadline, deadlineTick_of_closed h4]
  case closeClosed => rw [exec_close, closeTick_of_stage_ne_three (by omega)]

end Sys2Proof.Machine
end

section
/-! PROOF. Synchronisation operations of this hub at their objects (ch. 3). -/

namespace Sys2Proof.Machine

variable {s t : State} {k : Nat} {op : SyncOpKind} {r : SyncReq} {rest : List (SyncOpKind × SyncReq)}

/-! ### The commands: each brings its operation to its home, and then the aggregator follows -/

/-- The command by which an operation reaches its home. -/
def arrival (op : SyncOpKind) (r : SyncReq) : Instr :=
  match op with
  | .wait => .syncopWait r
  | .signal => .syncopSignal r
  | .sinit => .syncopSinit r
  | .sample => .syncopSample r
  | .cancel => .syncopCancel r
  | .abandon => .syncopAbandon r

theorem exec_arrival (op : SyncOpKind) (r : SyncReq) (s : State) : exec (arrival op r) s = .next (settle (syncop s op r)) := by
  cases op <;> rfl

/-! ### At the home (R122, R132, R536) -/

/-- An object that exists, in a partition that is up, serves a requester whose context may use it. -/
theorem atHome_of_allowed {name : Nat} (hobj : ¬(11 < objPart name ∨ 6143 < objIndex name)) (hup : partUp s (objPart name) = true)
    (hok : syncAllowed s r.obj r = true) : atHome s op name r = applySync s op r.obj r := by
  rw [atHome, if_neg hobj, hup, hok]
  rfl

theorem ReachesObject.packet_eq_none (h : ReachesObject s op r rest) : r.packet = none := h.1

/-- An operation that reaches its object leaves its way there and is applied: the checks of its home read nothing of that way. -/
theorem syncop_of_reaches (h : ReachesObject s op r rest) : syncop s op r = applySync (afterReach s rest) op r.obj r := by
  obtain ⟨hlocal, holdest, hobj, hup, hok⟩ := h
  have hhome : atHome (afterReach s rest) op (objName s r.obj) r = applySync (afterReach s rest) op r.obj r :=
    atHome_of_allowed hobj hup hok
  simp only [syncop, hlocal, holdest, if_true]
  exact hhome

theorem exec_arrival_of_reaches (h : ReachesObject s op r rest) (happlied : applySync (afterReach s rest) op r.obj r = t) :
    exec (arrival op r) s = .next (settle t) := by
  rw [exec_arrival, syncop_of_reaches h, happlied]

/-! ### WAIT (Table 3.7) -/

theorem applyWait_of_semaphore (hkind : (syncObj s k).kind = .semaphore) (hfirst : (syncObj s k).waiters = [])
    (hunits : r.imm ≤ (syncObj s k).count) :
    applyWait s k r = answerSync (setObj s k { syncObj s k with count := (syncObj s k).count - r.imm }) k r.who r.tag stOk := by
  simp [applyWait, hkind, hfirst, hunits]

theorem applyWait_of_free_lock (hkind : (syncObj s k).kind = .lock) (hfree : (syncObj s k).holder = none)
    (hfirst : (syncObj s k).waiters = []) (hheld : heldBy s r.who < 8) :
    applyWait s k r =
      answerSync (setObj s k ((syncObj s k).take r.who)) k r.who r.tag (if (syncObj s k).abandoned then stAbandoned else stOk) := by
  simp [applyWait, hkind, hfree, hfirst, Nat.not_le.mpr hheld]

theorem applyWait_of_set_event (hkind : (syncObj s k).kind = .event) (hset : (syncObj s k).isSet = true)
    (hfirst : (syncObj s k).waiters = []) : applyWait s k r = answerSync s k r.who r.tag stOk := by
  simp [applyWait, hkind, hset, hfirst]

/-! ### SIGNAL (Table 3.7) -/

/-- Units that leave the count below 2^32 neither saturate it nor set overflow. -/
theorem postUnits_of_lt {n : Nat} (hfits : (syncObj s k).count + n < 2 ^ 32) :
    postUnits s k n = regrant (setObj s k { syncObj s k with count := (syncObj s k).count + n }) k := by
  have hmin : min (2 ^ 32 - 1) ((syncObj s k).count + n) = (syncObj s k).count + n := by omega
  have hpassed : decide (2 ^ 32 ≤ (syncObj s k).count + n) = false := decide_eq_false (Nat.not_le.mpr hfits)
  simp only [postUnits, hmin, hpassed, Bool.or_false]
  rfl

theorem applySignal_of_semaphore (hkind : (syncObj s k).kind = .semaphore) (hfits : (syncObj s k).count + r.imm < 2 ^ 32) :
    applySignal s k r =
      answerSync (regrant (setObj s k { syncObj s k with count := (syncObj s k).count + r.imm }) k) k r.who r.tag stOk := by
  rw [← postUnits_of_lt hfits]
  simp [applySignal, applySignalTo, hkind]

theorem applySignal_of_lock_of_not_holder (hkind : (syncObj s k).kind = .lock) (hother : (syncObj s k).holder ≠ some r.who) :
    applySignal s k r = answerSync s k r.who r.tag stNotHolder := by
  simp [applySignal, applySignalTo, hkind, hother]

theorem applySignal_clears_event (hkind : (syncObj s k).kind = .event) (hclear : r.cond = 1) :
    applySignal s k r = answerSync (setObj s k { syncObj s k with isSet := false }) k r.who r.tag stOk := by
  simp [applySignal, applySignalTo, hkind, hclear]

/-! ### SINIT (Table 3.7, R129) -/

/-- The object that SINIT leaves: of the kind that its code names, with the value of that kind and all else clear. -/
def initialObj (kind imm : Nat) : SyncObj :=
  { SyncObj.empty with
    kind := kindOf kind
    count := if kind = 0 then imm % 2 ^ 32 else 0
    parties := if kind = 1 then imm else 0
    isSet := kind == 3 && imm == 1 }

theorem initialObj_isSet (imm : Nat) : (initialObj 3 imm).isSet = decide (imm = 1) := rfl

theorem applySinit_of_waiters (hbusy : (syncObj s k).waiters ≠ []) : applySinit s k r = answerSync s k r.who r.tag stBusy := by
  simp [applySinit, applySinitTo, hbusy]

/-- Without waiters, a value that Table 3.7 allows makes the object anew. -/
theorem applySinit_of_free (hfree : (syncObj s k).waiters = []) (hparties : r.cond = 1 → 0 < r.imm ∧ r.imm ≤ 65535)
    (hbit : r.cond = 3 → r.imm ≤ 1) :
    applySinit s k r = answerSync (setObj s k (initialObj r.cond r.imm)) k r.who r.tag stOk := by
  have hvalue : ¬((r.cond = 1 ∧ (r.imm = 0 ∨ 65535 < r.imm)) ∨ (r.cond = 3 ∧ 1 < r.imm)) := by omega
  simp only [applySinit, applySinitTo, hfree, List.isEmpty_nil, Bool.not_true, Bool.false_eq_true, if_false, if_neg hvalue]
  rfl

/-! ### CANCEL and ABANDON (R127, R135) -/

/-- A cancel of this hub names the wait by its own tag (R127). -/
theorem applyCancel_of_waiter (hlocal : r.packet = none)
    (hqueued : (syncObj s k).waiters.any (fun w => w.isOf r.who r.tag) = true) :
    applyCancel s k r = answerSync (removeWaiter s k r.who r.tag) k r.who r.tag stTimeout := by
  have htag : cancelTag r = r.tag := by rw [cancelTag, hlocal]
  rw [applyCancel, htag, if_pos hqueued]

theorem applyAbandon_of_holder {who : Requester} (hkind : (syncObj s k).kind = .lock) (hholder : (syncObj s k).holder = some who) :
    applyAbandon s k who = regrant (setObj s k { syncObj s k with holder := none, former := some who, abandoned := true }) k := by
  simp [applyAbandon, abandonLock, hkind, hholder]

/-! ### The statement -/

/-- Settles O11: an operation that reaches its object is applied there by the object's kind, on the state it no longer is on its way
in, whose objects and held lists are those of the state before. -/
theorem operationsAtTheirObject : Obligations.OperationsAtTheirObject := by
  intro s r rest
  refine ⟨fun h hkind hfirst hunits => ?waitSemaphore, fun h hkind hfree hfirst hheld => ?waitLock,
    fun h hkind hset hfirst => ?waitEvent, fun h hkind hclear => ?signalEvent, fun h hkind hother => ?signalLock,
    fun h hkind _ hfits => ?signalSemaphore, fun h hbusy => ?sinitBusy,
    fun h hfree _ hparties hbit => ⟨initialObj r.cond r.imm, ?sinitFree, rfl, rfl, rfl, rfl, rfl, rfl, rfl, ?count, ?parties, ?isSet⟩,
    fun h => ?sample, fun h hqueued => ?cancel, fun h hkind hholder => ?abandon⟩
  case waitSemaphore => exact exec_arrival_of_reaches h (applyWait_of_semaphore hkind hfirst hunits)
  case waitLock => exact exec_arrival_of_reaches h (applyWait_of_free_lock hkind hfree hfirst hheld)
  case waitEvent => exact exec_arrival_of_reaches h (applyWait_of_set_event hkind hset hfirst)
  case signalEvent => exact exec_arrival_of_reaches h (applySignal_clears_event hkind hclear)
  case signalLock => exact exec_arrival_of_reaches h (applySignal_of_lock_of_not_holder hkind hother)
  case signalSemaphore => exact exec_arrival_of_reaches h (applySignal_of_semaphore hkind hfits)
  case sinitBusy => exact exec_arrival_of_reaches h (applySinit_of_waiters hbusy)
  case sinitFree => exact exec_arrival_of_reaches h (applySinit_of_free hfree hparties hbit)
  case count => exact fun hcode => if_pos hcode
  case parties => exact fun hcode => if_pos hcode
  case isSet => exact fun hcode => hcode ▸ initialObj_isSet r.imm
  case sample => exact exec_arrival_of_reaches h rfl
  case cancel => exact exec_arrival_of_reaches h (applyCancel_of_waiter h.packet_eq_none hqueued)
  case abandon => exact exec_arrival_of_reaches h (applyAbandon_of_holder hkind hholder)

end Sys2Proof.Machine
end

section
/-! PROOF. Exact sums: saturation at 160 bits, and their independence of order and split within the bounds (ch. 4). -/

namespace Sys2Proof.Machine

variable {a : Int} {B : Nat} {us ts : List FV} {t : FV}

/-! ### Saturation (R152) -/

theorem satX_of_gt {z : Int} (h : z > 2 ^ 159 - 1) : satX z = (2 ^ 159 - 1, true) := if_pos h

theorem satX_of_lt {z : Int} (h : z < -(2 ^ 159)) : satX z = (-(2 ^ 159), true) := by
  rw [satX, if_neg (by omega), if_pos h]

theorem satX_of_fits {z : Int} (hlo : -(2 ^ 159) ≤ z) (hhi : z ≤ 2 ^ 159 - 1) : satX z = (z, false) := by
  rw [satX, if_neg (Int.not_lt.mpr hhi), if_neg (Int.not_lt.mpr hlo)]

theorem addTerm_fin {p : Partial} {n : Bool} {m : Nat} {e x : Int} {b : Bool}
    (h : satX (p.x + floorAt n m e (p.anchor - 158)) = (x, b)) : p.addTerm (.fin n m e) = { p with x := x, sat := p.sat || b } := by
  simp only [Partial.addTerm, h]

/-! ### One product within the declared bounds (R150, R151) -/

@[simp] theorem floorAt_zero (n : Bool) (e f : Int) : floorAt n 0 e f = 0 := by simp [floorAt]

/-- R153: truncation keeps a number below 2^(f + k) in magnitude within k bits and a sign, for the lower end is a multiple of 2^f. -/
theorem floorAt_mem {m i k : Nat} (n : Bool) {e f : Int} (hm : m < 2 ^ i) (hexp : e + i ≤ f + k) :
    -(2 ^ k) ≤ floorAt n m e f ∧ floorAt n m e f < 2 ^ k := by
  have hmz : (m : Int) < 2 ^ i := by exact_mod_cast hm
  have hz : -(2 ^ i) < (if n then -(m : Int) else m) ∧ (if n then -(m : Int) else m) < 2 ^ i := by
    split <;> omega
  simp only [floorAt]
  generalize (if n then -(m : Int) else m) = z at hz
  obtain ⟨hlo, hhi⟩ := hz
  split
  case isTrue hfe =>
    have hd : (0 : Int) < 2 ^ (e - f).toNat := by positivity
    have hpow : (2 : Int) ^ i * 2 ^ (e - f).toNat ≤ 2 ^ k := by
      rw [← pow_add]
      exact pow_le_pow_right₀ (by decide) (by omega)
    constructor <;> nlinarith only [hlo, hhi, hd, hpow]
  case isFalse hfe =>
    have hd : (0 : Int) < 2 ^ (f - e).toNat := by positivity
    have hpow : (2 : Int) ^ i ≤ 2 ^ k * 2 ^ (f - e).toNat := by
      rw [← pow_add]
      exact pow_le_pow_right₀ (by decide) (by omega)
    exact ⟨(Int.le_ediv_iff_mul_le hd).mpr (by linarith), Int.ediv_lt_of_lt_mul hd (by linarith)⟩

/-- What a term adds to X when nothing saturates: its truncation, or nothing when it is not finite. -/
def termInt (a : Int) : FV → Int
  | .fin n m e => floorAt n m e (a - 158)
  | _ => 0

/-- A term that is finite or a NaN, and whose truncation lies from -B to below B. -/
structure TermWithin (a : Int) (B : Nat) (t : FV) : Prop where
  ne_inf : ∀ n, t ≠ .inf n
  range : -(B : Int) ≤ termInt a t ∧ termInt a t < B

theorem termWithin_nan (hB : 0 < B) : TermWithin a B .nan :=
  ⟨nofun, by simpa [termInt] using hB⟩

theorem exponent_le_of_breaksBound {eb e : Int} {n : Bool} {m : Nat} (h : breaksBound eb (.fin n m e) = false) (hm : m ≠ 0) :
    e + m.log2 ≤ eb := by
  have htop : topExp m e < eb + 1 := by simpa [breaksBound, hm] using h
  unfold topExp at htop
  omega

/-- R153: a product of operands within their bounds lies below 2^(ea + eb + 2), which is 159 - c bits above the floor of the anchor
ea + eb + 1 + c. -/
theorem mul_within {ea eb : Int} {c : Nat} {u v : FV} (hc : c ≤ 159) (hu : breaksBound ea u = false) (hv : breaksBound eb v = false) :
    TermWithin (ea + eb + 1 + c) (2 ^ (159 - c)) (u.mul v) := by
  have hB : 0 < 2 ^ (159 - c) := Nat.two_pow_pos _
  match u, v with
  | .inf _, _ | _, .inf _ => simp [breaksBound] at hu hv
  | .nan, .nan | .nan, .fin .. | .fin .., .nan => exact termWithin_nan hB
  | .fin n m e, .fin n' m' e' =>
    refine ⟨nofun, ?_⟩
    simp only [FV.mul, termInt, Nat.cast_pow, Nat.cast_ofNat]
    by_cases hzero : m = 0 ∨ m' = 0
    case pos => simp [Nat.mul_eq_zero.mpr hzero]
    case neg =>
      obtain ⟨hm, hm'⟩ := not_or.mp hzero
      have hlt : m * m' < 2 ^ (m.log2 + 1 + (m'.log2 + 1)) := by
        rw [pow_add]
        exact Nat.mul_lt_mul'' Nat.lt_log2_self Nat.lt_log2_self
      have he := exponent_le_of_breaksBound hu hm
      have he' := exponent_le_of_breaksBound hv hm'
      exact floorAt_mem _ hlt (by omega)

/-! ### Sums that do not saturate (R152 to R154) -/

/-- The record of the terms added as unbounded integers; among terms that are finite or NaNs, only a NaN tags it. -/
def exactSum (a : Int) (ts : List FV) : Partial :=
  ⟨(ts.map (termInt a)).sum, a, if .nan ∈ ts then .nan else .none, false, false⟩

theorem exactSum_perm (h : us.Perm ts) : exactSum a us = exactSum a ts := by
  simp only [exactSum, (h.map (termInt a)).sum_eq, h.mem_iff]

/-- So many terms, each so small, that no sum of them leaves 160 bits. -/
structure FitsX (a : Int) (B : Nat) (ts : List FV) : Prop where
  within : ∀ t ∈ ts, TermWithin a B t
  room : ts.length * B ≤ 2 ^ 159

theorem FitsX.of_append_left (h : FitsX a B (us ++ ts)) : FitsX a B us :=
  ⟨fun t ht => h.within t (List.mem_append_left ts ht),
    (Nat.mul_le_mul_right B (List.sublist_append_left us ts).length_le).trans h.room⟩

/-- A sum of terms that fit is an X of 160 bits: the upper end keeps 1 for each term. -/
theorem FitsX.satX_sum (h : FitsX a B ts) : satX (ts.map (termInt a)).sum = ((ts.map (termInt a)).sum, false) := by
  have hlo := List.card_nsmul_le_sum (ts.map (termInt a)) (-B) (List.forall_mem_map.mpr fun t ht => (h.within t ht).range.1)
  have hhi := List.sum_le_card_nsmul (ts.map (termInt a)) (B - 1)
    (List.forall_mem_map.mpr fun t ht => Int.le_sub_one_of_lt (h.within t ht).range.2)
  have hroom : (ts.length : Int) * B ≤ 2 ^ 159 := by exact_mod_cast h.room
  simp only [List.length_map, nsmul_eq_mul, mul_neg, mul_sub, mul_one] at hlo hhi
  cases ts with
  | nil => rfl
  | cons t ts =>
    simp only [List.length_cons] at hlo hhi hroom
    exact satX_of_fits (by omega) (by push_cast at *; omega)

theorem exactSum_addTerm (h : FitsX a B (us ++ [t])) : (exactSum a us).addTerm t = exactSum a (us ++ [t]) := by
  match t with
  | .inf n => exact absurd rfl ((h.within (.inf n) (by simp)).ne_inf n)
  | .nan => by_cases hu : .nan ∈ us <;> simp [exactSum, Partial.addTerm, termInt, Tag.combine, hu]
  | .fin n m e =>
    have hsat := h.satX_sum
    simp only [List.map_append, List.sum_append, List.map_cons, List.map_nil, List.sum_singleton, termInt] at hsat
    rw [addTerm_fin hsat]
    simp [exactSum, termInt]

/-- R163: records of one anchor add to the record of all their terms. -/
theorem exactSum_add (h : FitsX a B (us ++ ts)) : (exactSum a us).add (exactSum a ts) = exactSum a (us ++ ts) := by
  have hsat := h.satX_sum
  rw [List.map_append, List.sum_append] at hsat
  by_cases hu : .nan ∈ us <;> by_cases ht : .nan ∈ ts <;> simp [exactSum, Partial.add, hsat, hu, ht, Tag.combine]

theorem foldl_addTerm_exactSum (h : FitsX a B (us ++ ts)) : ts.foldl Partial.addTerm (exactSum a us) = exactSum a (us ++ ts) := by
  induction ts generalizing us with
  | nil => simp
  | cons t ts ih =>
    rw [List.append_cons] at h ⊢
    rw [List.foldl_cons, exactSum_addTerm h.of_append_left, ih h]

/-! ### Cells (R151 to R153) -/

/-- The products of the operand pairs of a cell. -/
def products (ps : List (FV × FV)) : List FV := ps.map fun p => p.1.mul p.2

theorem products_perm {ps qs : List (FV × FV)} (h : ps.Perm qs) : (products ps).Perm (products qs) := h.map _

theorem products_append (l r : List (FV × FV)) : products (l ++ r) = products l ++ products r := List.map_append

theorem cellExact_map (ps : List (FV × FV)) (start : Partial) :
    cellExact start (ps.map Prod.fst) (ps.map Prod.snd) = (products ps).foldl Partial.addTerm start := by
  induction ps generalizing start with
  | nil => rfl
  | cons p ps ih => exact ih _

/-- A cell whose products fit holds their exact sum: no partial sum saturates. -/
theorem cellExact_eq_exactSum {ps : List (FV × FV)} (h : FitsX a B (products ps)) :
    cellExact (Partial.zero a) (ps.map Prod.fst) (ps.map Prod.snd) = exactSum a (products ps) := by
  rw [cellExact_map]
  exact foldl_addTerm_exactSum (us := []) h

theorem le_two_pow_clog2 (n : Nat) : n ≤ 2 ^ clog2 n := by
  unfold clog2
  split
  case isTrue hn => simpa using hn
  case isFalse hn =>
    have hlog := Nat.lt_log2_self (n := n - 1)
    omega

theorem clog2_le {n k : Nat} (h : n ≤ 2 ^ k) : clog2 n ≤ k := by
  unfold clog2
  split
  case isTrue hn => exact Nat.zero_le k
  case isFalse hn => exact (Nat.log2_lt (by omega)).mpr (by omega)

/-- R153: at most ktot products of operands within their bounds fit in X under the derived anchor. -/
theorem fitsX_products {ea eb : Int} {ktot : Nat} {ps : List (FV × FV)} (hktot : ktot < 2 ^ 32) (hlen : ps.length ≤ ktot)
    (hb : ∀ p ∈ ps, breaksBound ea p.1 = false ∧ breaksBound eb p.2 = false) :
    FitsX (ea + eb + 1 + clog2 ktot) (2 ^ (159 - clog2 ktot)) (products ps) := by
  have hc : clog2 ktot ≤ 159 := (clog2_le hktot.le).trans (by decide)
  refine ⟨List.forall_mem_map.mpr fun p hp => mul_within hc (hb p hp).1 (hb p hp).2, ?_⟩
  calc (products ps).length * 2 ^ (159 - clog2 ktot)
    _ ≤ 2 ^ clog2 ktot * 2 ^ (159 - clog2 ktot) :=
        Nat.mul_le_mul_right _ (by simpa [products] using hlen.trans (le_two_pow_clog2 ktot))
    _ = 2 ^ 159 := by rw [← pow_add, Nat.add_sub_cancel' hc]

/-! ### The statement -/

/-- Settles O56: within the bounds every cell holds the exact sum of its products, which is the same in every order and adds over a
split. -/
theorem exactSumsIgnoreOrderAndSplit : Obligations.ExactSumsIgnoreOrderAndSplit := by
  refine ⟨fun p n m e => ⟨fun h => ?above, fun h => ?below, fun hlo hhi => ?inside⟩, fun ea eb ktot ps _ hktot hlen hb => ?cells⟩
  case above => rw [addTerm_fin (satX_of_gt h), Bool.or_true]
  case below => rw [addTerm_fin (satX_of_lt h), Bool.or_true]
  case inside => rw [addTerm_fin (satX_of_fits hlo hhi), Bool.or_false]
  case cells =>
    have hfits {qs : List (FV × FV)} (hsub : qs.Subperm ps) :=
      fitsX_products hktot (hsub.length_le.trans hlen) fun p hp => hb p (hsub.subset hp)
    intro cell
    have hcell {qs : List (FV × FV)} (hsub : qs.Subperm ps) : cell qs = exactSum _ (products qs) := cellExact_eq_exactSum (hfits hsub)
    have hps : cell ps = exactSum _ (products ps) := hcell (List.Perm.refl ps).subperm
    refine ⟨by rw [hps]; rfl, fun qs hperm => ?order, fun l r hsplit => ?split⟩
    case order => rw [hps, hcell hperm.symm.subperm, exactSum_perm (products_perm hperm.symm)]
    case split =>
      subst hsplit
      have hl := hcell (List.sublist_append_left l r).subperm
      have hr := hcell (List.sublist_append_right l r).subperm
      have hboth := hfits (List.Perm.refl (l ++ r)).subperm
      rw [products_append] at hps hboth
      exact ⟨by rw [hl]; rfl, by rw [hr]; rfl, by rw [hl, hr, hps, exactSum_add hboth]⟩

end Sys2Proof.Machine
end

section
/-! PROOF. Range checks of register fields: the value applied in place of an illegal one (ch. 16). -/

namespace Sys2Proof.Machine

/-! ### Legal values, and the nearest of a set of them (R569, R570) -/

/-- The values that a list of ranges admits. -/
def legalValues (rs : List (Nat × Nat)) : Set Nat := {x | ∃ r ∈ rs, r.1 ≤ x ∧ x ≤ r.2}

/-- What the scan of `nearest` holds after the values `L`: a value of `L` with its distance from `v`, no value of `L` nearer to `v`, the
lower of two equally near (R570). -/
structure IsNearest (v : Nat) (L : Set Nat) (best : Nat × Nat) : Prop where
  mem : best.2 ∈ L
  distance : best.1 = max v best.2 - min v best.2
  le : ∀ x ∈ L, best.1 ≤ max v x - min v x
  lower : ∀ x ∈ L, best.1 = max v x - min v x → best.2 ≤ x

variable {v : Nat} {L M : Set Nat} {a b : Nat × Nat} {rs : List (Nat × Nat)}

theorem legalValues_nil : legalValues [] = ∅ := by simp [legalValues]

theorem legalValues_cons (r : Nat × Nat) (rs : List (Nat × Nat)) : legalValues (r :: rs) = Set.Icc r.1 r.2 ∪ legalValues rs := by
  ext x; simp [legalValues]

/-! ### The scan over the ranges -/

/-- One range: below it its lower end, above it its upper end, inside it the value itself. -/
theorem nearIn_isNearest {r : Nat × Nat} (hr : r.1 ≤ r.2) : IsNearest v (Set.Icc r.1 r.2) (nearIn v r) := by
  unfold nearIn
  split_ifs with hbelow habove
  all_goals constructor <;> simp only [Set.mem_Icc] <;> omega

/-- Taking the later candidate only when it is strictly nearer keeps the lower of two equally near, as the later values are higher. -/
theorem IsNearest.union (ha : IsNearest v L a) (hb : IsNearest v M b) (hLM : ∀ x ∈ L, ∀ y ∈ M, x < y) :
    IsNearest v (L ∪ M) (if b.1 < a.1 then b else a) := by
  split_ifs with hnearer
  case pos =>
    have hL : ∀ x ∈ L, b.1 < max v x - min v x := fun x hx => hnearer.trans_le (ha.le x hx)
    exact ⟨.inr hb.mem, hb.distance, fun x hx => hx.elim (fun h => (hL x h).le) (hb.le x),
      fun x hx heq => hx.elim (fun h => absurd heq (hL x h).ne) (hb.lower x · heq)⟩
  case neg =>
    exact ⟨.inl ha.mem, ha.distance, fun x hx => hx.elim (ha.le x) fun h => (not_lt.mp hnearer).trans (hb.le x h),
      fun x hx heq => hx.elim (ha.lower x · heq) fun h => (hLM _ ha.mem x h).le⟩

/-- The scan over further ranges, each above what was seen before it. -/
theorem foldl_isNearest (ha : IsNearest v L a) (hle : ∀ r ∈ rs, r.1 ≤ r.2) (habove : ∀ x ∈ L, ∀ y ∈ legalValues rs, x < y)
    (hrise : rs.Pairwise fun p q => p.2 < q.1) :
    IsNearest v (L ∪ legalValues rs) (rs.foldl (fun a q => if (nearIn v q).1 < a.1 then nearIn v q else a) a) := by
  induction rs generalizing L a with
  | nil => simpa [legalValues_nil] using ha
  | cons q t ih =>
    obtain ⟨hq, ht⟩ := List.forall_mem_cons.mp hle
    obtain ⟨hqt, htt⟩ := List.pairwise_cons.mp hrise
    rw [legalValues_cons] at habove ⊢
    rw [← Set.union_assoc]
    refine ih (ha.union (nearIn_isNearest hq) fun x hx y hy => habove x hx y (.inl hy)) ht ?_ htt
    rintro x (hx | hx) y ⟨r, hr, hry, hyr⟩
    · exact habove x hx y (.inr ⟨r, hr, hry, hyr⟩)
    · exact (hx.2.trans_lt (hqt r hr)).trans_le hry

/-- `nearest` is the scan of all the ranges, begun at the first. -/
theorem nearest_isNearest (hne : rs ≠ []) (hle : ∀ r ∈ rs, r.1 ≤ r.2) (hrise : rs.Pairwise fun p q => p.2 < q.1) :
    ∃ d, IsNearest v (legalValues rs) (d, nearest v rs) := by
  obtain _ | ⟨r, t⟩ := rs
  · exact absurd rfl hne
  obtain ⟨hr, ht⟩ := List.forall_mem_cons.mp hle
  obtain ⟨hrt, htt⟩ := List.pairwise_cons.mp hrise
  rw [legalValues_cons]
  exact ⟨_, foldl_isNearest (nearIn_isNearest hr) ht
    (fun x hx y ⟨q, hq, hqy, _⟩ => (hx.2.trans_lt (hrt q hq)).trans_le hqy) htt⟩

/-! ### The statement -/

/-- Settles O46: the scan keeps the nearest value of the ranges seen so far, the lower of two equally near. -/
theorem clampsTakeTheNearestLegalValue : Obligations.ClampsTakeTheNearestLegalValue := by
  intro v rs hne hle hrise
  obtain ⟨d, hmem, hdistance, hnear, hlower⟩ := nearest_isNearest (v := v) hne hle hrise
  obtain rfl : d = max v (nearest v rs) - min v (nearest v rs) := hdistance
  exact ⟨hmem, fun r hr x hrx hxr => ⟨hnear x ⟨r, hr, hrx, hxr⟩, hlower x ⟨r, hr, hrx, hxr⟩⟩⟩

end Sys2Proof.Machine
end

section
/-! PROOF. The pending pages after every step (ch. 16). -/

namespace Sys2Proof.Machine

/-- Whatever a command does, the aggregator follows the pages at its end (R574). -/
theorem exec_eq_settle (i : Instr) (s : State) : ∃ u : State, exec i s = .next (settle u) := by
  cases i <;> exact ⟨_, rfl⟩

theorem exec_settled {i : Instr} {s t : State} (h : exec i s = .next t) : t.Settled := by
  obtain ⟨u, hu⟩ := exec_eq_settle i s
  obtain rfl : settle u = t := by simpa [hu] using h
  exact settle_settled u

theorem idle_settled (s : State) : (idle s).Settled := settle_settled _

/-- Settles O55: a command and half a nanosecond of time alike end with the aggregator following the pages. -/
theorem everyStepKeepsPagesSettled : Obligations.EveryStepKeepsPagesSettled := by
  intro s t _ h
  cases hpending : s.pending with
  | nil =>
    obtain rfl : idle s = t := by simpa [step, hpending] using h
    exact idle_settled s
  | cons c rest =>
    rw [step, hpending] at h
    exact exec_settled h

end Sys2Proof.Machine
end

section
/-! PROOF. P and Q of a stripe after a write to one of its data blocks (ch. 15). -/

namespace Sys2Proof.Machine

variable {α : Type} {a b c d : Byte} {ds : List Byte}

/-! ### Lists with an entry replaced -/

theorem setNth_eq_set (l : List α) (i : Nat) (x : α) : setNth l i x = l.set i x := by
  induction l generalizing i with
  | nil => rfl
  | cons _ _ ih => cases i with
    | zero => rfl
    | succ i => simp [setNth, ih]

theorem setNth_comm (l : List α) {i j : Nat} (x y : α) (h : i ≠ j) : setNth (setNth l i x) j y = setNth (setNth l j y) i x := by
  simp only [setNth_eq_set]
  exact List.set_comm x y h

theorem nth_eq_getElem (z : α) {l : List α} {i : Nat} (h : i < l.length) : nth z l i = l[i] := by
  simp [nth, h]

@[simp] theorem nth_cons_zero (z x : α) (l : List α) : nth z (x :: l) 0 = x := rfl

@[simp] theorem nth_cons_succ (z x : α) (l : List α) (i : Nat) : nth z (x :: l) (i + 1) = nth z l i := rfl

/-! ### Sums of GF(2^8) -/

/-- A term joined twice to a sum leaves it (R537: deltas are their own inverses). -/
theorem xor_xor_cancel_left (a b : Byte) : a ^^^ (a ^^^ b) = b := by rw [← BitVec.xor_assoc, BitVec.xor_self, BitVec.zero_xor]

theorem xor_xor_xor_comm (a b c d : Byte) : (a ^^^ b) ^^^ (c ^^^ d) = (a ^^^ c) ^^^ (b ^^^ d) := by
  rw [BitVec.xor_assoc, ← BitVec.xor_assoc b, BitVec.xor_comm b c, BitVec.xor_assoc c, ← BitVec.xor_assoc a]

theorem gfDouble_xor (a b : Byte) : gfDouble (a ^^^ b) = gfDouble a ^^^ gfDouble b := by
  unfold gfDouble
  rw [BitVec.shiftLeft_xor_distrib, BitVec.msb_xor, xor_xor_xor_comm]
  cases a.msb <;> cases b.msb <;> rfl

theorem gfShift_xor (i : Nat) (a b : Byte) : gfShift i (a ^^^ b) = gfShift i a ^^^ gfShift i b := by
  induction i with
  | zero => rfl
  | succ i ih => rw [gfShift, ih, gfDouble_xor, ← gfShift, ← gfShift]

/-! ### P and Q (R536) -/

@[simp] theorem parityP_nil : parityP [] = 0 := rfl

@[simp] theorem parityP_cons (d : Byte) (ds : List Byte) : parityP (d :: ds) = d ^^^ parityP ds := by
  rw [parityP, List.foldl_cons, BitVec.xor_comm, List.foldl_assoc, ← parityP]

/-- R537: P changes by the delta of the block written. -/
theorem parityP_setNth {i : Nat} (d : Byte) (h : i < ds.length) : parityP (setNth ds i d) = parityP ds ^^^ (nth 0 ds i ^^^ d) := by
  induction ds generalizing i with
  | nil => simp at h
  | cons e ds ih => cases i with
    | zero =>
      rw [setNth, parityP_cons, parityP_cons, nth_cons_zero, BitVec.xor_comm e, BitVec.xor_assoc, xor_xor_cancel_left, BitVec.xor_comm]
    | succ i => rw [setNth, parityP_cons, ih (by simpa using h), parityP_cons, nth_cons_succ, BitVec.xor_assoc]

/-- R537: Q changes by g to the block's number times its delta. -/
theorem parityQ_setNth {i : Nat} (k : Nat) (d : Byte) (h : i < ds.length) :
    parityQ k (setNth ds i d) = parityQ k ds ^^^ gfShift (k + i) (nth 0 ds i ^^^ d) := by
  induction ds generalizing i k with
  | nil => simp at h
  | cons e ds ih => cases i with
    | zero =>
      rw [setNth, parityQ, parityQ, nth_cons_zero, Nat.add_zero k, gfShift_xor, BitVec.xor_comm (gfShift k e), BitVec.xor_assoc,
        xor_xor_cancel_left, BitVec.xor_comm]
    | succ i =>
      rw [setNth, parityQ, ih _ (by simpa using h), parityQ, nth_cons_succ, BitVec.xor_assoc, Nat.add_assoc, Nat.add_comm 1]

/-! ### The statement -/

/-- Settles O60: the deltas of P and Q join their sums, and writes to two blocks leave one and the same stripe. -/
theorem parityFollowsDeltas : Obligations.ParityFollowsDeltas := by
  intro ds i d hi
  refine ⟨parityP_setNth d hi, ?q, fun j e _ hij => ⟨?qComm, ?pComm⟩⟩
  case q => simpa using parityQ_setNth 0 d hi
  case qComm => rw [setNth_comm ds d e hij]
  case pComm => rw [setNth_comm ds d e hij]

end Sys2Proof.Machine
end

section
/-! PROOF. Erased blocks of the guarded far tier, rebuilt from the other blocks of their stripe (ch. 15). -/

namespace Sys2Proof.Machine

variable {f g : Byte → Byte} {a b c d : Byte} {ds : List Byte} {s : State} {x y : Nat}

/-! ### Linear maps of GF(2^8) -/

/-- A map that keeps sums and commutes with the product by g. -/
structure GfLinear (f : Byte → Byte) : Prop where
  xor : ∀ a b, f (a ^^^ b) = f a ^^^ f b
  double : ∀ a, f (gfDouble a) = gfDouble (f a)

theorem GfLinear.zero (h : GfLinear f) : f 0 = 0 := by
  simpa using h.xor 0 0

theorem GfLinear.shift (h : GfLinear f) (i : Nat) (a : Byte) : f (gfShift i a) = gfShift i (f a) := by
  induction i with
  | zero => rfl
  | succ i ih => rw [gfShift, h.double, ih, gfShift]

theorem GfLinear.parityP (h : GfLinear f) (ds : List Byte) : f (parityP ds) = parityP (ds.map f) := by
  induction ds with
  | nil => exact h.zero
  | cons d ds ih => rw [parityP_cons, h.xor, ih, List.map_cons, parityP_cons]

theorem GfLinear.comp (hf : GfLinear f) (hg : GfLinear g) : GfLinear (f ∘ g) where
  xor a b := by simp [hg.xor, hf.xor]
  double a := by simp [hg.double, hf.double]

theorem gfDouble_linear : GfLinear gfDouble := ⟨gfDouble_xor, fun _ => rfl⟩

theorem gfShift_linear (i : Nat) : GfLinear (gfShift i) := ⟨gfShift_xor i, fun a => (gfDouble_linear.shift i a).symm⟩

/-! ### Products (R536) -/

/-- The term that bit `i` of the first factor brings to a product. -/
def gfTerm (a b : Byte) (i : Nat) : Byte := if a.getLsbD i then gfShift i b else 0

theorem gfMul_eq_parityP (a b : Byte) : gfMul a b = parityP ((List.range 8).map (gfTerm a b)) := by
  rw [parityP, List.foldl_map]
  rfl

theorem parityP_map_xor (t u : Nat → Byte) (l : List Nat) :
    parityP (l.map fun i => t i ^^^ u i) = parityP (l.map t) ^^^ parityP (l.map u) := by
  induction l with
  | nil => exact (BitVec.xor_self).symm
  | cons i l ih => simp only [List.map_cons, parityP_cons, ih, xor_xor_xor_comm]

theorem GfLinear.gfTerm (h : GfLinear f) (a b : Byte) (i : Nat) : f (gfTerm a b i) = gfTerm a (f b) i := by
  unfold Machine.gfTerm
  split
  · exact h.shift i b
  · exact h.zero

theorem GfLinear.gfMul (h : GfLinear f) (a b : Byte) : f (gfMul a b) = gfMul a (f b) := by
  rw [gfMul_eq_parityP, h.parityP, List.map_map, gfMul_eq_parityP]
  exact congrArg _ (List.map_congr_left fun i _ => h.gfTerm a b i)

theorem gfMul_one : ∀ a : Byte, gfMul a 1 = a := by decide

/-- A linear map is the product by its value at 1. -/
theorem GfLinear.eq_gfMul (h : GfLinear f) (a : Byte) : f a = Machine.gfMul a (f 1) := by
  rw [← h.gfMul, gfMul_one]

theorem gfMul_linear (a : Byte) : GfLinear (gfMul a) where
  xor b c := by
    have hterm (i : Nat) : gfTerm a (b ^^^ c) i = gfTerm a b i ^^^ gfTerm a c i := by
      unfold gfTerm
      split
      · exact gfShift_xor i b c
      · exact (BitVec.xor_self).symm
    rw [gfMul_eq_parityP, funext hterm, parityP_map_xor, ← gfMul_eq_parityP, ← gfMul_eq_parityP]
  double b := (gfDouble_linear.gfMul a b).symm

theorem gfMul_comm (a b : Byte) : gfMul a b = gfMul b a := by
  rw [(gfMul_linear a).eq_gfMul, gfMul_one]

theorem gfShift_eq_gfMul (i : Nat) (a : Byte) : gfShift i a = gfMul (gfPow i) a := by
  rw [gfMul_comm]
  exact (gfShift_linear i).eq_gfMul a

theorem gfMul_gfInv : ∀ c : Byte, c ≠ 0 → gfMul c (gfInv c) = 1 := by decide +kernel

theorem gfMul_gfInv_cancel (hc : c ≠ 0) (d : Byte) : gfMul (gfMul c d) (gfInv c) = d := by
  have hlinear : GfLinear (gfMul (gfInv c) ∘ gfMul c) := (gfMul_linear _).comp (gfMul_linear _)
  have hone : (gfMul (gfInv c) ∘ gfMul c) 1 = 1 := by
    rw [Function.comp_apply, gfMul_one, gfMul_comm, gfMul_gfInv c hc]
  rw [gfMul_comm, ← Function.comp_apply (f := gfMul (gfInv c)), hlinear.eq_gfMul, hone, gfMul_one]

/-- 0 and the powers of g that the 22 data blocks of a stripe take are different elements. -/
theorem gfPow_nodup : (0 :: (List.range 22).map gfPow).Nodup := by decide

theorem gfPow_ne_zero (hx : x < 22) : gfPow x ≠ 0 := fun h =>
  (List.nodup_cons.mp gfPow_nodup).1 (h ▸ List.mem_map_of_mem (List.mem_range.mpr hx))

theorem gfPow_xor_ne_zero (hx : x < 22) (hy : y < 22) (hxy : x ≠ y) : gfPow x ^^^ gfPow y ≠ 0 := fun h =>
  hxy (List.inj_on_of_nodup_map (List.nodup_cons.mp gfPow_nodup).2 (List.mem_range.mpr hx) (List.mem_range.mpr hy)
    (BitVec.xor_eq_zero_iff.mp h))

/-! ### The bytes that an erasure leaves -/

theorem survivors_one (x : Nat) (ds : List Byte) : survivors [x] ds = setNth ds x 0 := by
  refine List.ext_getElem (by simp [survivors, setNth_eq_set]) fun i hi _ => ?_
  have hlt : i < ds.length := by simpa [survivors] using hi
  simp [survivors, setNth_eq_set, List.getElem_set, nth_eq_getElem, hlt, eq_comm]

theorem survivors_two (x y : Nat) (ds : List Byte) : survivors [x, y] ds = setNth (setNth ds x 0) y 0 := by
  refine List.ext_getElem (by simp [survivors, setNth_eq_set]) fun i hi _ => ?_
  have hlt : i < ds.length := by simpa [survivors] using hi
  simp only [survivors, setNth_eq_set, List.getElem_set, List.getElem_map, List.getElem_range, nth_eq_getElem 0 hlt]
  grind

theorem parityP_xor_survivors_one (hx : x < ds.length) : parityP ds ^^^ parityP (survivors [x] ds) = nth 0 ds x := by
  rw [survivors_one, parityP_setNth 0 hx, xor_xor_cancel_left]
  exact BitVec.xor_zero

theorem parityQ_xor_survivors_one (hx : x < ds.length) :
    parityQ 0 ds ^^^ parityQ 0 (survivors [x] ds) = gfShift x (nth 0 ds x) := by
  rw [survivors_one, parityQ_setNth 0 0 hx, xor_xor_cancel_left, Nat.zero_add]
  exact congrArg _ BitVec.xor_zero

theorem nth_setNth_ne {i : Nat} (v : Byte) (h : i ≠ x) : nth 0 (setNth ds x v) i = nth 0 ds i := by
  rw [setNth_eq_set, nth, List.getElem?_set_ne (Ne.symm h), nth]

theorem parityP_xor_survivors_two (hx : x < ds.length) (hy : y < ds.length) (hxy : x ≠ y) :
    parityP ds ^^^ parityP (survivors [x, y] ds) = nth 0 ds x ^^^ nth 0 ds y := by
  have hy' : y < (setNth ds x 0).length := by simpa [setNth_eq_set] using hy
  rw [survivors_two, parityP_setNth 0 hy', parityP_setNth 0 hx, nth_setNth_ne 0 hxy.symm, BitVec.xor_assoc, xor_xor_cancel_left]
  exact congrArg₂ _ BitVec.xor_zero BitVec.xor_zero

theorem parityQ_xor_survivors_two (hx : x < ds.length) (hy : y < ds.length) (hxy : x ≠ y) :
    parityQ 0 ds ^^^ parityQ 0 (survivors [x, y] ds) = gfShift x (nth 0 ds x) ^^^ gfShift y (nth 0 ds y) := by
  have hy' : y < (setNth ds x 0).length := by simpa [setNth_eq_set] using hy
  rw [survivors_two, parityQ_setNth 0 0 hy', parityQ_setNth 0 0 hx, nth_setNth_ne 0 hxy.symm, BitVec.xor_assoc, xor_xor_cancel_left,
    Nat.zero_add, Nat.zero_add]
  exact congrArg₂ (fun u v => gfShift x u ^^^ gfShift y v) BitVec.xor_zero BitVec.xor_zero

/-! ### Rebuilding (R539) -/

/-- One data block from P. -/
theorem rebuildBlock_from_P (hx : x < ds.length) (q : Option Byte) :
    rebuildBlock x [x] (some (parityP ds)) q ds = some (nth 0 ds x) :=
  congrArg some (parityP_xor_survivors_one hx)

/-- One data block from Q, when P is erased too. -/
theorem rebuildBlock_from_Q (hx : x < ds.length) (h22 : x < 22) :
    rebuildBlock x [x] none (some (parityQ 0 ds)) ds = some (nth 0 ds x) := by
  rw [rebuildBlock, parityQ_xor_survivors_one hx, gfShift_eq_gfMul, gfMul_gfInv_cancel (gfPow_ne_zero h22)]

/-- With d_x the x-th of two erased bytes: Q and g^x times P leave (g^x + g^y) d_y. -/
theorem second_of_two (hx : x < 22) (hy : y < 22) (hxy : x ≠ y) (a b : Byte) :
    gfMul (gfShift x a ^^^ gfShift y b ^^^ gfShift x (a ^^^ b)) (gfInv (gfPow x ^^^ gfPow y)) = b := by
  have hsum : gfShift x a ^^^ gfShift y b ^^^ gfShift x (a ^^^ b) = gfMul (gfPow x ^^^ gfPow y) b := by
    rw [gfMul_comm, (gfMul_linear b).xor, gfMul_comm b, gfMul_comm b, ← gfShift_eq_gfMul, ← gfShift_eq_gfMul, gfShift_xor,
      xor_xor_xor_comm, BitVec.xor_self, BitVec.zero_xor, BitVec.xor_comm]
  rw [hsum, gfMul_gfInv_cancel (gfPow_xor_ne_zero hx hy hxy)]

/-- Two data blocks from P and Q. -/
theorem rebuildBlock_from_P_and_Q {i : Nat} (hi : i ∈ [x, y]) (hx : x < 22) (hy : y < 22) (hxy : x ≠ y) (hds : ds.length = 22) :
    rebuildBlock i [x, y] (some (parityP ds)) (some (parityQ 0 ds)) ds = some (nth 0 ds i) := by
  rw [← hds] at hx hy
  simp only [rebuildBlock, parityP_xor_survivors_two hx hy hxy, parityQ_xor_survivors_two hx hy hxy]
  rw [second_of_two (hds ▸ hx) (hds ▸ hy) hxy]
  obtain rfl | rfl : i = x ∨ i = y := by simpa using hi
  · rw [if_neg hxy, BitVec.xor_assoc, BitVec.xor_self, BitVec.xor_zero]
  · rw [if_pos rfl]

/-! ### The blocks of a stripe and their channels (R336) -/

/-- The 22 data blocks and the two parity blocks lie on the 24 channels, one on each. -/
theorem channels_perm : ∀ q < 12, (List.range 24).Perm (2 * q :: (2 * q + 1) :: (List.range 22).map (blockChannel q)) := by decide

/-- The erased data blocks of a stripe, in rising order. -/
def erasedBlocks (s : State) (row q : Nat) : List Nat :=
  (List.range 22).filter fun i => channelErased s row (blockChannel q i)

theorem erasedCount_eq {q : Nat} (row : Nat) (hq : q < 12) :
    erasedCount s row =
      (erasedBlocks s row q).length + (channelErased s row (2 * q)).toNat + (channelErased s row (2 * q + 1)).toNat := by
  rw [erasedCount, erasedBlocks, ← List.countP_eq_length_filter, ← List.countP_eq_length_filter, (channels_perm q hq).countP_eq,
    List.countP_cons, List.countP_cons, List.countP_map]
  cases channelErased s row (2 * q) <;> cases channelErased s row (2 * q + 1) <;> rfl

/-- The place of a guarded far-tier offset: its block and stripe, and the offset they come from. -/
structure AtGuarded (off : Nat) (f : FarSlot) : Prop where
  block_lt : f.block < 22
  q_lt : f.q < 12
  channel_eq : f.channel = blockChannel f.q f.block
  offset_eq : farBase + f.frame * (48 * 2 ^ 20) + (f.offset / 4096 * 22 + f.block) * 4096 + f.offset % 4096 = off

theorem farSlot_guarded {off : Nat} {f : FarSlot} (hf : farSlot s off = some f) (hg : f.guarded = true) : AtGuarded off f := by
  unfold farSlot at hf
  split at hf
  case isFalse => cases hf
  case isTrue hwindow =>
  unfold farDecode at hf
  simp only at hf
  split at hf
  case isFalse =>
    split at hf
    · cases hf
    · obtain rfl := Option.some.inj hf
      cases hg
  case isTrue =>
    split at hf
    · cases hf
    · obtain rfl := Option.some.inj hf
      refine ⟨Nat.mod_lt _ (by decide), Nat.mod_lt _ (by decide), rfl, ?_⟩
      simp only [twoMiB]
      omega

theorem AtGuarded.nth_stripeData {off : Nat} {f : FarSlot} (h : AtGuarded off f) :
    nth 0 (stripeData s f.frame (f.offset / 4096) (f.offset % 4096)) f.block = storeByte s off := by
  rw [nth_eq_getElem 0 (by simpa [stripeData] using h.block_lt)]
  simp only [stripeData, List.getElem_map, List.getElem_range, h.offset_eq]

theorem AtGuarded.block_mem {off : Nat} {f : FarSlot} (h : AtGuarded off f) (howned : ownErased s f = true) :
    f.block ∈ erasedBlocks s f.frame f.q :=
  List.mem_filter.mpr ⟨List.mem_range.mpr h.block_lt, h.channel_eq ▸ howned⟩

theorem lt_of_mem_erasedBlocks {row q i : Nat} (h : i ∈ erasedBlocks s row q) : i < 22 :=
  List.mem_range.mp (List.mem_filter.mp h).1

theorem erasedBlocks_nodup (row q : Nat) : (erasedBlocks s row q).Nodup := List.nodup_range.filter _

/-! ### The statement -/

/-- A parity block that is there, or none where its channel is erased. -/
def present (erased : Bool) (v : Byte) : Option Byte := if erased then none else some v

/-- Of a stripe with one data block or more erased: at most two erasures leave the means to rebuild each, more do not. -/
theorem rebuildBlock_of_erasures {i : Nat} {es : List Nat} (hi : i ∈ es) (hlt : ∀ j ∈ es, j < 22) (hnodup : es.Nodup) (hds : ds.length = 22)
    (noP noQ : Bool) :
    (es.length + noP.toNat + noQ.toNat ≤ 2 →
      rebuildBlock i es (present noP (parityP ds)) (present noQ (parityQ 0 ds)) ds = some (nth 0 ds i)) ∧
    (3 ≤ es.length + noP.toNat + noQ.toNat →
      rebuildBlock i es (present noP (parityP ds)) (present noQ (parityQ 0 ds)) ds = none) := by
  match es with
  | [] => cases hi
  | [x] =>
    obtain rfl := List.mem_singleton.mp hi
    have hx : i < 22 := hlt i hi
    cases noP with
    | false => exact ⟨fun _ => rebuildBlock_from_P (hds ▸ hx) _, fun h => absurd h (by cases noQ <;> simp)⟩
    | true => cases noQ with
      | false => exact ⟨fun _ => rebuildBlock_from_Q (hds ▸ hx) hx, fun h => absurd h (by simp)⟩
      | true => exact ⟨fun h => absurd h (by simp), fun _ => rfl⟩
  | [x, y] =>
    have hxy : x ≠ y := by simpa using hnodup
    cases noP with
    | true => exact ⟨fun h => absurd h (by cases noQ <;> simp), fun _ => by cases noQ <;> rfl⟩
    | false => cases noQ with
      | true => exact ⟨fun h => absurd h (by simp), fun _ => rfl⟩
      | false => exact ⟨fun _ => rebuildBlock_from_P_and_Q hi (hlt x (by simp)) (hlt y (by simp)) hxy hds, fun h => absurd h (by simp)⟩
  | x :: y :: z :: es =>
    exact ⟨fun h => absurd h (by simp only [List.length_cons]; omega), fun _ => by simp [rebuildBlock]⟩

/-- Settles O59: a stripe's erasures are those of its data blocks, of P and of Q, and the store's byte is that of the erased block. -/
theorem erasedBlocksAreRebuilt : Obligations.ErasedBlocksAreRebuilt := by
  intro s off f hf hg hown
  have hat := farSlot_guarded hf hg
  rw [erasedCount_eq f.frame hat.q_lt, ← hat.nth_stripeData]
  exact rebuildBlock_of_erasures (hat.block_mem hown) (fun _ => lt_of_mem_erasedBlocks) (erasedBlocks_nodup _ _)
    (by simp [stripeData]) _ _

end Sys2Proof.Machine
end

section
/-! PROOF. The canonical codes of a table of code lengths (ch. 5). -/

namespace Sys2Proof.Machine

variable {lens : List Nat} {bs : List Byte} {l m s c n r fuel : Nat} {rest : List Bool}

/-! ### Bits of numbers -/

theorem bit_eq_testBit (w i : Nat) : bit w i = w.testBit i := by
  rw [bit, Nat.testBit_eq_decide_div_mod_eq]
  rfl

theorem two_mul_div_add_bit (c r : Nat) : 2 * (c / 2 ^ (r + 1)) + b2n (bit c r) = c / 2 ^ r := by
  have hbit : b2n (bit c r) = c / 2 ^ r % 2 := by
    unfold b2n bit
    have := Nat.mod_two_eq_zero_or_one (c / 2 ^ r)
    split <;> simp_all
  rw [hbit, Nat.pow_succ, ← Nat.div_div_eq_div_mul]
  omega

@[simp] theorem codeBits_zero (c : Nat) : codeBits 0 c = [] := rfl

theorem codeBits_succ (l c : Nat) : codeBits (l + 1) c = bit c l :: codeBits l c := by
  simp only [codeBits, List.range_succ_eq_map, List.map_cons, List.map_map]
  refine congrArg₂ _ (congrArg _ (by omega)) (List.map_congr_left fun i _ => ?_)
  rw [Function.comp_apply, show l + 1 - 1 - i.succ = l - 1 - i by omega]

@[simp] theorem codeBits_length (l c : Nat) : (codeBits l c).length = l := by simp [codeBits]

/-! ### Tables of code lengths (R189, R190) -/

/-- A table of code lengths: 256 lengths from 1 to 12 whose codes fit in 12 bits. -/
structure IsCode (lens : List Nat) : Prop where
  length_eq : lens.length = 256
  bounds : ∀ l ∈ lens, 1 ≤ l ∧ l ≤ 12
  kraft : (lens.map fun l => 2 ^ (12 - l)).sum ≤ 4096

/-- How many byte values have codes of a length. -/
def ofLength (lens : List Nat) (l : Nat) : Nat := lens.countP (· == l)

/-- The first code of a length, by the recursion of R190. -/
def firstCode (lens : List Nat) : Nat → Nat
  | 0 => 0
  | 1 => 0
  | l + 2 => 2 * (firstCode lens (l + 1) + ofLength lens (l + 1))

/-- The share of the 12-bit codes that the codes shorter than a length take. -/
def kraftBelow (lens : List Nat) (l : Nat) : Nat := (lens.map fun j => if j < l then 2 ^ (12 - j) else 0).sum

theorem firstCodes_getD (hl : 1 ≤ l) (h12 : l ≤ 12) : (firstCodes lens).getD (l - 1) 0 = firstCode lens l := by
  interval_cases l <;> rfl

theorem kraftBelow_succ (lens : List Nat) (l : Nat) : kraftBelow lens (l + 1) = kraftBelow lens l + ofLength lens l * 2 ^ (12 - l) := by
  unfold kraftBelow ofLength
  induction lens with
  | nil => simp
  | cons j lens ih =>
    rw [List.map_cons, List.sum_cons, ih, List.map_cons, List.sum_cons, List.countP_cons]
    rcases Nat.lt_trichotomy j l with h | rfl | h
    · simp [h, Nat.lt_succ_of_lt h, h.ne, Nat.add_assoc]
    · simp [Nat.add_mul]; omega
    · simp [Nat.not_lt.mpr h.le, Nat.not_lt.mpr (Nat.succ_le_of_lt h), h.ne']

theorem kraftBelow_mono (h : l ≤ m) : kraftBelow lens l ≤ kraftBelow lens m :=
  monotone_nat_of_le_succ (fun l => by rw [kraftBelow_succ]; omega) h

theorem kraftBelow_one (h : IsCode lens) : kraftBelow lens 1 = 0 := by
  refine List.sum_eq_zero fun x hx => ?_
  obtain ⟨j, hj, rfl⟩ := List.mem_map.mp hx
  exact if_neg (Nat.not_lt.mpr (h.bounds j hj).1)

theorem kraftBelow_le (h : IsCode lens) (l : Nat) : kraftBelow lens l ≤ 4096 := by
  refine le_trans (List.sum_le_sum fun j _ => ?_) h.kraft
  split
  · exact Nat.le_refl _
  · exact Nat.zero_le _

/-- The first code of a length, extended to 12 bits, is the share of the shorter codes. -/
theorem firstCode_mul (h : IsCode lens) (hl : 1 ≤ l) (h12 : l ≤ 12) : firstCode lens l * 2 ^ (12 - l) = kraftBelow lens l := by
  induction l, hl using Nat.le_induction with
  | base => rw [kraftBelow_one h, firstCode, Nat.zero_mul]
  | succ l hl ih =>
    obtain ⟨k, rfl⟩ := Nat.exists_eq_add_of_le' hl
    rw [firstCode, kraftBelow_succ, ← ih (by omega), Nat.mul_comm 2, Nat.mul_assoc, ← Nat.pow_succ', Nat.add_mul]
    rw [show (12 - (k + 1 + 1)).succ = 12 - (k + 1) by omega]

/-- The codes after the last one of a length, extended to 12 bits. -/
theorem endCode_mul (h : IsCode lens) (hl : 1 ≤ l) (h12 : l ≤ 12) :
    (firstCode lens l + ofLength lens l) * 2 ^ (12 - l) = kraftBelow lens (l + 1) := by
  rw [Nat.add_mul, firstCode_mul h hl h12, kraftBelow_succ]

theorem endCode_le (h : IsCode lens) (hl : 1 ≤ l) (h12 : l ≤ 12) : firstCode lens l + ofLength lens l ≤ 2 ^ l := by
  refine Nat.le_of_mul_le_mul_right (?_ : _ * 2 ^ (12 - l) ≤ 2 ^ l * 2 ^ (12 - l)) (Nat.two_pow_pos _)
  rw [endCode_mul h hl h12, ← Nat.pow_add, Nat.add_sub_cancel' h12]
  exact kraftBelow_le h _

/-- Codes of a length lie above every shorter code continued (R190: no code is the beginning of another). -/
theorem endCode_mul_le_firstCode (h : IsCode lens) (hl : 1 ≤ l) (hlm : l < m) (h12 : m ≤ 12) :
    (firstCode lens l + ofLength lens l) * 2 ^ (m - l) ≤ firstCode lens m := by
  refine Nat.le_of_mul_le_mul_right (?_ : _ * 2 ^ (12 - m) ≤ _ * 2 ^ (12 - m)) (Nat.two_pow_pos _)
  rw [firstCode_mul h (by omega) h12, Nat.mul_assoc, ← Nat.pow_add, show m - l + (12 - m) = 12 - l by omega,
    endCode_mul h hl (by omega)]
  exact kraftBelow_mono hlm

/-! ### The code of a byte value -/

/-- The place of a byte value among those of its code length. -/
def rankOf (lens : List Nat) (s : Nat) : Nat := (lens.take s).countP (· == lens.getD s 0)

theorem IsCode.getD_bounds (h : IsCode lens) (hs : s < 256) : 1 ≤ lens.getD s 0 ∧ lens.getD s 0 ≤ 12 := by
  have hlt : s < lens.length := h.length_eq ▸ hs
  rw [List.getD_eq_getElem _ _ hlt]
  exact h.bounds _ (List.getElem_mem hlt)

theorem codeOf_eq (h : IsCode lens) (hs : s < 256) : codeOf lens s = firstCode lens (lens.getD s 0) + rankOf lens s := by
  rw [codeOf, firstCodes_getD (h.getD_bounds hs).1 (h.getD_bounds hs).2, rankOf]

/-- A later value of the same length has a higher place, and every place is below their number. -/
theorem countP_take_lt {v : Nat} (hs : s < lens.length) (hv : lens.getD s 0 = v) (hm : s < m) :
    (lens.take s).countP (· == v) < (lens.take m).countP (· == v) := by
  have htake : lens.take (s + 1) = lens.take s ++ [v] := by
    rw [List.take_add_one, List.getElem?_eq_getElem hs, ← List.getD_eq_getElem _ 0 hs, hv]
    rfl
  calc (lens.take s).countP (· == v)
      < (lens.take (s + 1)).countP (· == v) := by rw [htake, List.countP_append]; simp
    _ ≤ _ := (List.take_sublist_take_left hm).countP_le

theorem rankOf_lt (h : IsCode lens) (hs : s < 256) : rankOf lens s < ofLength lens (lens.getD s 0) := by
  have := countP_take_lt (lens := lens) (h.length_eq ▸ hs) rfl (h.length_eq ▸ hs)
  rwa [List.take_length] at this

theorem rankOf_inj (h : IsCode lens) (hs : s < 256) (hm : m < 256) (hlen : lens.getD s 0 = lens.getD m 0)
    (hrank : rankOf lens s = rankOf lens m) : s = m := by
  rw [rankOf, rankOf, hlen] at hrank
  rcases Nat.lt_trichotomy s m with hlt | heq | hlt
  · exact absurd hrank (countP_take_lt (h.length_eq ▸ hs) hlen hlt).ne
  · exact heq
  · exact absurd hrank.symm (countP_take_lt (h.length_eq ▸ hm) rfl hlt).ne

theorem codeOf_lt (h : IsCode lens) (hs : s < 256) : codeOf lens s < 2 ^ lens.getD s 0 := by
  have hend := endCode_le h (h.getD_bounds hs).1 (h.getD_bounds hs).2
  have hrank := rankOf_lt h hs
  rw [codeOf_eq h hs]
  omega

/-! ### Reading a code bit by bit (R202) -/

/-- A whole code is that of one byte value. -/
theorem symbolOf_codeOf (h : IsCode lens) (hs : s < 256) : symbolOf lens (lens.getD s 0) (codeOf lens s) = some s := by
  obtain ⟨x, hx⟩ := Option.isSome_iff_exists.mp (List.find?_isSome (p := fun t => lens.getD t 0 == lens.getD s 0 && codeOf lens t == codeOf lens s)
    |>.mpr ⟨s, List.mem_range.mpr hs, by simp⟩)
  have hx256 : x < 256 := List.mem_range.mp (List.mem_of_find?_eq_some hx)
  obtain ⟨hlen, hcode⟩ : lens.getD x 0 = lens.getD s 0 ∧ codeOf lens x = codeOf lens s := by simpa using List.find?_some hx
  have hrank : rankOf lens x = rankOf lens s := by
    rw [codeOf_eq h hx256, codeOf_eq h hs, hlen] at hcode
    omega
  rw [symbolOf, hx, rankOf_inj h hx256 hs hlen hrank]

/-- The beginning of a code is no code. -/
theorem symbolOf_prefix (h : IsCode lens) (hs : s < 256) (hr : 0 < r) (hlt : r < lens.getD s 0) :
    symbolOf lens (lens.getD s 0 - r) (codeOf lens s / 2 ^ r) = none := by
  refine List.find?_eq_none.mpr fun x hx hmatch => ?_
  obtain ⟨hlen, hcode⟩ : lens.getD x 0 = lens.getD s 0 - r ∧ codeOf lens x = codeOf lens s / 2 ^ r := by simpa using hmatch
  have hx256 : x < 256 := List.mem_range.mp hx
  have hbelow : codeOf lens x < firstCode lens (lens.getD x 0) + ofLength lens (lens.getD x 0) := by
    have := rankOf_lt h hx256
    rw [codeOf_eq h hx256]
    omega
  have habove : firstCode lens (lens.getD x 0) + ofLength lens (lens.getD x 0) ≤ codeOf lens s / 2 ^ r := by
    rw [Nat.le_div_iff_mul_le (Nat.two_pow_pos r)]
    have hends := endCode_mul_le_firstCode h (h.getD_bounds hx256).1 (by omega : lens.getD x 0 < lens.getD s 0) (h.getD_bounds hs).2
    rw [show lens.getD s 0 - lens.getD x 0 = r by omega] at hends
    rw [codeOf_eq h hs]
    omega
  omega

/-- With `r` bits of a byte value's code still to come, the reading goes on to that value. -/
theorem decodeBits_code (h : IsCode lens) (hs : s < 256) (hr : 0 < r) (hle : r ≤ lens.getD s 0) (fuel n : Nat) (rest : List Bool) :
    decodeBits lens (fuel + r) (n + 1) (lens.getD s 0 - r) (codeOf lens s / 2 ^ r) (codeBits r (codeOf lens s) ++ rest) =
      (decodeBits lens fuel n 0 0 rest).map (BitVec.ofNat 8 s :: ·) := by
  induction r, hr using Nat.le_induction with
  | base =>
    have hlen : lens.getD s 0 - 1 + 1 = lens.getD s 0 := Nat.sub_add_cancel hle
    have hcode : 2 * (codeOf lens s / 2 ^ (0 + 1)) + b2n (bit (codeOf lens s) 0) = codeOf lens s := by
      rw [two_mul_div_add_bit, Nat.pow_zero, Nat.div_one]
    rw [codeBits_succ, codeBits_zero, List.cons_append, List.nil_append, decodeBits, hlen, hcode, symbolOf_codeOf h hs]
  | succ r hr ih =>
    have hlen : lens.getD s 0 - (r + 1) + 1 = lens.getD s 0 - r := by omega
    have hmore : lens.getD s 0 - r < 12 := by have := (h.getD_bounds hs).2; omega
    rw [codeBits_succ, List.cons_append, ← Nat.add_assoc, decodeBits, hlen, two_mul_div_add_bit, symbolOf_prefix h hs hr hle]
    exact (if_pos hmore).trans (ih (by omega))

/-- The code of one byte. -/
theorem decodeBits_byte (h : IsCode lens) (b : Byte) (fuel n : Nat) (rest : List Bool) :
    decodeBits lens (fuel + lens.getD b.toNat 0) (n + 1) 0 0 (codeBits (lens.getD b.toNat 0) (codeOf lens b.toNat) ++ rest) =
      (decodeBits lens fuel n 0 0 rest).map (b :: ·) := by
  have hread := decodeBits_code h b.isLt (h.getD_bounds b.isLt).1 le_rfl fuel n rest
  rwa [Nat.sub_self, Nat.div_eq_of_lt (codeOf_lt h b.isLt), BitVec.ofNat_toNat, BitVec.setWidth_eq] at hread

/-- The bits of a plane under its table. -/
def planeBits (lens : List Nat) (bs : List Byte) : List Bool :=
  (bs.map fun b => codeBits (lens.getD b.toNat 0) (codeOf lens b.toNat)).flatten

/-- A plane's codes, and fewer than eight zero bits after them, decode to the plane. -/
theorem decodeBits_planeBits (h : IsCode lens) (bs : List Byte) (hpad : n < 8) :
    decodeBits lens ((planeBits lens bs).length + n) bs.length 0 0 (planeBits lens bs ++ List.replicate n false) = some bs := by
  induction bs with
  | nil =>
    rw [show (planeBits lens []) = [] from rfl]
    cases n with
    | zero => simp [decodeBits]
    | succ n => simp [decodeBits, show n < 7 by omega]
  | cons b bs ih =>
    have hbits : planeBits lens (b :: bs) = codeBits (lens.getD b.toNat 0) (codeOf lens b.toNat) ++ planeBits lens bs := by
      rw [planeBits, List.map_cons, List.flatten_cons, ← planeBits]
    rw [hbits, List.length_append, codeBits_length, List.append_assoc, List.length_cons,
      show lens.getD b.toNat 0 + (planeBits lens bs).length + n = (planeBits lens bs).length + n + lens.getD b.toNat 0 by omega,
      decodeBits_byte h, ih]
    rfl

end Sys2Proof.Machine
end

section
/-! PROOF. Segments on the wire expand to the bytes they were made of (ch. 5). -/

namespace Sys2Proof.Machine

variable {lens : List Nat} {bs : List Byte} {code bin : Nat}

/-! ### Streams of bits as bytes (R190) -/

/-- The number whose lowest n bits are those of a stream from a place on. -/
def bitSum (f : Nat → Bool) (n : Nat) : Nat := (List.range n).foldl (fun a j => a + b2n (f j) * 2 ^ j) 0

theorem bitSum_succ (f : Nat → Bool) (n : Nat) : bitSum f (n + 1) = 2 ^ n * b2n (f n) + bitSum f n := by
  rw [bitSum, List.range_succ, List.foldl_append, List.foldl_cons, List.foldl_nil, ← bitSum]
  ring

theorem bitSum_lt (f : Nat → Bool) (n : Nat) : bitSum f n < 2 ^ n := by
  induction n with
  | zero => exact Nat.one_pos
  | succ n ih =>
    have hle : b2n (f n) ≤ 1 := by cases f n <;> decide
    have := Nat.mul_le_mul_left (2 ^ n) hle
    rw [bitSum_succ, Nat.pow_succ]
    omega

theorem bit_bitSum {f : Nat → Bool} {n j : Nat} (h : j < n) : bit (bitSum f n) j = f j := by
  rw [bit_eq_testBit]
  induction n with
  | zero => cases h
  | succ n ih =>
    rw [bitSum_succ, Nat.testBit_two_pow_mul_add _ (bitSum_lt f n)]
    split
    case isTrue hlt => exact ih hlt
    case isFalse hge =>
      obtain rfl : j = n := by omega
      rw [Nat.sub_self]
      cases f j <;> rfl

theorem bytesToBits_cons (b : Byte) (bs : List Byte) :
    bytesToBits (b :: bs) = (List.range 8).map (fun j => bit b.toNat j) ++ bytesToBits bs := by
  rw [bytesToBits, List.map_cons, List.flatten_cons, ← bytesToBits]

@[simp] theorem bytesToBits_length (bs : List Byte) : (bytesToBits bs).length = 8 * bs.length := by
  induction bs with
  | nil => rfl
  | cons b bs ih => rw [bytesToBits_cons, List.length_append, ih]; simp; omega

theorem bytesToBits_getElem {k : Nat} (bs : List Byte) (hk : k < (bytesToBits bs).length) :
    (bytesToBits bs)[k] = bit (bs.getD (k / 8) 0).toNat (k % 8) := by
  induction bs generalizing k with
  | nil => simp at hk
  | cons b bs ih =>
    simp only [bytesToBits_cons]
    by_cases hlt : k < 8
    · rw [List.getElem_append_left (by simpa using hlt), Nat.div_eq_of_lt hlt, Nat.mod_eq_of_lt hlt]
      simp
    · obtain ⟨k, rfl⟩ := Nat.exists_eq_add_of_le (Nat.not_lt.mp hlt)
      rw [List.getElem_append_right (by simp)]
      simp only [List.length_map, List.length_range, Nat.add_sub_cancel_left]
      rw [ih, Nat.add_div_left k (by decide), Nat.add_mod_left, List.getD_cons_succ]

/-- The bytes of a stream of bits give the stream back, with the zeros that pad its last byte. -/
theorem bytesToBits_bitsToBytes (bs : List Bool) :
    bytesToBits (bitsToBytes bs) = bs ++ List.replicate (8 * ceilDiv bs.length 8 - bs.length) false := by
  have hlen : bs.length ≤ 8 * ceilDiv bs.length 8 := by unfold ceilDiv; omega
  refine List.ext_getElem (by simp [bitsToBytes]; omega) fun k hk _ => ?_
  have hbyte : k / 8 < ceilDiv bs.length 8 := by
    rw [bytesToBits_length, bitsToBytes, List.length_map, List.length_range] at hk
    omega
  have hvalue : ((bitsToBytes bs).getD (k / 8) 0).toNat = bitSum (fun j => bs.getD (8 * (k / 8) + j) false) 8 := by
    rw [List.getD_eq_getElem _ _ (by simpa [bitsToBytes] using hbyte)]
    simp only [bitsToBytes, List.getElem_map, List.getElem_range, BitVec.toNat_ofNat]
    exact Nat.mod_eq_of_lt (bitSum_lt (fun j => bs.getD (8 * (k / 8) + j) false) 8)
  rw [bytesToBits_getElem, hvalue, bit_bitSum (Nat.mod_lt _ (by decide)), Nat.div_add_mod]
  by_cases hk' : k < bs.length
  · rw [List.getD_eq_getElem _ _ hk', List.getElem_append_left hk']
  · rw [List.getD_eq_default _ _ (Nat.not_lt.mp hk'), List.getElem_append_right (Nat.not_lt.mp hk'), List.getElem_replicate]

/-- R202: a plane coded under its table expands to itself. -/
theorem expandPlane_codePlane (h : IsCode lens) (bs : List Byte) : expandPlane lens bs.length (codePlane lens bs) = some bs := by
  unfold expandPlane codePlane
  split
  · rw [if_pos rfl]
  · have hpad : 8 * ceilDiv (planeBits lens bs).length 8 - (planeBits lens bs).length < 8 := by unfold ceilDiv; omega
    have hread := decodeBits_planeBits h bs hpad
    rwa [← bytesToBits_bitsToBytes, ← List.length_replicate (n := 8 * _ - _) (a := false), ← List.length_append,
      ← bytesToBits_bitsToBytes] at hread

/-! ### Planes (R188) -/

theorem planeBytes_length (P p : Nat) (bs : List Byte) : (planeBytes P p bs).length = ceilDiv (bs.length - p) P := by
  simp [planeBytes]

/-- The planes of a segment, woven together, are the segment. -/
theorem joinPlanes_planeBytes {P : Nat} (hP : 0 < P) (bs : List Byte) :
    joinPlanes P bs.length ((List.range P).map fun p => planeBytes P p bs) = bs := by
  refine List.ext_getElem (by simp [joinPlanes]) fun i _ hi => ?_
  have hplane : i % P < P := Nat.mod_lt i hP
  have hplace : i / P < ceilDiv (bs.length - i % P) P := by
    have := Nat.div_add_mod i P
    rw [ceilDiv, Nat.lt_iff_add_one_le, Nat.le_div_iff_mul_le hP, Nat.add_mul, Nat.mul_comm (i / P)]
    omega
  have hindex : i % P + i / P * P = i := by rw [Nat.mul_comm]; exact Nat.mod_add_div i P
  simp only [joinPlanes, List.getElem_map, List.getElem_range]
  rw [List.getD_eq_getElem _ [] (by simpa using hplane)]
  simp only [planeBytes, List.getElem_map, List.getElem_range]
  rw [List.getD_eq_getElem _ _ (by simpa using hplace)]
  simp only [List.getElem_map, List.getElem_range, hindex]
  exact List.getD_eq_getElem _ _ hi

theorem cutRuns_flatten (runs : List (List Byte)) : cutRuns (runs.map List.length) runs.flatten = runs := by
  induction runs with
  | nil => rfl
  | cons r runs ih => simp [cutRuns, ih]

/-! ### The header (Table 5.8) -/

theorem leBytes_length (n v : Nat) : (leBytes n v).length = n := by
  induction n generalizing v with
  | zero => rfl
  | succ n ih => rw [leBytes, List.length_cons, ih]

theorem leValue_leBytes (n v : Nat) : leValue (leBytes n v) = v % 256 ^ n := by
  induction n generalizing v with
  | zero => rw [leBytes, leValue, Nat.pow_zero, Nat.mod_one]
  | succ n ih =>
    rw [leBytes, leValue, ih, BitVec.toNat_ofNat, show 256 ^ (n + 1) = 256 * 256 ^ n from Nat.pow_succ', Nat.mod_mul]

/-- A segment as it goes on the wire: its header, its data, and zeros up to the bin. -/
def segWire (inLen flags code out pad : Nat) (data : List Byte) : List Byte :=
  leBytes 2 inLen ++ leBytes 1 flags ++ leBytes 1 code ++ leBytes 2 out ++ leBytes 2 pad ++ (data ++ zeroBytes (pad - out))

/-- The lengths of a segment fit their fields and agree with its data. -/
structure SegFits (inLen flags code out pad : Nat) (data : List Byte) : Prop where
  inLen_pos : 1 ≤ inLen
  inLen_le : inLen ≤ 4096
  flags_lt : flags < 4
  code_lt : code < 256
  out_eq : out = 8 + data.length
  out_le : out ≤ pad
  pad_lt : pad < 65536

section
variable {inLen flags out pad : Nat} {data : List Byte} {tables : Option (List (List Nat))}

theorem segWire_drop (k : Nat) : (segWire inLen flags code out pad data).drop (8 + k) = (data ++ zeroBytes (pad - out)).drop k := by
  rw [Nat.add_comm]
  rfl

theorem segWire_take (k : Nat) :
    (segWire inLen flags code out pad data).take (8 + k) =
      leBytes 2 inLen ++ leBytes 1 flags ++ leBytes 1 code ++ leBytes 2 out ++ leBytes 2 pad ++ (data ++ zeroBytes (pad - out)).take k := by
  rw [Nat.add_comm]
  rfl

variable (h : SegFits inLen flags code out pad data)
include h

theorem SegFits.length_segWire : (segWire inLen flags code out pad data).length = pad := by
  have := h.out_eq
  have := h.out_le
  simp only [segWire, List.length_append, leBytes_length, zeroBytes, List.length_replicate]
  omega

theorem SegFits.rest_zero : ((segWire inLen flags code out pad data).drop out).any (· != 0) = false := by
  rw [h.out_eq, segWire_drop, List.drop_left]
  simp [zeroBytes]

/-- The receiver reads the five header fields as they were written. -/
theorem SegFits.fields :
    leValue ((segWire inLen flags code out pad data).take 2) = inLen ∧
    leValue (((segWire inLen flags code out pad data).drop 2).take 1) = flags ∧
    leValue (((segWire inLen flags code out pad data).drop 3).take 1) = code ∧
    leValue (((segWire inLen flags code out pad data).drop 4).take 2) = out ∧
    leValue (((segWire inLen flags code out pad data).drop 6).take 2) = pad := by
  obtain ⟨_, _, _, _, _, _, _⟩ := h
  refine ⟨(leValue_leBytes 2 _).trans ?_, (leValue_leBytes 1 _).trans ?_, (leValue_leBytes 1 _).trans ?_, (leValue_leBytes 2 _).trans ?_,
    (leValue_leBytes 2 _).trans ?_⟩ <;> omega

/-- None of them makes the header invalid. -/
theorem SegFits.valid :
    ¬(inLen = 0 ∨ 4096 < inLen ∨ 4 ≤ flags ∨ pad < out ∨ (segWire inLen flags code out pad data).length ≠ pad ∨
      ((segWire inLen flags code out pad data).drop out).any (· != 0) = true) := by
  have hlength := h.length_segWire
  have hrest := h.rest_zero
  obtain ⟨hpos, hle, hflags, _, _, hpad, _⟩ := h
  simp only [not_or, not_not, hlength, hrest, Bool.false_eq_true, not_false_eq_true, and_true]
  omega

/-- R192: a stored segment gives its bytes, whatever tables the receiver holds. -/
theorem SegFits.expand_stored (hstored : bit flags 0 = true) (hout : out = 8 + inLen) :
    expandSegment tables (segWire inLen flags code out pad data) = some data := by
  obtain ⟨hin, hfl, hcode, hol, hpl⟩ := h.fields
  have hdata : inLen = data.length := by have := h.out_eq; omega
  simp only [expandSegment, hin, hfl, hcode, hol, hpl]
  rw [if_neg h.valid, if_pos hstored, if_pos hout, ← Nat.add_zero 8, segWire_drop, List.drop_zero, hdata, List.take_left]

end

/-! ### Coded segments (R192, Table 5.8) -/

/-- The lengths of the planes, at their places in the header. -/
theorem plane_length_field {planes : List (List Byte)} {p : Nat} (hp : p < planes.length) (rest : List Byte) :
    (((planes.map fun q => leBytes 2 q.length).flatten ++ rest).drop (2 * p)).take 2 = leBytes 2 planes[p].length := by
  induction planes generalizing p with
  | nil => simp at hp
  | cons q planes ih => cases p with
    | zero => rfl
    | succ p => exact ih (by simpa using hp)

/-- The data of a coded segment: the lengths of its planes, zeros up to a multiple of 8, the planes. -/
def codedData (P : Nat) (planes : List (List Byte)) : List Byte :=
  (planes.map fun q => leBytes 2 q.length).flatten ++ zeroBytes (segHeader P - (8 + 2 * P)) ++ planes.flatten

theorem segHeader_ge (P : Nat) : 8 + 2 * P ≤ segHeader P := by
  unfold segHeader ceilDiv
  omega

theorem lengthTable_length (planes : List (List Byte)) :
    (planes.map fun q => leBytes 2 q.length).flatten.length = 2 * planes.length := by
  induction planes with
  | nil => rfl
  | cons q planes ih => rw [List.map_cons, List.flatten_cons, List.length_append, ih, leBytes_length, List.length_cons]; omega

theorem codedData_length {P : Nat} {planes : List (List Byte)} (hP : planes.length = P) :
    8 + (codedData P planes).length = segHeader P + (planes.map List.length).sum := by
  have := segHeader_ge P
  rw [codedData, List.length_append, List.length_append, lengthTable_length, hP, List.length_flatten, zeroBytes, List.length_replicate]
  omega

section
variable {inLen flags out pad : Nat} {planes : List (List Byte)} {ts : List (List Nat)}

theorem coded_lengths (hP : planes.length = planesOf code) (hshort : ∀ q ∈ planes, q.length < 65536) :
    (List.range (planesOf code)).map (fun p =>
      leValue (((segWire inLen flags code out pad (codedData (planesOf code) planes)).drop (8 + 2 * p)).take 2)) = planes.map List.length := by
  refine List.ext_getElem (by simp [hP]) fun p hp hp' => ?_
  have hlt : p < planes.length := by simpa using hp'
  simp only [List.getElem_map, List.getElem_range, segWire_drop, codedData, List.append_assoc, plane_length_field hlt, leValue_leBytes]
  exact Nat.mod_eq_of_lt (hshort _ (List.getElem_mem hlt))

theorem coded_body (hP : planes.length = planesOf code) (hout : out = 8 + (codedData (planesOf code) planes).length) :
    ((segWire inLen flags code out pad (codedData (planesOf code) planes)).take out).drop (segHeader (planesOf code)) = planes.flatten := by
  rw [hout, segWire_take, List.take_left, codedData, ← List.append_assoc]
  refine List.drop_left' ?_
  have := segHeader_ge (planesOf code)
  simp only [List.length_append, leBytes_length, lengthTable_length, hP, zeroBytes, List.length_replicate]
  omega

/-- R202: with the lengths, the planes and a table for each, the planes are expanded and woven together. -/
theorem SegFits.expand_coded {ps : List (List Byte)} (h : SegFits inLen flags code out pad (codedData (planesOf code) planes))
    (hcoded : bit flags 0 = false) (hcode : 1 ≤ code) (h5 : code ≤ 5) (hts : ts.length = planesOf code)
    (hP : planes.length = planesOf code) (hshort : ∀ q ∈ planes, q.length < 65536)
    (hplanes : (List.range (planesOf code)).map (fun p =>
      expandPlane (ts.getD p []) (ceilDiv (inLen - p) (planesOf code)) (planes.getD p [])) = ps.map some) :
    expandSegment (some ts) (segWire inLen flags code out pad (codedData (planesOf code) planes)) =
      some (joinPlanes (planesOf code) inLen ps) := by
  obtain ⟨hin, hfl, hcd, hol, hpl⟩ := h.fields
  have hsum : segHeader (planesOf code) + (planes.map List.length).foldl (· + ·) 0 = out := by
    rw [← List.sum_eq_foldl, ← codedData_length hP, h.out_eq]
  simp only [expandSegment, hin, hfl, hcd, hol, hpl]
  rw [if_neg h.valid, hcoded, if_neg (by decide), if_neg (by omega), coded_lengths hP hshort, if_neg (not_not.mpr hsum),
    coded_body hP h.out_eq, cutRuns_flatten, hplanes, if_pos (by simp)]
  simp [Function.comp_def]

end

/-! ### Bins (R204) -/

theorem binSize_le (bin : Nat) : binSize bin ≤ 4608 := by
  unfold binSize
  split <;> decide

theorem le_padLen (bin out : Nat) : out ≤ padLen bin out := by
  unfold padLen ceilDiv
  split
  case isTrue => exact le_rfl
  case isFalse hsize =>
    have := Nat.lt_div_mul_add (a := out + binSize bin - 1) (Nat.pos_of_ne_zero hsize)
    omega

theorem padLen_lt {out : Nat} (hout : out ≤ 4104) (bin : Nat) : padLen bin out < 65536 := by
  have := binSize_le bin
  unfold padLen ceilDiv
  split
  case isTrue => omega
  case isFalse =>
    have := Nat.div_mul_le_self (out + binSize bin - 1) (binSize bin)
    omega

/-! ### The statement -/

theorem storedSegment_eq (code bin : Nat) (bs : List Byte) :
    storedSegment code bin bs =
      segWire bs.length (1 + 2 * b2n (binSize bin != 0)) code (8 + bs.length) (padLen bin (8 + bs.length)) bs := by
  simp only [storedSegment, segWire, List.append_assoc]

/-- R192: a stored segment needs no tables. -/
theorem expandSegment_storedSegment (hcode : code ≤ 5) (hpos : 1 ≤ bs.length) (hle : bs.length ≤ 4096) (bin : Nat)
    (tables : Option (List (List Nat))) : expandSegment tables (storedSegment code bin bs) = some bs := by
  have hfits : SegFits bs.length (1 + 2 * b2n (binSize bin != 0)) code (8 + bs.length) (padLen bin (8 + bs.length)) bs :=
    { inLen_pos := hpos, inLen_le := hle, flags_lt := by cases binSize bin != 0 <;> decide, code_lt := by omega, out_eq := rfl,
      out_le := le_padLen bin _, pad_lt := padLen_lt (by omega) bin }
  rw [storedSegment_eq]
  exact hfits.expand_stored (by cases binSize bin != 0 <;> rfl) rfl

/-- The planes of a segment, each coded under its table. -/
def codedPlanes (code : Nat) (ts : List (List Nat)) (bs : List Byte) : List (List Byte) :=
  (List.range (planesOf code)).map fun p => codePlane (ts.getD p (List.replicate 256 8)) (planeBytes (planesOf code) p bs)

theorem codedPlanes_length (code : Nat) (ts : List (List Nat)) (bs : List Byte) : (codedPlanes code ts bs).length = planesOf code := by
  rw [codedPlanes, List.length_map, List.length_range]

/-- The bytes that a coded segment takes before its padding. -/
def codedLength (code : Nat) (ts : List (List Nat)) (bs : List Byte) : Nat :=
  segHeader (planesOf code) + ((codedPlanes code ts bs).map List.length).sum

theorem codeSegment_eq (code bin : Nat) (ts : List (List Nat)) (bs : List Byte) :
    codeSegment code bin ts bs =
      if codedLength code ts bs < 8 + bs.length then
        segWire bs.length (2 * b2n (binSize bin != 0)) code (codedLength code ts bs) (padLen bin (codedLength code ts bs))
          (codedData (planesOf code) (codedPlanes code ts bs))
      else storedSegment code bin bs := by
  simp only [codeSegment, codedLength, codedPlanes, codedData, segWire, List.append_assoc, List.sum_eq_foldl]

theorem planesOf_pos (h : 1 ≤ code) (h5 : code ≤ 5) : 0 < planesOf code := by
  interval_cases code <;> decide

theorem expandPlane_codedPlanes {ts : List (List Nat)} (hts : ts.length = planesOf code) (hcodes : ∀ t ∈ ts, IsCode t) :
    (List.range (planesOf code)).map (fun p =>
      expandPlane (ts.getD p []) (ceilDiv (bs.length - p) (planesOf code)) ((codedPlanes code ts bs).getD p [])) =
    ((List.range (planesOf code)).map fun p => planeBytes (planesOf code) p bs).map some := by
  rw [List.map_map]
  refine List.map_congr_left fun p hp => ?_
  have hlt : p < planesOf code := List.mem_range.mp hp
  have hlts : p < ts.length := hts ▸ hlt
  rw [List.getD_eq_getElem _ [] hlts, List.getD_eq_getElem _ [] (codedPlanes_length code ts bs ▸ hlt), ← planeBytes_length]
  simp only [codedPlanes, List.getElem_map, List.getElem_range, List.getD_eq_getElem _ _ hlts, Function.comp_apply]
  exact expandPlane_codePlane (hcodes _ (List.getElem_mem hlts)) _

/-- Settles O58: each plane decodes under the code of its own table, and the planes woven together are the segment. -/
theorem codedSegmentsExpandToThemselves : Obligations.CodedSegmentsExpandToThemselves := by
  intro code bin ts bs hcode h5 _ hts htables hpos hle
  refine ⟨?coded, expandSegment_storedSegment h5 hpos hle bin none⟩
  rw [codeSegment_eq]
  split
  case isFalse => exact expandSegment_storedSegment h5 hpos hle bin _
  case isTrue hshrinks =>
  have hcodes : ∀ t ∈ ts, IsCode t := fun t ht => by
    obtain ⟨hlength, hbounds, hkraft⟩ := htables t ht
    exact ⟨hlength, hbounds, by rwa [List.sum_eq_foldl]⟩
  have hplanes := codedPlanes_length code ts bs
  have hshort : ∀ q ∈ codedPlanes code ts bs, q.length < 65536 := fun q hq => by
    have := List.single_le_sum (fun _ _ => Nat.zero_le _) _ (List.mem_map_of_mem (f := List.length) hq)
    unfold codedLength at hshrinks
    omega
  have hfits : SegFits bs.length (2 * b2n (binSize bin != 0)) code (codedLength code ts bs) (padLen bin (codedLength code ts bs))
      (codedData (planesOf code) (codedPlanes code ts bs)) :=
    { inLen_pos := hpos, inLen_le := hle, flags_lt := by cases binSize bin != 0 <;> decide, code_lt := by omega
      out_eq := (codedData_length hplanes).symm, out_le := le_padLen bin _, pad_lt := padLen_lt (by omega) bin }
  rw [hfits.expand_coded (by cases binSize bin != 0 <;> rfl) hcode h5 hts hplanes hshort (expandPlane_codedPlanes hts hcodes),
    joinPlanes_planeBytes (planesOf_pos hcode h5)]

end Sys2Proof.Machine
end

section
/-! PROOF. The code lengths that a sample gives (ch. 5). -/

namespace Sys2Proof.Machine

variable {sample : List Byte} {f : Nat → Nat} {k x : Nat} {len : Tab Nat}

/-! ### Sums over the byte values -/

theorem sum_map_range (n : Nat) (g : Nat → Nat) : ((List.range n).map g).sum = ∑ i ∈ Finset.range n, g i := by
  induction n with
  | zero => rfl
  | succ n ih => rw [List.range_succ, List.map_append, List.sum_append, ih, Finset.sum_range_succ, List.map_singleton, List.sum_singleton]

/-- Every byte of a sample has one of the 256 values. -/
theorem sum_countByte (bs : List Byte) : ∑ v ∈ Finset.range 256, countByte bs v = bs.length := by
  induction bs with
  | nil => simp [countByte]
  | cons b bs ih =>
    have hone : ∑ v ∈ Finset.range 256, (if (b.toNat == v) = true then 1 else 0) = 1 := by
      simp [Finset.sum_ite_eq, b.isLt]
    simp only [countByte, List.countP_cons, Finset.sum_add_distrib, List.length_cons] at ih ⊢
    rw [ih, hone]

/-! ### The lengths before tightening (R189) -/

/-- The weight of a byte value in a sample. -/
def weightOf (sample : List Byte) (v : Nat) : Nat := 1 + countByte sample v * 3840 / sample.length

/-- The length that its weight gives a byte value. -/
def initialLen (sample : List Byte) (v : Nat) : Nat := 12 - Nat.log2 (weightOf sample v)

theorem weightOf_ne_zero (sample : List Byte) (v : Nat) : weightOf sample v ≠ 0 :=
  (Nat.add_pos_left Nat.one_pos _).ne'

theorem sum_weightOf_le (h : sample ≠ []) : ∑ v ∈ Finset.range 256, weightOf sample v ≤ 4096 := by
  have hpos : 0 < sample.length := List.length_pos_iff.mpr h
  have hshares : ∑ v ∈ Finset.range 256, countByte sample v * 3840 / sample.length ≤ 3840 := by
    refine Nat.le_of_mul_le_mul_right (?_ : _ * sample.length ≤ _) hpos
    calc (∑ v ∈ Finset.range 256, countByte sample v * 3840 / sample.length) * sample.length
        = ∑ v ∈ Finset.range 256, countByte sample v * 3840 / sample.length * sample.length := Finset.sum_mul ..
      _ ≤ ∑ v ∈ Finset.range 256, countByte sample v * 3840 := Finset.sum_le_sum fun _ _ => Nat.div_mul_le_self _ _
      _ = 3840 * sample.length := by rw [← Finset.sum_mul, sum_countByte, Nat.mul_comm]
  simp only [weightOf, Finset.sum_add_distrib, Finset.sum_const, Finset.card_range, smul_eq_mul]
  omega

theorem log2_weightOf_lt (sample : List Byte) (v : Nat) : Nat.log2 (weightOf sample v) < 12 := by
  rw [Nat.log2_lt (weightOf_ne_zero sample v)]
  have hshare : countByte sample v * 3840 / sample.length ≤ 3840 := by
    refine Nat.div_le_of_le_mul ?_
    exact Nat.mul_le_mul_right _ List.countP_le_length
  unfold weightOf
  omega

/-! ### Tightening -/

/-- Lengths of the 256 byte values, from 1 to 12, whose codes take `k` of the 4,096 codes of 12 bits. -/
structure Lengths (f : Nat → Nat) (k : Nat) : Prop where
  pos : ∀ i < 256, 1 ≤ f i
  le : ∀ i < 256, f i ≤ 12
  beyond : ∀ i, 256 ≤ i → f i = 0
  sum_eq : ∑ i ∈ Finset.range 256, 2 ^ (12 - f i) = k
  fits : k ≤ 4096

/-- A length less by one takes as many codes again. -/
theorem Lengths.shorten (h : Lengths f k) (hx : 1 < f x) (hfits : k + 2 ^ (12 - f x) ≤ 4096) :
    Lengths (Function.update f x (f x - 1)) (k + 2 ^ (12 - f x)) := by
  have hlt : x < 256 := by
    by_contra hge
    have := h.beyond x (by omega)
    omega
  have hle := h.le x hlt
  refine ⟨fun i hi => ?_, fun i hi => ?_, fun i hi => ?_, ?_, hfits⟩
  · rcases eq_or_ne i x with rfl | hne
    · rw [Function.update_self]; omega
    · rw [Function.update_of_ne hne]; exact h.pos i hi
  · rcases eq_or_ne i x with rfl | hne
    · rw [Function.update_self]; omega
    · rw [Function.update_of_ne hne]; exact h.le i hi
  · rw [Function.update_of_ne (by omega)]; exact h.beyond i hi
  · have hmem : x ∈ Finset.range 256 := Finset.mem_range.mpr hlt
    have hrest : ∑ i ∈ (Finset.range 256).erase x, 2 ^ (12 - Function.update f x (f x - 1) i) = ∑ i ∈ (Finset.range 256).erase x, 2 ^ (12 - f i) :=
      Finset.sum_congr rfl fun i hi => by rw [Function.update_of_ne (Finset.ne_of_mem_erase hi)]
    have hdouble : 2 ^ (12 - (f x - 1)) = 2 ^ (12 - f x) + 2 ^ (12 - f x) := by
      rw [show 12 - (f x - 1) = 12 - f x + 1 by omega, Nat.pow_succ, Nat.mul_two]
    have hall : 2 ^ (12 - f x) + ∑ i ∈ (Finset.range 256).erase x, 2 ^ (12 - f i) = k :=
      (Finset.add_sum_erase _ (fun i => 2 ^ (12 - f i)) hmem).trans h.sum_eq
    rw [← Finset.add_sum_erase _ _ hmem, Function.update_self, hrest, hdouble, Nat.add_assoc, hall, Nat.add_comm]

theorem getC_setC_eq_update {v : Nat} (hv : v ≠ 0) : Tab.getC 0 (Tab.setC 0 len x v) = Function.update (Tab.getC 0 len) x v := by
  have hset : Tab.setC 0 len x v = Tab.insert len x v := if_neg hv
  funext i
  rcases eq_or_ne i x with rfl | hne
  · rw [Function.update_self, hset, Tab.getC, Tab.get, Tab.find?_insert_same]
    rfl
  · rw [Function.update_of_ne hne, hset, Tab.getC, Tab.get, Tab.find?_insert_other _ _ hne]
    rfl

/-- The tightening loop keeps what its lengths are, in whatever order it takes the values. -/
theorem tighten_lengths (xs : List Nat) (h : Lengths (Tab.getC 0 len) k) : ∃ k', Lengths (Tab.getC 0 (tighten len xs k)) k' := by
  induction xs generalizing len k with
  | nil => exact ⟨k, h⟩
  | cons x xs ih =>
    unfold tighten
    simp only
    split
    case isTrue hmore =>
      obtain ⟨hlong, hfits⟩ := hmore
      exact ih (getC_setC_eq_update (Nat.sub_ne_zero_of_lt hlong) ▸ h.shorten hlong hfits)
    case isFalse => exact ih h

/-! ### The lengths of a sample -/

/-- A table of the values of a function at consecutive keys. -/
theorem find?_map_range' (g : Nat → Nat) (a n i : Nat) :
    Tab.find? ((List.range' a n).map fun j => (j, g j)) i = if a ≤ i ∧ i < a + n then some (g i) else none := by
  induction n generalizing a with
  | zero => rw [if_neg (by omega)]; rfl
  | succ n ih =>
    rw [List.range'_succ, List.map_cons, Tab.find?, ih]
    rcases Nat.lt_trichotomy i a with hlt | rfl | hgt
    · rw [if_pos hlt, if_neg (by omega)]
    · rw [if_neg (Nat.lt_irrefl _), if_pos rfl, if_pos (by omega)]
    · rw [if_neg (by omega), if_neg (by omega)]
      exact if_congr (by omega) rfl rfl

/-- The table that tightening begins from. -/
def initialTab (sample : List Byte) : Tab Nat := (List.range 256).map fun v => (v, initialLen sample v)

theorem getC_initialTab (sample : List Byte) (v : Nat) :
    Tab.getC 0 (initialTab sample) v = if v < 256 then initialLen sample v else 0 := by
  rw [Tab.getC, Tab.get, initialTab, List.range_eq_range', find?_map_range']
  by_cases hv : v < 256 <;> simp [hv]

theorem initialTab_lengths (h : sample ≠ []) :
    Lengths (Tab.getC 0 (initialTab sample)) (((List.range 256).map fun v => 2 ^ (12 - initialLen sample v)).sum) := by
  have hlog := log2_weightOf_lt sample
  refine ⟨fun v hv => ?_, fun v hv => ?_, fun v hv => ?_, ?_, ?_⟩
  · rw [getC_initialTab, if_pos hv, initialLen]
    have := hlog v
    omega
  · rw [getC_initialTab, if_pos hv, initialLen]
    omega
  · rw [getC_initialTab, if_neg (by omega)]
  · rw [sum_map_range]
    exact Finset.sum_congr rfl fun v hv => by rw [getC_initialTab, if_pos (Finset.mem_range.mp hv)]
  · rw [sum_map_range]
    refine le_trans (Finset.sum_le_sum fun v _ => ?_) (sum_weightOf_le h)
    rw [initialLen, Nat.sub_sub_self (hlog v).le]
    exact Nat.log2_self_le (weightOf_ne_zero sample v)

/-- The byte values by weight, the heaviest first. -/
def weightOrder (sample : List Byte) : List Nat :=
  let w := ((List.range 256).map (countByte sample)).map fun c => 1 + c * 3840 / sample.length
  (List.range 256).foldl (fun a x => insertByWeight (fun i => w.getD i 0) x a) []

/-- A sample gives a plane that is stored, or the lengths that tightening leaves. -/
theorem codeLengths_eq (sample : List Byte) : codeLengths sample = List.replicate 256 8 ∨
    codeLengths sample = (List.range 256).map (Tab.getC 0 (tighten (initialTab sample) (weightOrder sample)
      ((List.range 256).map fun v => 2 ^ (12 - initialLen sample v)).sum)) := by
  unfold codeLengths
  simp only
  split
  · exact .inl rfl
  · have htable : (List.range 256).map (fun i => (i, ((((List.range 256).map (countByte sample)).map
        fun c => 1 + c * 3840 / sample.length).map fun x => 12 - Nat.log2 x).getD i 0)) = initialTab sample :=
      List.map_congr_left fun v hv => by
        have hv : v < 256 := List.mem_range.mp hv
        rw [List.getD_eq_getElem _ _ (by simpa using hv)]
        simp only [List.getElem_map, List.getElem_range]
        rfl
    right
    have hsum : ((((List.range 256).map (countByte sample)).map fun c => 1 + c * 3840 / sample.length).map fun x => 12 - Nat.log2 x).map
        (fun l => 2 ^ (12 - l)) = (List.range 256).map fun v => 2 ^ (12 - initialLen sample v) := by
      rw [List.map_map, List.map_map, List.map_map]
      exact List.map_congr_left fun _ _ => rfl
    rw [htable, hsum, ← List.sum_eq_foldl, weightOrder]

/-! ### The statement -/

/-- Settles O57: weights of a sum of at most 4,096 give lengths that fit, and tightening keeps them so. -/
theorem sampleLengthsMakeACode : Obligations.SampleLengthsMakeACode := by
  intro sample hne
  rw [← List.sum_eq_foldl]
  rcases codeLengths_eq sample with hstored | hcoded
  · rw [hstored, List.map_replicate, List.sum_replicate]
    exact ⟨List.length_replicate, fun l hl => by rw [List.eq_of_mem_replicate hl]; decide, by decide⟩
  · obtain ⟨k, h⟩ := tighten_lengths (weightOrder sample) (initialTab_lengths hne)
    rw [hcoded, List.map_map, sum_map_range]
    refine ⟨by simp, fun l hl => ?_, h.sum_eq.trans_le h.fits⟩
    obtain ⟨v, hv, rfl⟩ := List.mem_map.mp hl
    exact ⟨h.pos v (List.mem_range.mp hv), h.le v (List.mem_range.mp hv)⟩

end Sys2Proof.Machine
end

section
/-! PROOF. Insertion into a top-k list (ch. 6). -/

namespace Sys2Proof.Machine

variable {k : Nat} {rs : List Rec} {a b c r x : Rec}

/-! ### The canonical order (R214) -/

theorem before_iff : a.before b = true ↔ a.key < b.key ∨ a.key = b.key ∧ a.id < b.id := by
  simp [Rec.before]

theorem not_before_iff : b.before a = false ↔ a.key < b.key ∨ a.key = b.key ∧ a.id ≤ b.id := by
  rw [← Bool.not_eq_true, before_iff]
  omega

theorem not_before_trans (hab : b.before a = false) (hbc : c.before b = false) : c.before a = false := by
  rw [not_before_iff] at *
  omega

theorem inOrder_iff_pairwise : inOrder rs = true ↔ rs.Pairwise fun a b => b.before a = false := by
  induction rs with
  | nil => simp [inOrder]
  | cons a rs ih => cases rs with
    | nil => simp [inOrder]
    | cons b rs =>
      rw [inOrder, Bool.and_eq_true, ih, List.pairwise_cons (a := a), Bool.not_eq_true', List.forall_mem_cons]
      refine ⟨fun ⟨hab, hrest⟩ => ⟨⟨hab, fun c hc => not_before_trans hab ((List.pairwise_cons.mp hrest).1 c hc)⟩, hrest⟩,
        fun ⟨⟨hab, _⟩, hrest⟩ => ⟨hab, hrest⟩⟩

/-! ### Where the new record goes -/

/-- The records with the new one at its place, before k is applied. -/
def placed (rs : List Rec) (r : Rec) : List Rec := rs.filter (fun x => x.before r) ++ r :: rs.filter (fun x => !x.before r)

theorem insertRec_eq_take (k : Nat) (rs : List Rec) (r : Rec) : insertRec k rs r = (placed rs r).take k := rfl

theorem mem_placed : x ∈ placed rs r ↔ x = r ∨ x ∈ rs := by
  simp only [placed, List.mem_append, List.mem_cons, List.mem_filter]
  cases x.before r <;> simp [or_comm]

theorem placed_length (rs : List Rec) (r : Rec) : (placed rs r).length = rs.length + 1 := by
  rw [placed, List.length_append, List.length_cons, ← List.countP_eq_length_filter, ← List.countP_eq_length_filter, ← Nat.add_assoc]
  have hcount := (List.length_eq_countP_add_countP (fun x => x.before r) (l := rs)).symm
  simpa using hcount

/-- What goes before the record precedes it, and it precedes nothing that goes after it. -/
theorem placed_pairwise (h : rs.Pairwise fun a b => b.before a = false) : (placed rs r).Pairwise fun a b => b.before a = false := by
  rw [placed, List.pairwise_append, List.pairwise_cons]
  refine ⟨h.filter _, ⟨fun y hy => ?_, h.filter _⟩, fun x hx y hy => ?_⟩
  · simpa using (List.mem_filter.mp hy).2
  · have hxr := before_iff.mp (List.mem_filter.mp hx).2
    rw [not_before_iff]
    rcases List.mem_cons.mp hy with rfl | hy
    · omega
    · have hry := not_before_iff.mp (by simpa using (List.mem_filter.mp hy).2)
      omega

/-- A record that k keeps out is preceded by every record of the list. -/
theorem mem_insertRec_before (hout : r ∉ insertRec k rs r) (hx : x ∈ insertRec k rs r) : x.before r = true := by
  rw [insertRec_eq_take, placed, List.take_append] at hout hx
  rcases List.mem_append.mp hx with hx | hx
  · exact (List.mem_filter.mp (List.mem_of_mem_take hx)).2
  · refine absurd (List.mem_append_right _ ?_) hout
    cases hn : k - (rs.filter fun x => x.before r).length with
    | zero => simp [hn] at hx
    | succ n => simp

/-- Settles O16: the record goes between those that precede it and the rest, and k cuts the list at its end. -/
theorem insertionKeepsTheOrder : Obligations.InsertionKeepsTheOrder := by
  intro k rs r hrs
  refine ⟨?order, ?length, fun x hx => mem_placed.mp (List.mem_of_mem_take hx), fun hout x hx => ?worse⟩
  case order =>
    exact inOrder_iff_pairwise.mpr ((placed_pairwise (inOrder_iff_pairwise.mp hrs)).sublist (List.take_sublist _ _))
  case length => rw [insertRec_eq_take, List.length_take, placed_length]
  case worse =>
    have := before_iff.mp (mem_insertRec_before hout hx)
    rw [not_before_iff]
    omega

end Sys2Proof.Machine
end

section
/-! PROOF. The directory: its buckets, and the entries that transactions leave (ch. 11). -/

namespace Sys2Proof.Machine

variable {s : State} {ws : List DirWay} {tag other : Nat} {e : DirEntry}

/-! ### Buckets and tags (R386) -/

theorem bucketOf_lt (line : Nat) : bucketOf line < 2 ^ 25 :=
  Nat.xor_lt_two_pow (Nat.mod_lt _ (by decide)) ((Nat.mod_lt _ (by decide)).trans (by decide : 2 ^ 14 < 2 ^ 25))

theorem tagOf_lt (line : Nat) : tagOf line < 2 ^ 14 := Nat.mod_lt _ (by decide)

theorem lineOf_bucketOf {line : Nat} (h : line < 2 ^ 39) : lineOf (bucketOf line) (tagOf line) = line := by
  have hxor : bucketOf line ^^^ tagOf line = line % 2 ^ 25 := Nat.xor_xor_cancel_right _ _
  rw [lineOf, hxor, tagOf]
  omega

/-! ### The ways of a bucket (R390) -/

/-- The entry that a bucket holds for a tag. -/
def entryAt (ws : List DirWay) (tag : Nat) : Option DirEntry := (ws.find? fun w => w.tag == tag).map DirWay.entry

/-- Changes that leave tags and entries alone do not change what a bucket holds. -/
theorem entryAt_map {f : DirWay → DirWay} (htag : ∀ w, (f w).tag = w.tag) (hentry : ∀ w, (f w).entry = w.entry) (tag : Nat) :
    entryAt (ws.map f) tag = entryAt ws tag := by
  have hp : ((fun w : DirWay => w.tag == tag) ∘ f) = fun w => w.tag == tag := funext fun w => by simp [htag]
  rw [entryAt, List.find?_map, hp, Option.map_map, entryAt, show DirWay.entry ∘ f = DirWay.entry from funext hentry]

theorem entryAt_touchWays (ws : List DirWay) (tag old t : Nat) : entryAt (touchWays ws tag old) t = entryAt ws t :=
  entryAt_map (fun w => by split_ifs <;> rfl) (fun w => by split_ifs <;> rfl) t

theorem entryAt_append (vs : List DirWay) : entryAt (ws ++ vs) tag = (entryAt ws tag).or (entryAt vs tag) := by
  rw [entryAt, List.find?_append, Option.map_or, ← entryAt, ← entryAt]

/-- The ways with a tag's entry changed. -/
theorem entryAt_update (ws : List DirWay) (tag t : Nat) (e : DirEntry) :
    entryAt (ws.map fun x => if x.tag = tag then { x with entry := e } else x) t =
      if t = tag then (entryAt ws t).map fun _ => e else entryAt ws t := by
  have hp : ((fun w : DirWay => w.tag == t) ∘ fun x : DirWay => if x.tag = tag then { x with entry := e } else x) = fun w => w.tag == t :=
    funext fun w => by simp only [Function.comp_apply]; split_ifs <;> rfl
  rw [entryAt, List.find?_map, hp, Option.map_map, entryAt]
  cases hfind : ws.find? fun w => w.tag == t with
  | none => simp
  | some w =>
    have hw : w.tag = t := by simpa using List.find?_some hfind
    simp only [Option.map_some, Function.comp_apply, hw]
    split_ifs <;> rfl

theorem putWay_of_i (h : e.state = .i) : putWay ws tag e = ws.filter fun w => w.tag != tag := if_pos h

/-- A bucket holds for a tag the entry last written, and for every other tag what it held. -/
theorem entryAt_putWay (h : e.state ≠ .i) (t : Nat) : entryAt (putWay ws tag e) t = if t = tag then some e else entryAt ws t := by
  unfold putWay
  rw [if_neg h]
  split
  case h_1 w hw =>
    rw [entryAt_touchWays, entryAt_update]
    refine ite_congr rfl (fun heq => ?_) fun _ => rfl
    rw [heq, entryAt, hw]
    rfl
  case h_2 hnone =>
    simp only [entryAt_touchWays, entryAt_append]
    split_ifs with heq
    · rw [heq, entryAt, hnone]
      simp [entryAt]
    · simp [entryAt, Ne.symm heq]

theorem entryAt_filter_self (ws : List DirWay) (tag : Nat) : (ws.filter fun w => w.tag != tag).find? (fun w => w.tag == tag) = none := by
  rw [List.find?_eq_none]
  intro w hw
  simpa using (List.mem_filter.mp hw).2

theorem find?_filter_other (h : other ≠ tag) : (ws.filter fun w => w.tag != tag).find? (fun w => w.tag == other) = ws.find? fun w => w.tag == other := by
  rw [List.find?_filter]
  congr 1
  funext w
  by_cases hw : w.tag = other <;> simp [hw, h]

/-- Settles O31: a bucket is a table by tag, and the exclusive or that gives the bucket undoes itself. -/
theorem directoryKeepsEveryLine : Obligations.DirectoryKeepsEveryLine := by
  refine ⟨fun line h => ⟨lineOf_bucketOf h, tagOf_lt line, bucketOf_lt line⟩, fun ws tag e he => ?written, fun ws tag e he => ?cleared,
    fun ws tag other e hne => ?others⟩
  case written => exact (entryAt_putWay he tag).trans (if_pos rfl)
  case cleared => rw [putWay_of_i he, entryAt_filter_self]
  case others =>
    by_cases he : e.state = .i
    · rw [putWay_of_i he, find?_filter_other hne]
    · exact (entryAt_putWay he other).trans (if_neg hne)

/-! ### The entry a transaction leaves (Table 11.5) -/

theorem DirEntry.mem_add (e : DirEntry) (a : Nat) : a ∈ (e.add a).holders ∨ (e.add a).overflow = true := by
  unfold DirEntry.add
  split
  · simp_all
  · split <;> simp

theorem DirEntry.mem_add_of_mem {a b : Nat} (h : b ∈ e.holders) : b ∈ (e.add a).holders := by
  unfold DirEntry.add
  split
  · exact h
  · split <;> simp [h]

@[simp] theorem DirEntry.add_state (e : DirEntry) (a : Nat) : (e.add a).state = e.state := by
  unfold DirEntry.add
  split
  · rfl
  · split <;> rfl

theorem DirEntry.not_mem_remove (e : DirEntry) (a : Nat) : a ∉ (e.remove a).holders := by
  unfold DirEntry.remove
  simp only
  split
  · simp [DirEntry.absent]
  · simp

theorem DirEntry.mem_remove_of_ne {a b : Nat} (h : b ∈ e.holders) (hne : b ≠ a) : b ∈ (e.remove a).holders := by
  have hb : b ∈ e.holders.filter fun h => h != a := List.mem_filter.mpr ⟨h, by simpa using hne⟩
  unfold DirEntry.remove
  simp only
  split
  case isTrue hempty => exact absurd hb (List.isEmpty_iff.mp hempty ▸ List.not_mem_nil)
  case isFalse => exact hb

section
variable {r : SeamReq} {a t : Nat} (hwho : r.who = .agent a t)
include hwho

theorem finalEntry_rdCur (hk : r.kind = .rdCur) :
    finalEntry s r e = if e.state = .m ∧ e.holders.contains a = false then { e with state := .s } else e := by
  simp [finalEntry, hk, hwho, SeamWho.agentId]

theorem finalEntry_rdS (hk : r.kind = .rdS) :
    finalEntry s r e = if e.state = .i then freshEntry s r.line .s [a]
      else if e.state = .s then e.add a else ({ e with state := .s } : DirEntry).add a := by
  cases hst : e.state <;> simp [finalEntry, hk, hwho, SeamWho.agentId, hst]

theorem finalEntry_rdM (hk : r.kind = .rdM ∨ r.kind = .invM) :
    finalEntry s r e =
      if e.state = .i then freshEntry s r.line .m [a] else { e with state := .m, holders := [a], overflow := false } := by
  rcases hk with hk | hk <;> simp [finalEntry, hk, hwho, SeamWho.agentId]

theorem finalEntry_evict (hk : r.kind = .evict) :
    finalEntry s r e = if e.state = .m then (if e.holders.contains a then DirEntry.absent else e)
      else if e.state = .s then (if e.overflow then e else e.remove a) else e := by
  cases hst : e.state <;> simp [finalEntry, hk, hwho, SeamWho.agentId, hst]
end

theorem finalEntry_wrCur {r : SeamReq} (hk : r.kind = .wrCur ∨ r.kind = .atomic) : finalEntry s r e = DirEntry.absent := by
  rcases hk with hk | hk <;> simp [finalEntry, hk]

theorem finalEntry_wrBk {r : SeamReq} {metaS : Bool} (hk : r.kind = .wrBk metaS) :
    finalEntry s r e = if metaS then { e with state := .s } else DirEntry.absent := by
  simp [finalEntry, hk]

/-- Settles O30: Table 11.5, by the state of the entry. -/
theorem directoryFollowsItsTable : Obligations.DirectoryFollowsItsTable := by
  intro s r e a tag hwho
  refine ⟨fun hi _ => ?invalid, fun hs => ?shared, fun o hm ho hov => ?modified⟩
  case invalid =>
    refine ⟨fun hk => ?_, fun hk => ?_, fun hk => ?_, fun hk => ?_, fun hk => ?_⟩
    · simp [finalEntry_rdCur hwho hk, hi]
    · simp [finalEntry_rdS hwho hk, hi, freshEntry]
    · simp [finalEntry_rdM hwho hk, hi, freshEntry]
    · simp [finalEntry_wrCur hk, DirEntry.absent]
    · simp [finalEntry_evict hwho hk, hi]
  case shared =>
    refine ⟨fun hk => ?_, fun hk => ?_, fun hk => ?_, fun hk => finalEntry_wrCur hk, fun hk hov => ?_, fun hk hov => ?_⟩
    · simp [finalEntry_rdCur hwho hk, hs]
    · rw [finalEntry_rdS hwho hk, if_neg (by simp [hs]), if_pos hs]
      exact ⟨(e.add_state a).trans hs, e.mem_add a, fun b hb => DirEntry.mem_add_of_mem hb⟩
    · simp [finalEntry_rdM hwho hk, hs]
    · simp [finalEntry_evict hwho hk, hs, hov]
    · rw [finalEntry_evict hwho hk, if_neg (by simp [hs]), if_pos hs, if_neg (by simp [hov])]
      exact ⟨e.not_mem_remove a, fun b hb hne => DirEntry.mem_remove_of_ne hb hne⟩
  case modified =>
    refine ⟨fun hk hne => ?_, fun hk heq => ?_, fun hk hne => ?_, fun hk heq => ?_, fun hk => ?_, fun hk => finalEntry_wrCur hk,
      fun hk => ?_, fun hk => ?_, fun hk hne => ?_, fun hk heq => ?_⟩
    · simp [finalEntry_rdCur hwho hk, hm, ho, hne.symm]
    · simp [finalEntry_rdCur hwho hk, hm, ho, heq]
    · simp [finalEntry_rdS hwho hk, hm, DirEntry.add, ho, hne.symm]
    · simp [finalEntry_rdS hwho hk, hm, DirEntry.add, ho, heq]
    · simp [finalEntry_rdM hwho hk, hm]
    · simp [finalEntry_wrBk hk, ho]
    · simp [finalEntry_wrBk hk]
    · simp [finalEntry_evict hwho hk, hm, ho, hne.symm]
    · simp [finalEntry_evict hwho hk, hm, ho, heq]

end Sys2Proof.Machine
end

section
/-! PROOF. A write to a field, by its access type (ch. 0 and 16). -/

namespace Sys2Proof.Machine

variable {s : State} {page v old i n lo len w x y : Nat} {cl : List (Field × Nat × Nat)} {f : Field}

/-! ### Bits of a field -/

theorem bit_mod_two_pow (h : i < n) : bit (x % 2 ^ n) i = bit x i := by
  rw [bit_eq_testBit, bit_eq_testBit, Nat.testBit_mod_two_pow, decide_eq_true h, Bool.true_and]

theorem bit_and (x y i : Nat) : bit (x &&& y) i = (bit x i && bit y i) := by
  simp only [bit_eq_testBit, Nat.testBit_and]

theorem bit_or (x y i : Nat) : bit (x ||| y) i = (bit x i || bit y i) := by
  simp only [bit_eq_testBit, Nat.testBit_or]

/-- The complement of a field of `n` bits. -/
theorem bit_xor_ones (h : i < n) : bit (x ^^^ (2 ^ n - 1)) i = !bit x i := by
  simp only [bit_eq_testBit, Nat.testBit_xor, Nat.testBit_two_pow_sub_one, decide_eq_true h, Bool.xor_true]

theorem bits_setBits_outside (w lo len v : Nat) {l n : Nat} (h : l + n ≤ lo ∨ lo + len ≤ l) : bits (setBits w lo len v) l n = bits w l n :=
  h.elim (bits_setBits_below w lo len v l n) (bits_setBits_above w lo len v l n)

/-! ### One field (Table 0.5) -/

theorem merged_both (hv : v < 2 ^ 64) : merged .both old v = v := Nat.mod_eq_of_lt hv

theorem written_both (hv : v < 2 ^ 64) : written .both v = v := Nat.mod_eq_of_lt hv

/-- What a write of a whole register leaves of a field that takes the written value: RW, and RWL on a page that is not locked. -/
theorem writeField_rw (hv : v < 2 ^ 64) (h : f.access = .rw ∨ f.access = .rwl ∧ pageLocked s page = false) :
    (writeField s page .both v (old, cl) f).1 = setBits old f.lo f.len (nearest (bits v f.lo f.len) (legalRanges s f)) := by
  obtain h | ⟨h, hopen⟩ := h
  · simp [writeField, touches, h, merged_both hv]
  · simp [writeField, touches, h, hopen, merged_both hv]

theorem writeField_locked (h : f.access = .rwl) (hlocked : pageLocked s page = true) :
    (writeField s page .both v (old, cl) f).1 = old := by
  simp [writeField, touches, h, hlocked]

theorem writeField_stores_nothing (h : f.access = .ro ∨ f.access = .wo ∨ f.access = .rws) :
    (writeField s page .both v (old, cl) f).1 = old := by
  rcases h with h | h | h <;> simp [writeField, touches, h]

theorem writeField_w1c (hv : v < 2 ^ 64) (h : f.access = .w1c) :
    (writeField s page .both v (old, cl) f).1 =
      setBits old f.lo f.len (bits old f.lo f.len &&& (bits v f.lo f.len ^^^ (2 ^ f.len - 1))) := by
  simp [writeField, touches, h, written_both hv]

theorem writeField_w1s (hv : v < 2 ^ 64) (h : f.access = .w1s) :
    (writeField s page .both v (old, cl) f).1 = setBits old f.lo f.len (bits old f.lo f.len ||| bits v f.lo f.len) := by
  simp [writeField, touches, h, written_both hv]

/-- Whatever the access type, the register is as it was, or has the field's bits replaced. -/
theorem writeField_eq (s : State) (page v old : Nat) (cl : List (Field × Nat × Nat)) (f : Field) :
    (writeField s page .both v (old, cl) f).1 = old ∨
      ∃ n, (writeField s page .both v (old, cl) f).1 = setBits old f.lo f.len n := by
  cases h : f.access with
  | ro => exact .inl (writeField_stores_nothing (.inl h))
  | wo => exact .inl (writeField_stores_nothing (.inr (.inl h)))
  | rws => exact .inl (writeField_stores_nothing (.inr (.inr h)))
  | rw => exact .inr ⟨_, by simp [writeField, touches, h]; rfl⟩
  | rwl =>
    cases hlocked : pageLocked s page with
    | true => exact .inl (writeField_locked h hlocked)
    | false => exact .inr ⟨_, by simp [writeField, touches, h, hlocked]; rfl⟩
  | w1c => exact .inr ⟨_, by simp [writeField, touches, h]; rfl⟩
  | w1s => exact .inr ⟨_, by simp [writeField, touches, h]; rfl⟩

/-- Settles O45: a write replaces the bits of its field, by the access type of the field. -/
theorem fieldsFollowTheirAccess : Obligations.FieldsFollowTheirAccess := by
  intro s page v old cl f _ _ hv
  refine ⟨fun lo len hout => ?frame, fun h => ?rw, writeField_locked, writeField_stores_nothing, fun h i hi => ?w1c, fun h i hi => ?w1s⟩
  case frame =>
    obtain heq | ⟨n, heq⟩ := writeField_eq s page v old cl f
    · rw [heq]
    · rw [heq, bits_setBits_outside _ _ _ _ hout]
  case rw => rw [writeField_rw hv h, bits_setBits_same]
  case w1c => rw [writeField_w1c hv h, bits_setBits_same, bit_mod_two_pow hi, bit_and, bit_xor_ones hi]
  case w1s => rw [writeField_w1s hv h, bits_setBits_same, bit_mod_two_pow hi, bit_or]

end Sys2Proof.Machine
end

section
/-! PROOF. How commands answer, and the fields of registers they set. -/

namespace Sys2Proof.Machine

variable {s t u : State} {page off page' off' inst v : Nat} {r : FRef}

/-- Commands that leave the same state before the aggregator follows answer the same. -/
theorem next_settle_congr (h : t = u) :
    (Host.Outcome.next (settle t) : Host.Outcome State Fault Refusal) = .next (settle u) := by rw [h]

/-! ### Registers -/

theorem regKey_ne_of_page (ho : off < 4096) (ho' : off' < 4096) (h : page ≠ page') : regKey page off ≠ regKey page' off' := by
  unfold regKey
  omega

theorem regKey_ne_of_off (h : off / 8 ≠ off' / 8) : regKey page off ≠ regKey page' off' ∨ page ≠ page' := by
  unfold regKey
  omega

/-- A register that a field of 64 bits fills holds what was written. -/
theorem rawReg_setF_whole (h : Tab.wf regReset s.regs = true) (hlo : r.lo = 0) (hlen : r.len = 64) :
    rawReg (setF s r inst v) (r.page + inst) r.off = BitVec.ofNat 64 v := by
  rw [setF, rawReg_setReg_same _ _ _ _ h, setBits, hlo, hlen]
  refine BitVec.eq_of_toNat_eq ?_
  have := (rawReg s (r.page + inst) r.off).isLt
  simp only [BitVec.toNat_ofNat]
  omega

theorem rawReg_setF_other (h : Tab.wf regReset s.regs = true) (hk : regKey page off ≠ regKey (r.page + inst) r.off) :
    rawReg (setF s r inst v) page off = rawReg s page off := rawReg_setReg_other _ _ _ _ _ _ h hk

/-- A field of 64 bits reads as its register. -/
theorem getF_whole (hlo : r.lo = 0) (hlen : r.len = 64) : getF s r inst = (rawReg s (r.page + inst) r.off).toNat := by
  have := (rawReg s (r.page + inst) r.off).isLt
  rw [getF, bits, hlo, hlen]
  omega

@[simp] theorem rawReg_settle (s : State) (page off : Nat) : rawReg (settle s) page off = rawReg s page off := rfl

end Sys2Proof.Machine
end

section
/-! PROOF. Counters, samples and windows of the Tally (ch. 17). -/

namespace Sys2Proof.Machine

variable {s : State} {p n v d : Nat}

/-! ### Writes that a block follows -/

theorem tallyCfg_of_same_owner
    (h : cfgF (writeByAccess s (tallyPage p) (0x100 + 8 * n) .both v).1 p n F.TALLY_CFGn_tid = cfgF s p n F.TALLY_CFGn_tid) :
    (tallyCfg s p n .both v).1 = (writeByAccess s (tallyPage p) (0x100 + 8 * n) .both v).1 := by
  simp only [tallyCfg, if_pos h]

theorem tallyCfg_of_new_owner
    (h : cfgF (writeByAccess s (tallyPage p) (0x100 + 8 * n) .both v).1 p n F.TALLY_CFGn_tid ≠ cfgF s p n F.TALLY_CFGn_tid) :
    (tallyCfg s p n .both v).1 = clearCounter (writeByAccess s (tallyPage p) (0x100 + 8 * n) .both v).1 p n := by
  simp only [tallyCfg, if_neg h]

theorem tallySampCtrl_of_same_owner
    (h : getF (writeByAccess s (tallyPage p) 0x788 .both v).1 F.TALLY_SAMP_CTRL_tid p = getF s F.TALLY_SAMP_CTRL_tid p) :
    (tallySampCtrl s p .both v).1 = (writeByAccess s (tallyPage p) 0x788 .both v).1 := by
  simp only [tallySampCtrl, if_pos h]

/-- R606: the records of the owner before are lost. -/
theorem tallySampCtrl_of_new_owner
    (h : getF (writeByAccess s (tallyPage p) 0x788 .both v).1 F.TALLY_SAMP_CTRL_tid p ≠ getF s F.TALLY_SAMP_CTRL_tid p)
    (hrecords : (sampler s p).records ≠ []) :
    (tallySampCtrl s p .both v).1 =
      raise (addSatF (updSampler (writeByAccess s (tallyPage p) 0x788 .both v).1 p (fun x => { x with records := [] }))
        F.TALLY_SAMP_STATUS_lost p (sampler s p).records.length) (tallyPage p) 2 := by
  simp only [tallySampCtrl, if_neg h, if_neg (mt List.length_eq_zero_iff.mp hrecords)]

theorem tallyPop_of_manager (h : getF s F.TALLY_SAMP_CTRL_tid p = 0) :
    (tallyPop s p .both 1).1 = updSampler s p (fun x => { x with records := x.records.drop 1 }) := by
  simp [tallyPop, h, written, bit]

theorem tallyPop_of_tenant (h : getF s F.TALLY_SAMP_CTRL_tid p ≠ 0) : (tallyPop s p .both 1).1 = s := by
  simp [tallyPop, h]

theorem bwCtrl_restarts (hen : getF (writeByAccess s (bwPage d) 0x100 .both v).1 F.TALLY_BW_CTRL_en d = 1)
    (hnew : rawReg (writeByAccess s (bwPage d) 0x100 .both v).1 (bwPage d) 0x100 ≠ rawReg s (bwPage d) 0x100) :
    (bwCtrl s d .both v).1 = bwRestart (writeByAccess s (bwPage d) 0x100 .both v).1 d := by
  simp only [bwCtrl, if_pos (And.intro hen hnew)]

theorem bwCtrl_of_disabled (hen : getF (writeByAccess s (bwPage d) 0x100 .both v).1 F.TALLY_BW_CTRL_en d ≠ 1) :
    (bwCtrl s d .both v).1 = (writeByAccess s (bwPage d) 0x100 .both v).1 := by
  simp only [bwCtrl, if_neg fun h : _ ∧ _ => hen h.1]

/-! ### Snapshots (R602) -/

/-- The copy of one counter into its snapshot register. -/
def snapshotOne (p : Nat) (a : State) (n : Nat) : State :=
  setF a (F.TALLY_SNAPn_value.shift (8 * n)) p (getF a (F.TALLY_CNTn_value.shift (8 * n)) p)

theorem snapshotAll_eq (s : State) (p : Nat) : snapshotAll s p = (List.range 64).foldl (snapshotOne p) s := rfl

/-- Copying the first counters changes their snapshot registers alone, and only the register table of the state. -/
structure Copied (s t : State) (p m : Nat) : Prop where
  regsOk : t.RegsOk
  copied : ∀ n < m, rawReg t (tallyPage p) (0x500 + 8 * n) = rawReg s (tallyPage p) (0x300 + 8 * n)
  others : ∀ page off, off < 4096 → (page ≠ tallyPage p ∨ off < 0x500 ∨ 0x700 ≤ off) → rawReg t page off = rawReg s page off
  tally_eq : t.tally = s.tally
  memory : s.SameMemory t

theorem tallyPage_eq (p : Nat) : tallyPage p = 512 + p := rfl

theorem snapshotOne_rawReg_other {a : State} {page off : Nat} (h : a.RegsOk) (ho : off < 4096) (hn : n < 64)
    (hk : page ≠ tallyPage p ∨ off / 8 ≠ 0xA0 + n) : rawReg (snapshotOne p a n) page off = rawReg a page off := by
  refine rawReg_setF_other h ?_
  rw [tallyPage_eq] at hk
  simp only [regKey, FRef.shift, F.TALLY_SNAPn_value]
  omega

theorem snapshotOne_rawReg_same {a : State} (h : a.RegsOk) :
    rawReg (snapshotOne p a n) (tallyPage p) (0x500 + 8 * n) = rawReg a (tallyPage p) (0x300 + 8 * n) := by
  have hcounter : getF a (F.TALLY_CNTn_value.shift (8 * n)) p = (rawReg a (tallyPage p) (0x300 + 8 * n)).toNat := getF_whole rfl rfl
  refine (rawReg_setF_whole h rfl rfl).trans ?_
  rw [hcounter, BitVec.ofNat_toNat, BitVec.setWidth_eq]

theorem sameMemory_snapshotOne {a : State} (h : s.SameMemory a) (p n : Nat) : s.SameMemory (snapshotOne p a n) := by
  obtain ⟨hstore, hsspace, hcspace, hpoison⟩ := h
  exact ⟨(setF_store ..).trans hstore, (setF_sspace ..).trans hsspace, (setF_cspace ..).trans hcspace,
    (congrArg Ras.poison (setF_ras ..)).trans hpoison⟩

theorem copied_foldl (h : s.RegsOk) {m : Nat} (hm : m ≤ 64) : Copied s ((List.range m).foldl (snapshotOne p) s) p m := by
  induction m with
  | zero => exact ⟨h, fun _ hn => absurd hn (Nat.not_lt_zero _), fun _ _ _ _ => rfl, rfl, rfl, rfl, rfl, rfl⟩
  | succ m ih =>
    obtain ⟨hok, hcopied, hothers, htally, hmemory⟩ := ih (by omega)
    rw [List.range_succ, List.foldl_append, List.foldl_cons, List.foldl_nil]
    refine ⟨setF_regsOk _ _ _ _ hok, fun n hn => ?_, fun page off ho hout => ?_, (setF_tally ..).trans htally,
      sameMemory_snapshotOne hmemory p m⟩
    · obtain rfl | hlt : n = m ∨ n < m := by omega
      · rw [snapshotOne_rawReg_same hok, hothers _ _ (by omega) (by omega)]
      · rw [snapshotOne_rawReg_other hok (by omega) (by omega) (by omega), hcopied n hlt]
    · rw [snapshotOne_rawReg_other hok ho (by omega) (by omega), hothers page off ho hout]

theorem snapshotAll_copied (h : s.RegsOk) (p : Nat) : Copied s (snapshotAll s p) p 64 := copied_foldl h le_rfl

theorem Copied.settle {t : State} {m : Nat} (h : Copied s t p m) : Copied s (settle t) p m :=
  ⟨h.regsOk, h.copied, h.others, h.tally_eq, h.memory⟩

/-! ### Windows (R608, R609) -/

/-- The state at a window's end, before the alarm. -/
def windowEnded (s : State) (d : Nat) : State :=
  let b := addWrapF (bwAll s d (bwResult (s.now - nth 0 s.tally.windowStart d))) F.TALLY_BW_WINDOWS_windows d 1
  { b with tally := { b.tally with windowStart := setNth b.tally.windowStart d s.now } }

/-- The rate of the port that the alarm of a die watches. -/
def watchedRate (s : State) (d : Nat) : Nat :=
  (Tab.getC BwPort.empty s.tally.bw (bwKey d (getF s F.TALLY_BW_ALARM_unit d) (getF s F.TALLY_BW_ALARM_dir d))).rate

@[simp] theorem bwAll_now (s : State) (d : Nat) (f : BwPort → BwPort) : (bwAll s d f).now = s.now := rfl

theorem bwWindowEnd_of_due (hd : d < 2) (hdue : bwDue s d = true) :
    bwWindowEnd d s =
      if getF (windowEnded s d) F.TALLY_BW_ALARM_limit d ≠ 0 ∧
          getF (windowEnded s d) F.TALLY_BW_ALARM_limit d < watchedRate (windowEnded s d) d
      then raise (windowEnded s d) (bwPage d) 0 else windowEnded s d := by
  have hnow : (addWrapF (bwAll s d (bwResult (s.now - nth 0 s.tally.windowStart d))) F.TALLY_BW_WINDOWS_windows d 1).now = s.now :=
    (addWrapF_now ..).trans (bwAll_now ..)
  simp only [bwWindowEnd, if_pos (And.intro hd hdue), hnow, windowEnded, watchedRate]

/-! ### The statement -/

/-- Settles O49: each write does what its block adds to the register write, and a snapshot is 64 copies of a register. -/
theorem countersSamplesAndWindows : Obligations.CountersSamplesAndWindows := by
  refine ⟨fun s p n v hp hn => ⟨fun h => ?sameOwner, fun h => ?newOwner⟩, fun s p hok hp => ?snapshot, fun s p v hp => ?seed,
    fun s p v hp => ⟨fun h => ?sameTid, fun h hrecords => ?newTid⟩, fun s p hp => ⟨fun h => ?popped, fun h => ?hidden⟩,
    fun s d v hd => ⟨fun hen hnew => ?restarts, fun hen => ?disabled⟩, fun s d hd hdue => ⟨fun h => ?quiet, fun hlimit hrate => ?alarm⟩,
    fun s d hd => ?peak⟩
  case sameOwner => exact next_settle_congr ((if_pos ⟨hp, hn⟩).trans (tallyCfg_of_same_owner h))
  case newOwner => exact next_settle_congr ((if_pos ⟨hp, hn⟩).trans (tallyCfg_of_new_owner h))
  case snapshot =>
    have hcopied := (snapshotAll_copied hok p).settle
    exact ⟨settle (snapshotAll s p), next_settle_congr (if_pos hp), hcopied.copied, fun page off _ => hcopied.others page off,
      hcopied.tally_eq, hcopied.memory⟩
  case seed => exact next_settle_congr (if_pos hp)
  case sameTid => exact next_settle_congr ((if_pos hp).trans (tallySampCtrl_of_same_owner h))
  case newTid => exact next_settle_congr ((if_pos hp).trans (tallySampCtrl_of_new_owner h hrecords))
  case popped => exact next_settle_congr ((if_pos hp).trans (tallyPop_of_manager h))
  case hidden => exact next_settle_congr ((if_pos hp).trans (tallyPop_of_tenant h))
  case restarts => exact next_settle_congr ((if_pos hd).trans (bwCtrl_restarts hen hnew))
  case disabled => exact next_settle_congr ((if_pos hd).trans (bwCtrl_of_disabled hen))
  case quiet => exact next_settle_congr ((bwWindowEnd_of_due hd hdue).trans (if_neg fun ⟨hne, hlt⟩ => h.elim hne (Nat.not_le.mpr hlt)))
  case alarm => exact next_settle_congr ((bwWindowEnd_of_due hd hdue).trans (if_pos ⟨hlimit, hrate⟩))
  case peak => exact next_settle_congr (if_pos hd)

end Sys2Proof.Machine
end

section
/-! PROOF. The arithmetic words of the vector engine (ch. 4). -/

namespace Sys2Proof.Machine

variable {h : Held} {r : Run}

/-- The element that VMAP writes for one that it reads, with its flags (R167, R171). -/
def vmapElem (w : VeWord) (x : FV × Nat) : Nat × Nat :=
  match vmapFn w.fn x.1 with
  | some y => ((veOut w.fout w.sat (bit x.2 5) y).1, (veOut w.fout w.sat (bit x.2 5) y).2 ||| x.2)
  | none => (0, 0)

/-- The element that VBIN writes for two that it reads, with its flags. -/
def vbinElem (w : VeWord) (x y : FV × Nat) : Nat × Nat :=
  match vbinFn (w.fn % 128) x.1 y.1 with
  | some z => ((veOut w.fout w.sat (bit (x.2 ||| y.2) 5) z).1, (veOut w.fout w.sat (bit (x.2 ||| y.2) 5) z).2 ||| x.2 ||| y.2)
  | none => (0, 0)

theorem vmapMain_of_count (hcount : mxCountOk (veWord h) = true) :
    vmapMain h r =
      (let w := veWord h
       let g := veRead r w.src1 w.fin w.count
       let out := g.1.map (vmapElem w)
       veEnd ((veWrite g.2 w.dst w.fout (out.map Prod.fst)).flag (out.foldl (fun a o => a ||| o.2) 0))
         (veCycles w 1 w.count) w.fen (bits w.src2 0 21)) := by
  rw [vmapMain, if_neg (by simp [hcount])]
  rfl

/-- Without the broadcast form, element i of the result comes from element i of each source. -/
theorem vbinMain_of_count (hcount : mxCountOk (veWord h) = true) (hpair : bit (veWord h).fn 7 = false) :
    vbinMain h r =
      (let w := veWord h
       let a := veRead r w.src1 w.fin w.count
       let b := veRead a.2 (veSrc2 h) w.fin w.count
       let out := (List.range w.count).map (fun i => vbinElem w (nth (.nan, 0) a.1 i) (nth (.nan, 0) b.1 i))
       veEnd ((veWrite b.2 w.dst w.fout (out.map Prod.fst)).flag (out.foldl (fun a o => a ||| o.2) 0)) (veCycles w 2 w.count) false 0) := by
  rw [vbinMain, if_neg (by simp [hcount])]
  simp only [hpair, Bool.false_eq_true, if_false]
  rfl

/-- Settles O14: a count that keeps the MX rule leaves the words their element by element effect. -/
theorem vectorWordsWriteTheirElements : Obligations.VectorWordsWriteTheirElements :=
  fun _ _ hcount => ⟨vmapMain_of_count hcount, fun hpair => vbinMain_of_count hcount hpair⟩

end Sys2Proof.Machine
end

section
/-! PROOF. The edges of ticks: OPEN, the ring, and the source of edges (ch. 2). -/

namespace Sys2Proof.Machine

variable {s : State} {f : List Byte} {p : Packet} {r q : FRef} {page inst inst' b n v h : Nat} {x : Stream}

/-! ### Fields after an interrupt, and after another field -/

@[simp] theorem getF_updTick (g : TickUnit → TickUnit) : getF (updTick s g) r inst = getF s r inst := rfl

@[simp] theorem rawReg_updTick (g : TickUnit → TickUnit) : rawReg (updTick s g) page n = rawReg s page n := rfl

@[simp] theorem getF_settle (s : State) (r : FRef) (inst : Nat) : getF (settle s) r inst = getF s r inst := rfl

theorem State.RegsOk.updTick (hok : s.RegsOk) (g : TickUnit → TickUnit) : (updTick s g).RegsOk := hok

theorem State.RegsOk.setF (hok : s.RegsOk) (r : FRef) (inst v : Nat) : (setF s r inst v).RegsOk := setF_regsOk s r inst v hok

/-- An interrupt changes INT_RAW alone. -/
theorem getF_raise (hok : s.RegsOk) (hoff : r.off < 4096) (hraw : r.off / 8 ≠ 4) : getF (raise s page b) r inst = getF s r inst := by
  unfold raise
  split
  · rfl
  · rw [getF, rawReg_setReg_other _ _ _ _ _ _ hok, getF]
    unfold regKey
    omega

/-! ### OPEN (R68) -/

theorem tickNumber_latchEdge (hok : s.RegsOk) : tickNumber (latchEdge s) = (s.tick.due.getD (tickNumber s + 1, s.now)).1 % 2 ^ 64 := by
  have hnumber (v : W64) : rawReg (setReg s 4 0x118 v) 4 0x118 = v := rawReg_setReg_same _ _ _ _ hok
  have hpage : tickPage = 4 := rfl
  simp only [tickNumber, latchEdge, rawReg_updTick, hpage, hnumber, BitVec.toNat_ofNat]

theorem openTick_of_due (hdue : edgeDue s = true) :
    openTick s = startStep
      (let s3 := reevaluate (freeScrubbed (showCaps (powerAtOpen (updateAtOpen (commitStep
        (masterMarks (sendRing (latchEdge s) (tickNumber (latchEdge s)) 0) false (tickNumber (latchEdge s))))))))
       (List.range (requestsAtOpen s3).ras.logs.length).foldl openSlot (requestsAtOpen s3)) := by
  rw [openTick, if_neg (by simp [hdue])]

/-- Settles O2: an edge that is due runs the steps of OPEN, the first of which latches the number. -/
theorem openRunsItsStepsInOrder : Obligations.OpenRunsItsStepsInOrder := fun _ hok hdue =>
  ⟨tickNumber_latchEdge hok, rfl, _, _, _, _, _, rfl, rfl, rfl, rfl, rfl, next_settle_congr (openTick_of_due hdue)⟩

/-! ### The ring (R57 to R63, R655) -/

theorem tickFrame_of_good (htick : tickFrameOf s f = true) (hring : usesRing s = true) (hgood : frameGood f = true)
    (hsource : sourceOf (frameArrives s f) = 1) : tickFrame s f = sourceEdge (frameArrives s f) 1 (tapTime s) (frameNumber f) true := by
  simp [tickFrame, htick, hring, hgood, hsource]

theorem tickFrame_of_no_ring (htick : tickFrameOf s f = true) (hring : usesRing s = false) : tickFrame s f = frameArrives s f := by
  simp [tickFrame, htick, hring]

theorem beatFrame_of_good (hbeat : tickFrameOf s f = false) (hring : usesRing s = true) (hgood : frameGood f = true)
    (hsource : sourceOf s = 1) : beatFrame s f = sourceBeat (frameArrives s f) 1 (tapTime s) (frameNumber f) := by
  simp [beatFrame, hbeat, hring, hgood, hsource]

theorem ringSilent_of_no_ring (hring : usesRing s = false) : ringSilent s = raise (setF s F.PIN_RING_in_present 0 0) pinPage 2 := by
  simp [ringSilent, hring]

/-- The oldest frame sent, once it has been looked for. -/
theorem ringReturn_of_intact {w : Nat} {rest : List Nat} (hsent : s.tick.ringSent = w :: rest) :
    ringReturn s (some (ringFrame (w / 2) (w % 2))) =
      setF (setF (updTick s (fun t => { t with ringSent := rest })) F.PIN_RING_return_seen 0 1) F.PIN_RING_return_bad 0 0 := by
  simp [ringReturn, hsent, b2n]

theorem ringReturn_of_missing {w : Nat} {rest : List Nat} (hsent : s.tick.ringSent = w :: rest) :
    ringReturn s none =
      raise (setF (setF (updTick s (fun t => { t with ringSent := rest })) F.PIN_RING_return_seen 0 0) F.PIN_RING_return_bad 0 1)
        pinPage 2 := by
  simp [ringReturn, hsent, b2n]

theorem bypassSwitch_opens (hring : getF s F.TICK_CTRL_ring_en 0 = 1) (hpkg : s.pkg.state = .normal) (hclosed : s.tick.bypassClosed = true)
    (hgap : quietGap s = true) :
    bypassSwitch s = setF (updTick s (fun t => { t with bypassClosed := false })) F.PIN_RING_bypass_closed 0 0 := by
  have hopen : wantsBypass s = false := by simp [wantsBypass, hring, hpkg]
  simp [bypassSwitch, hopen, hclosed, hgap, b2n]

/-- Settles O4: each command of the ring, in the branch that its statement names. -/
theorem ringFramesAndTheirReturn : Obligations.RingFramesAndTheirReturn := by
  refine ⟨fun s f htick hring _ hgood hsource => ?edge, fun s f htick hring => ?passed, fun s f hbeat hring hgood hsource => ?beat,
    fun s hticks hperiod hms hlate hearly => ?send, fun s hring => ?silent, fun s w rest hsent => ⟨?intact, ?missing⟩,
    fun s hring hpkg hclosed hgap => ?bypass⟩
  case edge => exact next_settle_congr (tickFrame_of_good htick hring hgood hsource)
  case passed => exact next_settle_congr (tickFrame_of_no_ring htick hring)
  case beat => exact next_settle_congr (beatFrame_of_good hbeat hring hgood hsource)
  case send => exact next_settle_congr (if_pos ⟨hticks, hperiod, hms, hlate, hearly⟩)
  case silent => exact next_settle_congr (ringSilent_of_no_ring hring)
  case intact => exact next_settle_congr (ringReturn_of_intact hsent)
  case missing => exact next_settle_congr (ringReturn_of_missing hsent)
  case bypass => exact next_settle_congr (bypassSwitch_opens hring hpkg hclosed hgap)

/-! ### The source of edges (R64 to R66, R95) -/

/-- Into HOLDOVER, with the interrupt of Table 2.10. -/
theorem setLock_holdover (hlock : lockOf s ≠ 2) :
    setLock s 2 = raise (updTick (setF s F.TICK_STATUS_lock 0 2) (fun t => { t with holdSince := some (t.holdSince.getD s.now) })) tickPage 0 := by
  simp [setLock, hlock]

theorem setLock_unlocked (hlock : lockOf s ≠ 0) :
    setLock s 0 = raise (updTick (setF s F.TICK_STATUS_lock 0 0) (fun t => { t with holdSince := some (t.holdSince.getD s.now) })) tickPage 1 := by
  simp [setLock, Ne.symm, hlock]

/-- The state in which the hub has no source, before its lock follows. -/
def withoutSource (s : State) : State :=
  updTick (setF (setF s F.TICK_STATUS_source 0 0) F.TICK_STATUS_period_mismatch 0 0)
    (fun t => { t with noSource := some (t.noSource.getD s.now), due := none })

theorem withoutSource_tick (s : State) :
    (withoutSource s).tick = { s.tick with noSource := some (s.tick.noSource.getD s.now), due := none } := by
  simp only [withoutSource, updTick_tick, setF_tick]

theorem withoutSource_regsOk (hok : s.RegsOk) : (withoutSource s).RegsOk :=
  ((hok.setF _ _ _).setF _ _ _).updTick _

/-- The three fields of TICK_STATUS that a loss changes lie apart. -/
theorem lockOf_withoutSource (hok : s.RegsOk) : lockOf (withoutSource s) = lockOf s := by
  rw [lockOf, withoutSource, getF_updTick,
    getF_setF_field _ F.TICK_STATUS_period_mismatch F.TICK_STATUS_lock _ _ (hok.setF ..) rfl rfl (by decide) (by decide),
    getF_setF_field _ F.TICK_STATUS_source F.TICK_STATUS_lock _ _ hok rfl rfl (by decide) (by decide), lockOf]

theorem sourceOf_withoutSource (hok : s.RegsOk) : sourceOf (withoutSource s) = 0 := by
  rw [sourceOf, withoutSource, getF_updTick,
    getF_setF_field _ F.TICK_STATUS_period_mismatch F.TICK_STATUS_source _ _ (hok.setF ..) rfl rfl (by decide) (by decide),
    getF_setF_same _ _ _ _ hok (by decide)]
  rfl

theorem sourceLost_eq (s : State) :
    sourceLost s = if lockOf (withoutSource s) = 0 then withoutSource s else setLock (withoutSource s) 2 := rfl

theorem withoutSource_now (s : State) : (withoutSource s).now = s.now := by
  rw [withoutSource, updTick_now, setF_now, setF_now]

theorem sourceLost_of_locked (hok : s.RegsOk) (hlock : lockOf s = 1) :
    sourceLost s = raise (updTick (setF (withoutSource s) F.TICK_STATUS_lock 0 2)
      (fun t => { t with holdSince := some (t.holdSince.getD (withoutSource s).now) })) tickPage 0 := by
  have hkept : lockOf (withoutSource s) = 1 := (lockOf_withoutSource hok).trans hlock
  rw [sourceLost_eq, if_neg (by rw [hkept]; decide), setLock_holdover (by rw [hkept]; decide)]

/-- A locked follower that loses its source is in HOLDOVER, without a source and without a due edge. -/
theorem sourceLost_holdover (hok : s.RegsOk) (hlock : lockOf s = 1) :
    lockOf (sourceLost s) = 2 ∧ sourceOf (sourceLost s) = 0 ∧
      (sourceLost s).tick = { s.tick with
        noSource := some (s.tick.noSource.getD s.now), due := none, holdSince := some (s.tick.holdSince.getD s.now) } := by
  have hwithout := withoutSource_regsOk hok
  have hstatus := hwithout.setF F.TICK_STATUS_lock 0 2
  rw [sourceLost_of_locked hok hlock]
  refine ⟨?_, ?_, ?_⟩
  · rw [lockOf, getF_raise (hstatus.updTick _) (by decide) (by decide), getF_updTick, getF_setF_same _ _ _ _ hwithout (by decide)]
    rfl
  · rw [sourceOf, getF_raise (hstatus.updTick _) (by decide) (by decide), getF_updTick,
      getF_setF_field _ F.TICK_STATUS_lock F.TICK_STATUS_source _ _ hwithout rfl rfl (by decide) (by decide), ← sourceOf, sourceOf_withoutSource hok]
  · rw [raise_tick, updTick_tick, setF_tick, withoutSource_tick, withoutSource_now]

theorem unlockedTimeout_of_due {t : Nat} (hnone : s.tick.noSource = some t) (hlate : t + 40000000 ≤ s.now) (hsource : sourceOf s = 0)
    (hlock : lockOf s = 2) :
    unlockedTimeout s =
      raise (updTick (setF s F.TICK_STATUS_lock 0 0) (fun t => { t with holdSince := some (s.tick.holdSince.getD s.now) })) tickPage 1 := by
  simp only [unlockedTimeout, hnone, hlate, hsource, and_self, if_true]
  rw [setLock_unlocked (by rw [hlock]; decide)]
  simp only [updTick, setF_tick]

/-! ### Wedges, recomputes and requests (R76, R96, R547) -/

theorem wedgeArrives_of_new {hubs : List Nat} (hhubs : setHubs (p.payload.drop 32) = hubs) (hhere : hubs.contains (hubId s) = true)
    (hnew : s.tick.wedgeSeen.contains (bits (p.unit 2) 0 32, bits (p.unit 3) 0 64) = false) :
    wedgeArrives s p = wedgeDelivered (spread s p 4 hubs)
      (bits (p.unit 2) 0 32) (bits (p.unit 3) 0 64) (bits (p.unit 2) 40 10) (bits (p.unit 2) 32 8) := by
  simp only [wedgeArrives, hhubs, hhere, hnew, Bool.not_false, and_self, if_true]

theorem recompute_of_redo {r : StreamRun} (hx : streamOf s h = some x) (hr : nextRedo x = some r) (hrun : x.run = none)
    (hsus : x.suspended = false) (hready : threadsReady s x = true) (hopen : s.tick.stage ≠ 4) :
    recompute s h = launchThreads
      (updStream s h (fun y => { y with
        run := some { r with state := if x.threads.isEmpty then RunState.complete else .running, recovered := true,
                             recomputing := !x.threads.isEmpty, progress := if r.path then r.atWatch else 0 }
        redo := (y.redo.filter (fun q => q.tick != r.tick)) ++ (y.run.toList.filter (fun q => q.state == .recovering && q.tick != r.tick))
        done := y.done ++ y.run.toList.filter (fun q => q.state.over_) }))
      x (if r.path then x.budget.cheaper else x.budget.primary) (if r.path then r.atWatch else 0) r.path := by
  simp [recompute, hx, hr, hrun, hsus, hready, hopen]

theorem manageRequest_of_room (hroom : s.tick.queue.length < 1024) (q : AdmRequest) (handle : Nat) :
    manageRequest s q handle = (queueAdmission s q).1 := by
  have hfull : ¬admissionRoom ≤ s.tick.queue.length := Nat.not_le.mpr hroom
  simp only [manageRequest, queueAdmission, if_neg hfull, if_true]

/-- Settles O5: the fields of TICK_STATUS after a loss, and each other command in the branch its statement names. -/
theorem sourcesLockAndRequests : Obligations.SourcesLockAndRequests := by
  refine ⟨fun s hok hown hlock => ?lost, fun s t hnone hlate hsource hlock => ?unlocked, fun s n p hp _ => ?mark,
    fun s p hp hhere hnew => ?wedge, fun s h x r hh hx hr hrun hsus hready hopen => ?redo, fun s hroom => ⟨?enter, fun h hh => ?withdraw⟩⟩
  case lost =>
    obtain ⟨hhold, hsource, htick⟩ := sourceLost_holdover hok hlock
    refine ⟨settle (sourceLost s), next_settle_congr (if_neg (by simp [hown])), hhold, hsource, ?_, ?_, ?_⟩ <;> rw [settle_tick, htick]
  case unlocked => exact next_settle_congr (unlockedTimeout_of_due hnone hlate hsource hlock)
  case mark => exact next_settle_congr (delivered_accepted _ hp)
  case wedge => exact next_settle_congr ((delivered_accepted _ hp).trans (wedgeArrives_of_new rfl hhere hnew))
  case redo =>
    refine next_settle_congr ?_
    rw [Nat.mod_eq_of_lt hh]
    exact recompute_of_redo hx hr hrun hsus hready hopen
  case enter => exact next_settle_congr (manageRequest_of_room hroom _ _)
  case withdraw =>
    refine next_settle_congr ?_
    rw [Nat.mod_eq_of_lt hh]
    exact manageRequest_of_room hroom _ _

end Sys2Proof.Machine
end

section
/-! PROOF. Control words, fetches, pushes and the ends of commands (ch. 3). -/

namespace Sys2Proof.Machine

variable {s : State} {core ctx op w pc unit seq : Nat} {c : Control} {a : Nat} {rest : List Nat} {h : Held}

/-! ### Words that move the program counter (Table 3.4) -/

theorem callWord_of_room (hroom : (thread s core ctx).stack.length < 8) :
    callWord s core ctx pc c = updThread s core ctx (fun t => { t with stack := t.pc :: t.stack, pc := targetOf pc c.disp }) := by
  rw [callWord, if_neg (Nat.not_le.mpr hroom)]

theorem retWord_of_call (hstack : (thread s core ctx).stack = a :: rest) :
    retWord s core ctx pc = updThread s core ctx (fun t => { t with pc := a, stack := rest }) := by
  simp only [retWord, hstack]

theorem loopWord_of_zero (hzero : counter (thread s core ctx) c.ra = 0) : loopWord s core ctx pc c = s := by
  rw [loopWord, if_pos hzero]

theorem loopWord_of_ne_zero (hne : counter (thread s core ctx) c.ra ≠ 0) :
    loopWord s core ctx pc c =
      jumpTo (setCounter s core ctx c.ra ((counter (thread s core ctx) c.ra).toNat - 1)) core ctx (targetOf pc c.disp) := by
  rw [loopWord, if_neg hne]

theorem endThread_of_free (hheld : (thread s core ctx).held = []) :
    endThread s core ctx pc =
      checkComplete (updThread s core ctx (fun t => { t with state := .ended })) (thread s core ctx).handle := by
  rw [endThread, if_neg (by simp [hheld])]

/-- Settles O6: the word's meaning begins where it has been consumed, and goes the way its condition says. -/
theorem controlWordsMoveTheThread : Obligations.ControlWordsMoveTheThread := by
  intro s core ctx w
  refine ⟨fun hi => ?nop, fun hi => ?jump, fun hi hroom => ?call, fun a rest hi hstack => ?ret, fun hi hzero => ?loopEnds,
    fun hi hne => ?loops, fun hi htest => ?branches, fun hi htest => ?passes, fun hi hheld => ?ends⟩
  case nop => exact next_settle_congr (controlRow_issues _ hi)
  case jump => exact next_settle_congr (controlRow_issues _ hi)
  case call => exact next_settle_congr ((controlRow_issues _ hi).trans (callWord_of_room hroom))
  case ret => exact next_settle_congr ((controlRow_issues _ hi).trans (retWord_of_call hstack))
  case loopEnds => exact next_settle_congr ((controlRow_issues _ hi).trans (loopWord_of_zero hzero))
  case loops => exact next_settle_congr ((controlRow_issues _ hi).trans (loopWord_of_ne_zero hne))
  case branches => exact next_settle_congr ((controlRow_issues _ hi).trans (if_pos htest))
  case passes => exact next_settle_congr ((controlRow_issues _ hi).trans (if_neg (by rw [immSigned, htest]; decide)))
  case ends => exact next_settle_congr ((controlRow_issues _ hi).trans (endThread_of_free hheld))

/-! ### Words that set the thread's state (Table 3.4) -/

theorem waitqWord_of_drained (hdrained : drained s core ctx (bits c.imm 0 4) = true) : waitqWord s core ctx c = s := by
  rw [waitqWord, if_pos hdrained]

theorem waitqWord_of_busy (hbusy : drained s core ctx (bits c.imm 0 4) = false) :
    waitqWord s core ctx c = updThread s core ctx (fun t => { t with state := .waitDrain, drain := bits c.imm 0 4 }) := by
  rw [waitqWord, if_neg (by simp [hbusy])]

theorem queueAdmission_of_room (hroom : s.tick.queue.length < 1024) (q : AdmRequest) :
    queueAdmission s q = ({ s with tick := { s.tick with queue := s.tick.queue ++ [q] } }, true) :=
  if_neg (Nat.not_le.mpr hroom)

theorem consumed_tick (s : State) (core ctx : Nat) : (consumed s core ctx).tick = s.tick := by
  rw [consumed, updThread_tick, updCore_tick]

theorem launchWord_withdraws {s0 : State} (hcond : c.cond = 1) (hroom : s.tick.queue.length < 1024) :
    launchWord s0 s core ctx c = setCounter
      { s with tick := { s.tick with queue := s.tick.queue ++ [.withdraw (.launch core ctx) (streamCtx s (thread s core ctx).handle) c.imm] } }
      core ctx c.ra 0 := by
  simp only [launchWord, hcond, if_true, queueAdmission_of_room hroom]

theorem launchWord_enters {s0 : State} {pa : Nat} {nc : Bool} {r : Run} (hcond : c.cond ≠ 1)
    (haddr : (fetchRun s core ctx).translate (c.addr % 2 ^ 57) .rd = (some (pa, nc), r)) (hroom : r.s.tick.queue.length < 1024) :
    launchWord s0 s core ctx c = setCounter
      { r.s with tick := { r.s.tick with
        queue := r.s.tick.queue ++ [.enter (.launch core ctx) (streamCtx s (thread s core ctx).handle) (some pa)] } }
      core ctx c.ra 0 := by
  simp only [launchWord, if_neg hcond, haddr, queueAdmission_of_room hroom, if_true]

/-- Settles O7: as O6, for the words that set counters, modes and progress, wait for queues, or ask for admission. -/
theorem controlWordsSetThreadState : Obligations.ControlWordsSetThreadState := by
  intro s core ctx w
  refine ⟨fun hi => ?setc, fun hi => ?addc, fun hi hdrained => ?drained, fun hi hbusy => ?waits, fun hi => ?progress, fun hi => ?qmode,
    fun hi hcond hroom => ?withdraws, fun pa r nc hi hcond haddr hroom => ?enters⟩
  case setc => exact next_settle_congr (controlRow_issues _ hi)
  case addc => exact next_settle_congr (controlRow_issues _ hi)
  case drained => exact next_settle_congr ((controlRow_issues _ hi).trans (waitqWord_of_drained hdrained))
  case waits => exact next_settle_congr ((controlRow_issues _ hi).trans (waitqWord_of_busy hbusy))
  case progress => exact next_settle_congr (controlRow_issues _ hi)
  case qmode => exact next_settle_congr (controlRow_issues _ hi)
  case withdraws =>
    exact next_settle_congr ((controlRow_issues _ hi).trans (launchWord_withdraws hcond (by rwa [consumed_tick])))
  case enters => exact next_settle_congr ((controlRow_issues _ hi).trans (launchWord_enters hcond haddr hroom))

/-! ### Words that wait for an object's home (R108, R131) -/

/-- What a thread has open after its word. -/
def opened (s : State) (c : Control) : OpenSync :=
  { tag := s.sync.nextTag, op := c.op, obj := c.obj, ra := c.ra, cond := c.cond, imm := c.imm, disp := c.disp,
    timeout := c.timeout, since := s.now, retrying := false, outstanding := true, cancelled := false, answer := none }

theorem opened_consumed (s : State) (core ctx : Nat) (c : Control) : opened (consumed s core ctx) c = opened s c := by
  rw [opened, consumed, updThread_sync, updThread_now, updCore_sync, updCore_now, opened]

theorem syncWord_of_own_object (hname : badName s c.obj = false) (hhub : objHub c.obj = hubId s) :
    syncWord s core ctx c =
      sendOpen (updThread { s with sync := { s.sync with nextTag := s.sync.nextTag + 1 } } core ctx
        (fun t => { t with state := .waitSync, sync := some (opened s c) })) core ctx (opened s c) := by
  rw [syncWord, if_neg (by simp [hname]), if_neg (by simp [hhub])]
  rfl

theorem syncWord_of_bad_name (hname : badName s c.obj = true) : syncWord s core ctx c = setCounter s core ctx c.ra stBadObj := by
  rw [syncWord, if_pos hname]

theorem exec_syncWord {i : Instr} (hop : (op, i) ∈ [(0x09, Instr.brs core), (0x0A, .wait core), (0x0B, .signal core), (0x0F, .sinit core)])
    (hi : Issues s core ctx op w) : exec i s = .next (settle (syncWord (consumed s core ctx) core ctx (control w))) := by
  simp only [List.mem_cons, Prod.mk.injEq, List.not_mem_nil, or_false] at hop
  obtain ⟨rfl, rfl⟩ | ⟨rfl, rfl⟩ | ⟨rfl, rfl⟩ | ⟨rfl, rfl⟩ := hop
  all_goals exact next_settle_congr (controlRow_issues _ hi)

/-- Settles O8: the four words are one operation toward the object. -/
theorem syncWordsOpenAnOperation : Obligations.SyncWordsOpenAnOperation := by
  intro s core ctx op w i hop c s1 o hi
  rw [exec_syncWord hop hi]
  refine ⟨fun hname hhub => ?sent, fun hname => ?badName⟩
  case sent =>
    refine next_settle_congr ((syncWord_of_own_object hname hhub).trans ?_)
    rw [opened_consumed]
    rfl
  case badName => exact next_settle_congr (syncWord_of_bad_name hname)

/-! ### Fetches and pushes (R102, R114) -/

theorem fetchWord_of_good {bs : List Byte} {g : Run}
    (hread : (fetchRun s core ctx).readM (thread s core ctx).pc 32 .fx true = ((bs, false), g)) (hgo : g.stop = .go)
    (hword : wordOk (leValue bs) = true) :
    fetchWord s core ctx = updThread (dropInbox (noteFetch g (thread s core ctx).handle) core 0 ctx) core ctx
      (fun t => { t with fetched := some (leValue bs) }) := by
  simp [fetchWord, hread, hgo, hword]

theorem pushWord_of_room (hok : pushOk (thread s core ctx).counters w = true) (hroom : queueRoom (thread s core ctx) (wordUnit w) = true) :
    pushWord s core ctx w = acceptPush (updCore s core (fun c => { c with lastIssued := ctx })) core ctx w := by
  simp [pushWord, hok, hroom]

theorem pushWord_of_full (hok : pushOk (thread s core ctx).counters w = true) (hfull : queueRoom (thread s core ctx) (wordUnit w) = false) :
    pushWord s core ctx w = updThread (updCore s core (fun c => { c with lastIssued := ctx })) core ctx
      (fun t => { t with state := .waitQueue, pushing := some w, fetched := none }) := by
  simp [pushWord, hok, hfull]

theorem retryPush_of_room (hpush : (thread s core ctx).pushing = some w) (hstate : (thread s core ctx).state = .waitQueue)
    (hruns : coreRuns s core = true) (hissues : runIssues s (thread s core ctx).handle = true)
    (hroom : queueRoom (thread s core ctx) (wordUnit w) = true) : retryPush s core ctx = acceptPush s core ctx w := by
  simp [retryPush, hpush, hstate, hruns, hissues, hroom]

theorem cheaperRestart_of_drained {sample : Nat} {x : Stream} (hswitch : (thread s core ctx).switching = some sample)
    (hx : streamOf s (thread s core ctx).handle = some x) (hstate : (thread s core ctx).state = .waitDrain)
    (hsync : (thread s core ctx).sync = none) (hdrained : drained s core ctx 15 = true) :
    cheaperRestart s core ctx = updThread s core ctx (fun t => { t with
      state := .run, pc := x.budget.cheaper, counters := List.replicate 8 0, path := true, pr := sample, stack := [],
      switching := none, drain := 0, fetched := none, pushing := none }) := by
  simp [cheaperRestart, hswitch, hx, hstate, hsync, hdrained]

/-- An engine word of the thread that issues is pushed. -/
theorem exec_enginePush (hruns : coreRuns s core = true) (hissuer : issuer s core = some ctx) (hword : (thread s core ctx).fetched = some w)
    (hunit : wordUnit w ≠ 0) : exec (.enginePush core) s = .next (settle (pushWord s core ctx w)) :=
  next_settle_congr (by simp [hruns, hissuer, hword, hunit])

/-- Settles O9: a good word is fetched, and a word is pushed when its queue has room. -/
theorem wordsAreFetchedAndPushed : Obligations.WordsAreFetchedAndPushed := by
  refine ⟨fun s core ctx bs g hruns hfetcher hread hgo hword => ?fetched, fun s core ctx w hruns hissuer hword hunit hok => ?pushed,
    fun s core ctx w hpush hstate hruns hissues hroom => ?retried, fun s core ctx sample x hswitch hx hstate hsync hdrained => ?restarted⟩
  case fetched =>
    refine next_settle_congr ?_
    rw [if_pos hruns, hfetcher]
    exact fetchWord_of_good hread hgo hword
  case pushed =>
    rw [exec_enginePush hruns hissuer hword hunit]
    exact ⟨fun hroom => next_settle_congr (pushWord_of_room hok hroom), fun hfull => next_settle_congr (pushWord_of_full hok hfull)⟩
  case retried => exact next_settle_congr (retryPush_of_room hpush hstate hruns hissues hroom)
  case restarted => exact next_settle_congr (cheaperRestart_of_drained hswitch hx hstate hsync hdrained)

/-! ### The ends of commands (R116 to R119) -/

/-- The state in which a command has ended without an error: it has left its engine, its flags and its sample are taken. -/
def endedWell (s : State) (core unit : Nat) (h : Held) : State :=
  sampleDone (stickyFlags (noteDone (dropHeld (dropInbox s core unit h.seq) core unit h.seq) core unit h) core unit h.flags) core unit h 0

theorem completeCommand_of_done (holdest : oldestHeld s core unit ctx = some h) (hdone : h.done = true)
    (hrel : released s core unit h = true) (hruns : coreRuns s core = true) (hdesc : s.descriptors = []) (herror : h.error = 0)
    (haborted : h.aborted = false) (hsig : (header h.entry.word).sigEn = false)
    (hthread : (thread (endedWell s core unit h) core ctx).state ≠ .faulted) :
    completeCommand s core unit ctx =
      checkComplete (wakeDrain (addProgress (endedWell s core unit h) h.handle (header h.entry.word).progInc) core ctx) h.handle := by
  simp only [endedWell] at hthread ⊢
  simp [completeCommand, holdest, hdone, hrel, hruns, hdesc, herror, haborted, hsig, hthread]

theorem watchdogExpire_of_late (hheld : heldCmd s core unit seq = some h) (herror : h.error = 0) (hruns : coreRuns s core = true)
    (hwatched : watched s core unit h = true) (hlate : boundOf s core h ≤ mostCycles s (s.now - h.popped)) (haborted : h.aborted = false)
    (hunit : unit ≠ 4) :
    watchdogExpire s core unit seq =
      threadFault (updThread (stopDescriptors (dropHeld (sampleDone (dropInbox s core unit seq) core unit h 2) core unit seq) core seq)
        core h.ctx (fun t => { t with queues := setNth t.queues (unit - 1) [] })) core h.ctx 4 h.entry.pc 0x000A 4 (corePage core) 0 0 := by
  have hothers (l : List HaulRun) : l.filter (fun r => !(unit == 4 && r.core == core && r.seq == seq)) = l := by simp [hunit]
  simp only [watchdogExpire, hheld, hothers, haborted, Bool.false_eq_true, if_false]
  rw [if_neg (by simp [herror, hruns, hwatched, Nat.not_lt.mpr hlate])]

/-- Settles O10: a command that has ended completes, one past its bound is stopped, a head past its limit is reported. -/
theorem commandsCompleteOrExpire : Obligations.CommandsCompleteOrExpire := by
  refine ⟨fun s core unit ctx h holdest hdone hrel hruns hdesc herror haborted hsig hthread => ?complete,
    fun s core unit seq h hheld herror hruns hwatched hlate haborted hunit => ?late,
    fun s core ctx unit e rest hqueue hunit hnew hruns hlate => ?monitored⟩
  case complete => exact next_settle_congr (completeCommand_of_done holdest hdone hrel hruns hdesc herror haborted hsig hthread)
  case late => exact next_settle_congr (watchdogExpire_of_late hheld herror hruns hwatched hlate haborted hunit)
  case monitored =>
    refine next_settle_congr ?_
    simp [qmonFire, hqueue, Nat.pos_iff_ne_zero.mp hunit, hnew, hruns, Nat.not_lt.mpr hlate]

end Sys2Proof.Machine
end


section
/-! PROOF. The answers a thread waits for, their timers, the readings of the synchronisation array, triggers, and the operand cache
(O12). -/
namespace Sys2Proof.Machine
open Host

/-- The answer of SINIT ends the wait and leaves the held list and the program counter as they are. -/
theorem deliverStatus_sinit {s : State} {core ctx : Nat} {o : OpenSync} (hop : o.op = 0x0F) (status word : Nat) :
    deliverStatus s core ctx o status word = setCounter (updThread s core ctx (fun t => { t with
      sync := none, state := if t.state = .waitSync then .run else t.state })) core ctx o.ra status := by
  simp [deliverStatus, hop]

theorem waitTimeout_of_late {s : State} {core ctx : Nat} {o : OpenSync} (hopen : (thread s core ctx).sync = some o) (hop : o.op = 0x0A)
    (htimed : 0 < o.timeout) (hnew : o.cancelled = false) (hlate : o.timeout * 1024 ≤ mostCycles s (s.now - o.since))
    (hout : o.outstanding = true) :
    waitTimeout s core ctx =
      cancelOpen (updThread s core ctx (fun t => { t with sync := some { o with cancelled := true } })) core ctx o := by
  simp only [waitTimeout, hopen]
  rw [if_neg (by simp [hop, hnew, Nat.pos_iff_ne_zero.mp htimed, Nat.not_lt.mpr hlate]), cancelWait, if_neg (by simp [hout])]

theorem syncRetry_of_refused {s : State} {core ctx : Nat} {o : OpenSync} (hopen : (thread s core ctx).sync = some o)
    (hretry : o.retrying = true) (hout : o.outstanding = false) (hnone : o.answer = none) :
    syncRetry s core ctx =
      sendOpen (updThread s core ctx (fun t => { t with sync := some { o with retrying := false, outstanding := true } })) core ctx o := by
  simp [syncRetry, hopen, hretry, hout, hnone]

/-- A trigger that no stored answer meets, at a valid entry its caller may use, is taken and its answer kept. -/
theorem triggerArrives_of_entry {s : State} {p q : Packet} {e : TriggerEntry} {part : Nat} (hpart : triggerPart s (bits p.word3 0 8) = part)
    (hnew : storedResult s part p.src p.tag = none) (hroom : (resultsOf s part).length < rcSize)
    (hentry : s.triggers[bits p.word3 0 8]? = some e) (hring : e.ringEntries ≠ 0) (hstream : (streamOf s e.handle).isSome = true)
    (hgroup : inGroup s e.callerSet p.src = true)
    (hans : answerOf (takeTrigger s (bits p.word3 0 8) e p).2 p ptTrigRes (takeTrigger s (bits p.word3 0 8) e p).1 0 [] = some q) :
    triggerArrives s p = send (enterResult (takeTrigger s (bits p.word3 0 8) e p).2 part p.src p.tag q) q := by
  have hvalid : ¬(e.ringEntries = 0 ∨ streamOf s e.handle = none) := by
    rintro (h0 | hn)
    · exact hring h0
    · simp [hn] at hstream
  simp [triggerArrives, hpart, hnew, Nat.not_le.mpr hroom, hentry, hvalid, hgroup, hans]

theorem operandFill_of_stale {s : State} {core : Nat} {f : Fill} {rest : List Fill} (hfills : (coreOf s core).fills = f :: rest)
    (hstale : f.stale = true) : operandFill s core = updCore s core (fun c => { c with fills := rest }) := by
  simp [operandFill, hfills, hstale]

/-- An update of a core is determined by what it does to that core. -/
theorem updCore_congr {s : State} {core : Nat} {f g : Core → Core} (h : f (coreOf s core) = g (coreOf s core)) :
    updCore s core f = updCore s core g := by
  rw [coreOf] at h
  simp only [updCore, Tab.upd, h]

theorem operandFill_of_empty {s : State} {core : Nat} {f : Fill} {rest : List Fill} (hfills : (coreOf s core).fills = f :: rest)
    (hfresh : f.stale = false) (hempty : (coreOf s core).opLines = []) :
    operandFill s core = updCore s core (fun c => { c with fills := rest, opLines := [f.line] }) := by
  simp only [operandFill, hfills]
  exact updCore_congr (by simp [hfresh, hempty, opLinesMax])

/-- Settles O12: each answer, timer, reading, trigger and fill does what its function says in the case the clause names. -/
theorem answersTimersAndReadings : Obligations.AnswersTimersAndReadings := by
  refine ⟨fun s core ctx st w o hopen hans hop => ?answer, fun s core ctx o hopen hop htimed hnew hlate hout => ?timeout,
    fun s core ctx o hopen hretry hout hnone => ?retry, fun s obj hobj hup => ?reading, fun s p hp hup => ?clear,
    fun s p e q hacc hnew hroom hentry hring hstream hgroup hans => ?trigger, fun s core hup hpage => ?flush,
    fun s core f rest hfills => ⟨fun hstale => ?stale, fun hfresh hempty => ?fresh⟩⟩
  case answer =>
    refine next_settle_congr ?_
    simp only [syncAnswer, hopen, hans]
    exact deliverStatus_sinit hop st w
  case timeout => exact next_settle_congr (waitTimeout_of_late hopen hop htimed hnew hlate hout)
  case retry => exact next_settle_congr (syncRetry_of_refused hopen hretry hout hnone)
  case reading => exact next_settle_congr (if_pos ⟨hobj, hup⟩)
  case clear => exact next_settle_congr (if_pos ⟨hp, hup⟩)
  case trigger =>
    exact next_settle_congr ((delivered_accepted _ hacc).trans (triggerArrives_of_entry rfl hnew hroom hentry hring hstream hgroup hans))
  case flush => exact next_settle_congr (if_neg (by simp [hup, hpage]))
  case stale => exact next_settle_congr (operandFill_of_stale hfills hstale)
  case fresh => exact next_settle_congr (operandFill_of_empty hfills hfresh hempty)

end Sys2Proof.Machine
end


section
/-! PROOF. Engine rows: a queue head that can start is popped and carried out (R115, R664), for the tensor and vector engines (O13) and
the move engine (O20). -/
namespace Sys2Proof.Machine
open Host

/-- What a command that can start does: its records are read, and it runs from there when they were read. -/
def started (b : Body) (h : Held) (r : Run) : State :=
  if (b.pre h r).2.going = true then
    finishRun (b.main { h with latch := some (b.pre h r).1 } ((b.pre h r).2.commit h (fun x => { x with latch := some (b.pre h r).1 })))
      { h with latch := some (b.pre h r).1 }
  else finishRun (b.pre h r).2 h

theorem tryCommand_of_canStart {s : State} {core unit : Nat} {h : Held} (b : Body) (hheld : heldCmd s core unit h.seq = some h)
    (hnew : h.done = false) (hlatch : h.latch = none) (hstart : canStart s core unit h = true) :
    tryCommand s core unit h.seq b = started b h (runOf (acquireFor s core unit h) core unit h) := by
  simp only [tryCommand, hheld, hnew, hlatch, hstart, started]
  cases (b.pre h (runOf (acquireFor s core unit h) core unit h)).2.going <;> simp

theorem engineRow_of_starts {s : State} {core unit op : Nat} {hd : Head} (may : State → Head → Bool) (b : Body)
    (hs : Starts s core unit op hd) (hmay : (headsOf s core unit).all (may s) = true) :
    engineRow s core unit op may b = started b (startedCmd s core unit hd) (startedRun s core unit hd) := by
  obtain ⟨hruns, hundone, hroom, hchosen, hop, hheld, hstart⟩ := hs
  have hall : (headsOf s core unit).filter (may s) = headsOf s core unit := List.filter_eq_self.mpr (by simpa using hmay)
  have hrow : engineRow s core unit op may b = tryCommand (popHead s core unit hd).1 core unit (popHead s core unit hd).2.seq b := by
    simp [engineRow, hruns, hundone, retryHeld, Nat.not_le.mpr hroom, hall, hchosen, hop]
  rw [hrow, tryCommand_of_canStart b hheld rfl rfl hstart]
  rfl

/-- The two ends of a start, as the statements put them. -/
theorem started_cases {i : Instr} {s : State} {b : Body} {h : Held} {r : Run} (hexec : exec i s = .next (settle (started b h r))) :
    ((b.pre h r).2.going = true →
      exec i s = .next (settle (finishRun (b.main { h with latch := some (b.pre h r).1 }
        ((b.pre h r).2.commit h (fun x => { x with latch := some (b.pre h r).1 }))) { h with latch := some (b.pre h r).1 }))) ∧
    ((b.pre h r).2.going = false → exec i s = .next (settle (finishRun (b.pre h r).2 h))) := by
  rw [hexec, started]
  exact ⟨fun hgo => by rw [if_pos hgo], fun hstop => by rw [if_neg (by simp [hstop])]⟩

/-- Settles O13: each row is the engine row of its operation. -/
theorem engineWordsAreCarriedOut : Obligations.EngineWordsAreCarriedOut := by
  intro s core unit op hd i b hrow hs
  refine started_cases ((?_ : exec i s = .next (settle (engineRow s core unit op (fun _ _ => true) b))).trans
    (next_settle_congr (engineRow_of_starts _ b hs (by simp))))
  simp only [List.mem_cons, Prod.mk.injEq, List.not_mem_nil, or_false] at hrow
  obtain ⟨rfl, rfl, rfl, rfl⟩ | ⟨rfl, rfl, rfl, rfl⟩ | ⟨rfl, rfl, rfl, rfl⟩ | ⟨rfl, rfl, rfl, rfl⟩ | ⟨rfl, rfl, rfl, rfl⟩ |
    ⟨rfl, rfl, rfl, rfl⟩ | ⟨rfl, rfl, rfl, rfl⟩ | ⟨rfl, rfl, rfl, rfl⟩ := hrow
  all_goals rfl

/-- Settles O20: as O13, for the move engine, when each of its heads may be popped. -/
theorem moveWordsAreCarriedOut : Obligations.MoveWordsAreCarriedOut := by
  intro s core op hd i b hrow hs hmay
  refine started_cases ((?_ : exec i s = .next (settle (engineRow s core 4 op (mayPopMe core) b))).trans
    (next_settle_congr (engineRow_of_starts _ b hs hmay)))
  simp only [List.mem_cons, Prod.mk.injEq, List.not_mem_nil, or_false] at hrow
  obtain ⟨rfl, rfl, rfl⟩ | ⟨rfl, rfl, rfl⟩ | ⟨rfl, rfl, rfl⟩ | ⟨rfl, rfl, rfl⟩ | ⟨rfl, rfl, rfl⟩ | ⟨rfl, rfl, rfl⟩ |
    ⟨rfl, rfl, rfl⟩ := hrow
  all_goals rfl

end Sys2Proof.Machine
end


section
/-! PROOF. The microcode (R213, Table 6.7): a microword of a context that steps acts alone (O17, O18, O19). -/
namespace Sys2Proof.Machine
open Host

section
variable {s : State} {core op q : Nat} {h : Held} {x : QCtx} {w : Uw}

/-- The row of the next word's operation lets the word act. -/
theorem ucRow_of_microstep (hm : Microstep s core op q h x w) (act : State → Nat → Held → QCtx → Uw → State) :
    ucRow s core op act = act (stepping s core q) q h x w := by
  obtain ⟨hruns, hready, hctx, hheld, hword, hop⟩ := hm
  simp [ucRow, hruns, hready, hctx, hheld, hword, hop, stepping]

/-- A row whose word comes to `t` settles to it. -/
theorem exec_of_microstep {i : Instr} {act : State → Nat → Held → QCtx → Uw → State} {t : State} (hm : Microstep s core op q h x w)
    (hexec : exec i s = .next (settle (ucRow s core op act))) (ht : act (stepping s core q) q h x w = t) :
    exec i s = .next (settle t) := by
  rw [hexec, ucRow_of_microstep hm, ht]

/-! ### Scalar words -/

/-- The stored 16-bit entry saturates. -/
theorem sth_saturates (v : Int) : (if v < 0 then 0 else if 65535 < v then 65535 else v.toNat) = (max 0 (min 65535 v)).toNat := by
  split_ifs <;> omega

theorem sthOp_of_inside {t : State} (hlow : 0 ≤ (x.desc.aux : Int) + signed 32 w.imm + signed 64 (sreg x w.b))
    (hhigh : (x.desc.aux : Int) + signed 32 w.imm + signed 64 (sreg x w.b) + 2 ≤ 2 ^ 21) :
    sthOp t core q h x w =
      updQ (sWrite t core ((x.desc.aux : Int) + signed 32 w.imm + signed 64 (sreg x w.b)).toNat
        (leBytes 2 (max 0 (min 65535 (signed 64 (sreg x w.a)))).toNat)) core q (fun x => { x with pc := x.pc + 1 }) := by
  have hin : ¬((x.desc.aux : Int) + signed 32 w.imm + signed 64 (sreg x w.b) < 0 ∨
      (sSize : Int) < (x.desc.aux : Int) + signed 32 w.imm + signed 64 (sreg x w.b) + 2) := by
    rintro (hneg | hpast)
    · omega
    · exact absurd (lt_of_lt_of_le hpast hhigh) (by decide)
  simp only [sthOp, if_neg hin, sth_saturates, stepOn, id]

end

/-- Settles O17: a scalar word's row writes its register. -/
theorem scalarMicrowords : Obligations.ScalarMicrowords := by
  intro s core q h x w
  refine ⟨fun hm => ?rsum, fun hm => ?smov, fun hm => ?sadd, fun hm => ?ssub, fun hm => ?smul, fun hm => ?sneg, fun hm => ?saddi,
    fun hm => ?fcvt, fun hm => ?fmul, fun hm => ?fadd, fun hm => ?frsq, fun hm => ?fneg, fun hm hlow hhigh => ?sth⟩
  case sth => exact exec_of_microstep hm rfl (sthOp_of_inside hlow hhigh)
  all_goals exact exec_of_microstep hm rfl rfl

/-! ### Control words and a candidate's end -/

section
variable {t : State} {core q : Nat} {h : Held} {x : QCtx} {w : Uw}

/-- The key of an integer: clamped to 32 bits, its sign turned. -/
theorem keyInt_eq (v : Nat) :
    keyInt v = unsigned 32 (max (-(2 ^ 31)) (min (2 ^ 31 - 1) (signed 64 v))) ^^^ 0x80000000 := by
  have hclamp (z : Int) : (if z < -(2 ^ 31) then -(2 ^ 31) else if 2 ^ 31 - 1 < z then 2 ^ 31 - 1 else z) =
      max (-(2 ^ 31)) (min (2 ^ 31 - 1) z) := by
    split_ifs <;> omega
  simp only [keyInt, hclamp]

end

/-- Settles O18: a control word's row moves the context or ends its candidate. -/
theorem microwordsOfControlAndEmission : Obligations.MicrowordsOfControlAndEmission := by
  intro s core q h x w
  refine ⟨fun hm => ?nop, fun hm => ?jmp, fun hm => ?br, fun hm _ => ?emiti, fun hm _ => ?emitf, fun hm hpro => ?ret, fun hm hkernel => ?skip⟩
  case nop => exact exec_of_microstep hm rfl rfl
  case jmp => exact exec_of_microstep hm rfl rfl
  case br =>
    refine (exec_of_microstep hm rfl rfl).trans ?_
    split <;> rfl
  case emiti => exact exec_of_microstep hm rfl (by rw [keyInt_eq])
  case emitf => exact exec_of_microstep hm rfl rfl
  case ret => exact exec_of_microstep hm rfl (if_pos hpro)
  case skip => exact exec_of_microstep hm rfl (if_neg (by simp [hkernel]))

/-! ### Vector words -/

section
variable {t : State} {core q : Nat} {h : Held} {x : QCtx} {w : Uw}

/-- A vector word of two readable sources, and of the weights when it takes them. -/
theorem vecOp_of_readable {shift : Nat} {aux : Bool} {term : Byte → Byte → Byte → Int} {as bs cs : List Byte} (hvec : x.vec.isEmpty = false)
    (ha : vecBytes t core x w.vs w.off (vecLen w x.desc.vlen) = some (as, false))
    (hb : vecBytes t core x w.vt ((w.off + shift) % 2 ^ 64) (vecLen w x.desc.vlen) = some (bs, false))
    (hc : (if aux then vecBytes t core x 2 w.off (vecLen w x.desc.vlen) else some ([], false)) = some (cs, false)) {r : List W32 × State}
    (hr : r = addLanes t x.acc ((List.range (vecLen w x.desc.vlen)).map (fun i =>
      if (w.vt == 0 && decide (x.desc.vlen ≤ (w.off + shift) % 2 ^ 64 + i)) = true then 0
      else term (nth 0 as i) (nth 0 bs i) (nth 0 cs i)))) :
    vecOp t core q h x w shift true aux term = updQ r.2 core q (fun y => { y with acc := r.1, pc := y.pc + 1 }) := by
  simp only [vecOp, ha, hb, hc, hvec, if_true, Bool.true_and, Bool.not_false, Bool.and_true, Bool.or_self, Bool.false_eq_true, if_false, hr,
    stepOn]

theorem vlutOp_of_readable {as : List Byte} {cell : Nat → Nat} (hvec : x.vec.isEmpty = false)
    (ha : vecBytes t core x w.vs w.off (vecLen w x.desc.vlen) = some (as, false))
    (hcell : ∀ i, cell i = x.desc.aux + (256 * i + (nth 0 as i).toNat) * 2)
    (hcells : ∀ i, i < vecLen w x.desc.vlen → cell i + 2 ≤ 2 ^ 21 ∧ sPoisoned t core (cell i) 2 = false) {r : List W32 × State}
    (hr : r = addLanes t x.acc ((List.range (vecLen w x.desc.vlen)).map (fun i => (sNum t core (cell i) 2 : Int)))) :
    vlutOp t core q h x w = updQ r.2 core q (fun y => { y with acc := r.1, pc := y.pc + 1 }) := by
  have hin : (List.range (vecLen w x.desc.vlen)).any (fun i => decide (sSize < cell i + 2)) = false := by
    simp only [List.any_eq_false, List.mem_range, decide_eq_true_eq]
    exact fun i hi => Nat.not_lt.mpr (hcells i hi).1
  have hclean : (List.range (vecLen w x.desc.vlen)).any (fun i => sPoisoned t core (cell i) 2) = false := by
    simp only [List.any_eq_false, List.mem_range, Bool.not_eq_true]
    exact fun i hi => (hcells i hi).2
  simp only [vlutOp, ha, ← hcell, hin, hclean, hvec, Bool.or_self, Bool.false_eq_true, if_false, hr, stepOn]

end

/-- Settles O19: a vector word's row adds its terms to the lanes. -/
theorem vectorMicrowords : Obligations.VectorMicrowords := by
  refine ⟨fun s core q h x w op i shift term as bs => ?two, fun s core q h x w => ⟨fun as bs cs hm hvec hvt ha hb hc => ?weighted,
    fun as hm hvec ha hcells => ?table, fun hm => exec_of_microstep hm rfl rfl⟩⟩
  case two =>
    intro t el n hop hm hvec ha hb
    simp only [List.mem_cons, Prod.mk.injEq, List.not_mem_nil, or_false] at hop
    obtain ⟨rfl, rfl, rfl, rfl⟩ | ⟨rfl, rfl, rfl, rfl⟩ | ⟨rfl, rfl, rfl, rfl⟩ | ⟨rfl, rfl, rfl, rfl⟩ | ⟨rfl, rfl, rfl, rfl⟩ := hop
    all_goals exact exec_of_microstep hm rfl (vecOp_of_readable hvec ha hb rfl rfl)
  case weighted =>
    refine exec_of_microstep hm rfl (vecOp_of_readable (aux := true) hvec ha hb ((if_pos rfl).trans hc) ?_)
    simp only [beq_eq_false_iff_ne.mpr hvt, Bool.false_and, Bool.false_eq_true, if_false]
    rfl
  case table => exact exec_of_microstep hm rfl (vlutOp_of_readable hvec ha (fun _ => rfl) hcells rfl)

end Sys2Proof.Machine
end


section
/-! PROOF. Search commands and the insertion unit (O15). -/
namespace Sys2Proof.Machine
open Host

section
variable {s : State} {core : Nat}

theorem sloadRow_of_free {hd : Head} (hruns : coreRuns s core = true) (hheld : sloadHeld s core = none)
    (hhead : chosenHead s core = some hd) (hfree : (searchOf s core).qctxs = []) :
    sloadRow s core = trySload
      (updSearch (popHead s core 3 hd).1 core
        (fun u => { u with qctxs := Tab.insert u.qctxs 0 (QCtx.taken (popHead s core 3 hd).2.seq 0 false) }))
      core (popHead s core 3 hd).2 := by
  simp [sloadRow, hruns, hheld, hhead, hfree]

/-- The state in which a popped search command reads its records. -/
def tookQctx (s : State) (core op q : Nat) (hd : Head) : State :=
  updSearch (popHead s core 3 hd).1 core
    (fun u => { u with qctxs := Tab.insert u.qctxs q (QCtx.taken (popHead s core 3 hd).2.seq 0 (op == 3)) })

theorem popSearch_of_head {op q : Nat} {hd : Head} {x : QCtx} (hsload : sloadChosen s core = false) (hq : freeQctx s core = some q)
    (hhead : chooseHead s core 3 (headsOf s core 3) = some hd) (hop : wordOp hd.entry.word = op)
    (hread : readRecords (tookQctx s core op q hd) core (popHead s core 3 hd).2 = .ok x) :
    popSearch s core op = (updQ (tookQctx s core op q hd) core q (fun _ => x), some q) := by
  rw [tookQctx] at hread ⊢
  simp [popSearch, hsload, hq, hhead, hop, hread]

theorem searchRow_of_popped {op q : Nat} {t : State} (begin_ : State → Nat → Nat → Held → QCtx → State) (hruns : coreRuns s core = true)
    (hstill : stillQ s core op = []) (hpop : popSearch s core op = (t, some q)) :
    searchRow s core op begin_ = startSearch t core q begin_ := by
  simp [searchRow, hruns, hstill, hpop]

/-- The list that an inserted candidate leaves. -/
theorem insertCandidate_of_open {c : Insert} {rest : List Insert} {x : QCtx} (hins : (searchOf s core).inserts = c :: rest)
    (hctx : qctxOf (updSearch s core (fun u => { u with inserts := rest })) core c.qctx = some x) {new : List Rec} {t : State}
    (hnew : new = insertRec x.desc.k (recsOf (updSearch s core (fun u => { u with inserts := rest })) core x.desc.topk x.listed)
      { id := c.id, key := c.key, expanded := false, reranked := c.reranked })
    (ht : t = updQ (writeRecs (updSearch s core (fun u => { u with inserts := rest })) core x.desc.topk new) core c.qctx
      (fun y => { y with listed := new.length })) :
    insertCandidate s core = ((searchOf t core).qctxs.map Prod.fst).foldl (fun a q => afterInsert a core q) t := by
  subst ht hnew
  simp only [insertCandidate, hins, hctx]

end

theorem bmcFlush_of_up {s : State} {cluster : Nat} (hcluster : cluster < 24) (hup : pageDown s (F.SE_BMC_CTRL_flush.page + cluster) = false)
    (hpage : pageExists s (F.SE_BMC_CTRL_flush.page + cluster) = true) :
    bmcFlush s cluster = raise { s with bitmaps := Tab.setC [] s.bitmaps cluster [] } (F.SE_BMC_CTRL_flush.page + cluster) 0 := by
  rw [bmcFlush, if_neg (by simp [Nat.not_le.mpr hcluster, hup, hpage])]

/-- Settles O15: a chosen SLOAD, a popped search word, an insertion and a flush each take their branch. -/
theorem searchWordsAndInsertions : Obligations.SearchWordsAndInsertions := by
  refine ⟨fun s core ctx hd hruns hheld _ hhead hfree => ?sload,
    fun s core op q hd x i begin_ hrow hruns hstill hsload hq hhead hop hread => ?search,
    fun s core c rest x hruns hins hctx => ?insertion, fun s cluster hcluster hup hpage => ?flush⟩
  case sload => exact next_settle_congr (sloadRow_of_free hruns hheld hhead hfree)
  case search =>
    have hpopped := searchRow_of_popped begin_ hruns hstill (popSearch_of_head hsload hq hhead hop hread)
    refine Eq.trans (?_ : exec i s = .next (settle (searchRow s core op begin_))) (next_settle_congr hpopped)
    simp only [List.mem_cons, Prod.mk.injEq, List.not_mem_nil, or_false] at hrow
    obtain ⟨rfl, rfl, rfl⟩ | ⟨rfl, rfl, rfl⟩ | ⟨rfl, rfl, rfl⟩ := hrow
    all_goals rfl
  case insertion => exact next_settle_congr ((if_pos hruns).trans (insertCandidate_of_open hins hctx rfl rfl))
  case flush => exact next_settle_congr (bmcFlush_of_up hcluster hup hpage)

end Sys2Proof.Machine
end

section
/-! PROOF. What the move engine does on its own, and pool requests (O21). -/
namespace Sys2Proof.Machine
open Host

section
variable {s : State} {n : Nat} {x : HaulRun} {e : HaulEntry} {h : Held}

/-- The layer in hand is tagged, signalled, and compared with its due. -/
def landed (s : State) (n : Nat) (x : HaulRun) (h : Held) : State :=
  checkLate (completionSignal
    (updEntry s n (fun e => { e with tags := setNth e.tags (x.layer % e.slots) (some (x.layer, e.gen)), next := x.layer + 1 }))
    x.core x.ctx h.entry.pc x.fullObj) h x

/-- A layer that its slot holds lands: the program ends with its last layer, else the next layer is in hand. -/
theorem layerLand_of_resident (hrun : s.haulRuns.find? (fun x => x.entry == n) = some x) (hentry : Tab.find? s.haul n = some e)
    (hheld : heldCmd s x.core 4 x.seq = some h) (herror : h.error = 0) (hgranted : x.granted = true) (hres : isResident s x = true)
    (hmissed : e.missed = []) :
    layerLand s n =
      if x.layer = x.last ∨ x.stopping then endHaul (landed s n x h) x.core x.seq
      else updHeld (updHaul (landed s n x h) x.core x.seq (fun y => { y with layer := y.layer + 1, asked := false, granted := false }))
        x.core 4 x.seq (fun y => { y with latch := some [[]], pos := 0 }) := by
  simp [layerLand, hrun, hentry, hheld, herror, hgranted, hres, hmissed, landed]

theorem haulRefill_of_one {part w : Nat} (hhaul : s.haul = [(n, e)]) (hmissed : e.missed = [w]) (hdue : refillDue s e (some part) w = true)
    (hline : (refillLine s e w).2 = true) {b : State}
    (hb : b = updEntry (refillLine s e w).1 n (fun e => { e with missed := e.missed.filter (fun m => m != w) }))
    (hnone : b.haul.any (fun p => p.2.missed.any (refillDue b p.2 (some part))) = false) :
    haulRefill s part = raise b haulPage 2 := by
  subst hb
  simp only [haulRefill, hhaul, hmissed, List.foldl_cons, List.foldl_nil, List.filter_cons, List.filter_nil, hdue, hline, if_true, hnone,
    Bool.not_false, Bool.and_self]

end

theorem poolRequest_of_idle {s : State} (q : PoolReq) (hidle : getF s F.HUB_POOL_RESULT_busy 0 = 0) :
    poolRequest s q = if q.place then placePool (setF s F.HUB_POOL_RESULT_busy 0 1) q else freePool (setF s F.HUB_POOL_RESULT_busy 0 1) q := by
  rw [poolRequest, if_neg (by simp [hidle]), servePool]

theorem poolRequest_of_busy {s : State} (q : PoolReq) (hbusy : getF s F.HUB_POOL_RESULT_busy 0 = 1) :
    poolRequest s q = raise (setF s F.HUB_POOL_RESULT_lost 0 1) poolPage 3 := by
  simp [poolRequest, hbusy]

/-- Settles O21: descriptors, layers, refills and pool requests each take their branch. -/
theorem transfersAndPools : Obligations.TransfersAndPools := by
  refine ⟨⟨fun s core hruns => ?submit, fun s n x e h hrun hentry hheld herror hgranted hres hmissed => ⟨fun hlast => ?last, fun hmore hgo => ?more⟩,
    fun s part n w e hhaul hmissed hdue hline hnone => ?refill⟩, fun s region pmask frames => ⟨fun hidle => ⟨?place, ?free⟩, fun hbusy => ⟨?placeLost, ?freeLost⟩⟩⟩
  case submit => exact next_settle_congr (if_neg (by simp [hruns]))
  case last =>
    exact next_settle_congr ((layerLand_of_resident hrun hentry hheld herror hgranted hres hmissed).trans (if_pos hlast))
  case more =>
    exact next_settle_congr ((layerLand_of_resident hrun hentry hheld herror hgranted hres hmissed).trans (if_neg (by simp [hmore, hgo])))
  case refill => exact next_settle_congr (haulRefill_of_one hhaul hmissed hdue hline rfl hnone)
  case place => exact next_settle_congr (poolRequest_of_idle _ hidle)
  case free => exact next_settle_congr (poolRequest_of_idle _ hidle)
  case placeLost => exact next_settle_congr (poolRequest_of_busy _ hbusy)
  case freeLost => exact next_settle_congr (poolRequest_of_busy _ hbusy)

end Sys2Proof.Machine
end

section
/-! PROOF. The translation unit (R309, R317 to R319, R326 to R328): O22. -/
namespace Sys2Proof.Machine
open Host

section
variable {s : State} {c : Nat}

theorem oneOp_of_busy (f : State → State) (hbusy : s.xlt.busy.isSome = true) :
    oneOp s f = raise (setF s F.XLT_CTX_RESULT_lost 0 1) xltPage 2 := if_pos hbusy

theorem oneOp_of_idle (f : State → State) (hidle : s.xlt.busy = none) : oneOp s f = f s := by simp [oneOp, hidle]

/-- LOAD by the descriptor it has read. -/
def loadWith (s : State) (c : Nat) (d : List Byte) : State :=
  if descOk s d then
    bumpEpoch (openOp (invalidate (rebind (updContext s c (fun x => contextOf d x.epoch)) c (Config.hash d)) (.ctx c)) c (some c)) c
  else endOp s c 1

/-- The definition is unfolded as a function, so that the kernel compares it without evaluating the read. -/
theorem loadContext_of_read {d : List Byte} (hread : hubRead s (getF s F.XLT_CTX_BASE_addr 0 * 2 ^ 21 + 512 * c) 512 = some d) :
    loadContext s c = loadWith s c d := by
  suffices hfun : ∀ f : State → Nat → State, f = loadContext → f s c = loadWith s c d from hfun _ rfl
  intro f hf
  delta loadContext at hf
  rw [hf]
  simp only [hread, -Nat.reducePow, loadWith]
  cases descOk s d
  · rw [if_pos (by simp), if_neg (by simp)]
  · rw [if_neg (by simp), if_pos rfl]

theorem finishOp_of_done {scope : Option Nat} (hbusy : s.xlt.busy = some scope) (hdone : contextBusy s scope = false)
    (hbumps : s.xlt.heldBumps = []) :
    finishOp s = raise (setF { s with xlt := { s.xlt with busy := none } } F.XLT_CTX_RESULT_busy 0 0) xltPage 0 := by
  rw [finishOp, hbusy]
  exact if_neg (by simp [hdone, hbumps])

theorem finishWalk_of_fresh {core : Nat} {w : Walk} {rest : List Walk} (hwalk : takeFirst (fun w => w.core == core) s.xlt.walks = some (w, rest))
    (hfresh : w.stale = false) (hup : partUp s (partOfCore core) = true) :
    finishWalk s core = fillPart (fillCore (addWrapF { s with xlt := { s.xlt with walks := rest } } F.XLT_WALKS_walks 0 1) core w.entry)
      (partOfCore core) w.entry := by
  rw [finishWalk, hwalk]
  exact if_neg (by simp [hfresh, hup])

end

/-- An operation of the translation unit begins only when none is running. -/
theorem exec_xlt_busy {s : State} {c : Nat} {bump : Bool} {i : Instr}
    (hi : i ∈ [Instr.load c, .unload c, .invRange c bump, .invCtx c bump, .invAll bump]) (hbusy : s.xlt.busy.isSome = true) :
    exec i s = .next (settle (raise (setF s F.XLT_CTX_RESULT_lost 0 1) xltPage 2)) := by
  simp only [List.mem_cons, List.not_mem_nil, or_false] at hi
  obtain rfl | rfl | rfl | rfl | rfl := hi
  all_goals exact next_settle_congr (oneOp_of_busy _ hbusy)

/-- Settles O22: each operation of an idle unit begins, and each ends when it may. -/
theorem translationUnit : Obligations.TranslationUnit := by
  refine ⟨fun s c bump => ⟨fun i hi hbusy => exec_xlt_busy hi hbusy, fun hidle => ⟨fun d hread hok => ?load, fun d hread hbad => ?loadBad,
      fun hfree => ?unload, fun hused => ?unloadUsed, ?range, ?ctx, ?all⟩⟩,
    fun s scope hbusy hdone hbumps => ?done, fun s c hheld hwaits => ?bump, fun s c => rfl, fun s hdone => ?drained,
    fun s core w rest hwalk hfresh hup => ?walk⟩
  case load => exact next_settle_congr ((oneOp_of_idle _ hidle).trans ((loadContext_of_read hread).trans (if_pos hok)))
  case loadBad => exact next_settle_congr ((oneOp_of_idle _ hidle).trans ((loadContext_of_read hread).trans (if_neg (by simp [hbad]))))
  case unload => exact next_settle_congr ((oneOp_of_idle _ hidle).trans (if_neg (by simp [hfree])))
  case unloadUsed => exact next_settle_congr ((oneOp_of_idle _ hidle).trans (if_pos hused))
  case range => exact next_settle_congr (oneOp_of_idle _ hidle)
  case ctx => exact next_settle_congr (oneOp_of_idle _ hidle)
  case all => exact next_settle_congr (oneOp_of_idle _ hidle)
  case done => exact next_settle_congr (finishOp_of_done hbusy hdone hbumps)
  case bump => exact next_settle_congr (if_pos (by rw [hheld, hwaits]; rfl))
  case drained => exact next_settle_congr (if_pos hdone)
  case walk => exact next_settle_congr (finishWalk_of_fresh hwalk hfresh hup)

end Sys2Proof.Machine
end


section
/-! PROOF. Host command queues: doorbells, fetches, resets, the interface's states and completions (O25). -/
namespace Sys2Proof.Machine
open Host

section
variable {s : State} {q : Nat}

/-- An update of a queue is determined by what it does to that queue. -/
theorem updQueue_congr {f g : HostQueue → HostQueue} (h : f (hostQueue s q) = g (hostQueue s q)) : updQueue s q f = updQueue s q g := by
  rw [hostQueue] at h
  simp only [updQueue, Tab.upd, h]

theorem queueFetch_of_ok {d : List Byte} {b : State} {y : HostQueue} (hb : b = settleQueue s q) (hy : y = hostQueue b q)
    (hlen : d.length = 64) (hok : entryOk d = true) (hruns : queueRuns b q = true) (henable : y.enable = true) (hsome : y.head ≠ y.tail)
    (hroom : y.cmds.length < 16) :
    queueFetch s q d = updQueue b q (fun z => { z with
      head := (y.head + 1) % 2 ^ y.sqLog
      cmds := z.cmds ++ [{ opcode := field d 0 2, cid := field d 2 2, fence := bit (field d 4 1) 0, irq := bit (field d 4 1) 1,
                           arg0 := field d 8 8, arg1 := field d 0x10 8, arg2 := field d 0x18 8, headAfter := (y.head + 1) % 2 ^ y.sqLog,
                           started := false, waiting := false, since := b.now, cancelled := false, complete := none, doneAt := b.now }] }) := by
  subst hb hy
  simp only [queueFetch, hlen, hok, Bool.not_true, Bool.false_eq_true, if_false]
  rw [if_neg (by simp [hruns, henable, hsome, Nat.not_le.mpr hroom])]

theorem queueReset_of_running (hq : q < 1024) (herror : (hostQueue (dropQueueWork s q) q).tdisp ≠ .error) :
    queueReset s q = updQueue (dropQueueWork s q) q (fun y => { y.cleared with stopping := false }) := by
  simp only [queueReset, Nat.not_le.mpr hq, herror, decide_false, Bool.false_and, Bool.false_eq_true, if_false]
  exact updQueue_congr rfl

theorem lockInterface_of_unlocked (hq : q < 1024) (hstate : (hostQueue s q).tdisp = .unlocked) :
    lockInterface s q = settleQueue (updQueue s q (fun y => { y with
      tdisp := .locked, latched := some (rawReg s (queuePage q) 0x100).toNat })) q :=
  if_neg (by simp [Nat.not_le.mpr hq, hstate])

theorem startInterface_of_locked (hq : q < 1024) (hstate : (hostQueue s q).tdisp = .locked) :
    startInterface s q = updQueue s q (fun y => { y with tdisp := .run }) :=
  if_neg (by simp [Nat.not_le.mpr hq, hstate])

theorem stopInterface_of_live (hq : q < 1024) (hstate : (hostQueue s q).tdisp = .locked ∨ (hostQueue s q).tdisp = .run) :
    stopInterface s q = settleQueue (updQueue (dropQueueWork s q) q
      (fun y => { endCommands y s.now 9 with tdisp := .unlocked, latched := none })) q := by
  rw [stopInterface, if_neg (Nat.not_le.mpr hq)]
  rcases hstate with hstate | hstate <;> rw [hstate]

theorem queueCompletion_of_done {c : QueueCmd} {y : HostQueue} {tail : Nat} (hy : y = hostQueue s q) (htail : tail = (y.cqTail + 1) % 2 ^ y.cqLog)
    (hq : q < 1024) (hcarries : linkCarries s (queueLink s q) = true) (hout : linkOut s (queueLink s q) = false)
    (hroom : tail ≠ y.cqHead) (hdone : doneCmd s q = some c) (hirq : c.irq = true) :
    queueCompletion s q = emit (updQueue (bwHost (emit s (.hostWrite (queueLink s q) (y.cqBase + 16 * y.cqTail) (completionEntry c y.phase)))
      (queueLink s q) 0 16) q (fun y => { y with
        cmds := removeFirst c y.cmds, cqTail := tail, phase := if tail = 0 then !y.phase else y.phase })) (.msix q) := by
  subst hy htail
  simp only [queueCompletion, hdone, hirq, if_true]
  rw [if_neg (by simp [Nat.not_le.mpr hq, hcarries, hout, hroom])]

end

/-- Settles O25: each register write, state change, fetch and completion takes its branch. -/
theorem hostQueueRings : Obligations.HostQueueRings := by
  refine ⟨fun s q n hwrites => ⟨?tail, ?head⟩, fun s q d hlen hok hruns henable hsome hroom => ?fetch, fun s q hq herror => ?reset,
    fun s q hq hstate => ?lock, fun s q hq hstate => ?start, fun s q hq hstate => ?stop,
    fun s q c hq hcarries hout hroom hdone hirq => ?completion⟩
  case tail => exact next_settle_congr (if_pos hwrites)
  case head => exact next_settle_congr (if_pos hwrites)
  case fetch => exact next_settle_congr (queueFetch_of_ok rfl rfl hlen hok hruns henable hsome hroom)
  case reset => exact next_settle_congr (queueReset_of_running hq herror)
  case lock => exact next_settle_congr (lockInterface_of_unlocked hq hstate)
  case start => exact next_settle_congr (startInterface_of_locked hq hstate)
  case stop => exact next_settle_congr (stopInterface_of_live hq hstate)
  case completion => exact next_settle_congr (queueCompletion_of_done rfl rfl hq hcarries hout hroom hdone hirq)

end Sys2Proof.Machine
end

section
/-! PROOF. The commands of the host queues (O26). -/
namespace Sys2Proof.Machine
open Host

section
variable {s : State} {q op : Nat} {c : QueueCmd}

/-- The next command to start, when it is of the row's operation, runs. -/
theorem startCmd_of_next (hnext : NextHostCommand s q op c) (f : State → QueueCmd → State) : startCmd s q op f = f s c := by
  obtain ⟨hruns, hcmd, hop, hup, htenant⟩ := hnext
  simp only [startCmd, hruns, hcmd, hop, hup, htenant, ne_eq, not_true_eq_false, Bool.not_true, Bool.false_eq_true, or_self, if_false]

/-- What a run that has neither waited nor failed leaves for the command's own end. -/
def ranTo (q : Nat) (r : Run) : State := dropInbox (queueTraffic r (queueCarrier r.s q)) r.core 0 r.seq

theorem endQueueRun_of_go {r : Run} (hgo : r.stop = .go) (ok : State → State) : endQueueRun q c r ok = ok (ranTo q r) := by
  simp only [endQueueRun, hgo, ranTo]

theorem copyIn_of_fits {data : List Byte} {poison : Bool} {r : Run} (hnext : NextHostCommand s q 2 c) (hlen : data.length = c.arg2)
    (hwindow : inHostWindow s q c.arg0 c.arg2 = true) (hlease : leasedElse s q c.arg1 c.arg2 = false)
    (hr : ((queueRun s q c).crossHost q c.arg2 false).writeMp (c.arg1 % 2 ^ 57) data poison = r) (hgo : r.stop = .go) :
    copyIn s q data poison =
      if poison then finishCmd (poisonRecord (ranTo q r) q 0) q c 8 0 0 else finishCmd (ranTo q r) q c 0 0 0 := by
  rw [copyIn, startCmd_of_next hnext, if_neg (by simp [hlen]), if_neg (by simp [hwindow]), if_neg (by simp [hlease]), hr,
    endQueueRun_of_go hgo]

/-- Pieces of which none is poison are posted as they were read. -/
theorem foldl_postHost_of_clean {ps : List (Nat × List Byte × Bool)} (l : Nat) (addr : Nat) (hclean : ps.any (fun p => p.2.2) = false)
    (t : State) :
    ps.foldl (fun a p => postHost a l (addr + p.1) p.2.1 p.2.2) t = ps.foldl (fun a p => emit a (.hostWrite l (addr + p.1) p.2.1)) t := by
  refine List.foldl_ext _ _ t (fun a p hp => ?_)
  rw [postHost, if_neg (by simpa using List.any_eq_false.mp hclean p hp)]

theorem copyOut_of_clean {x : List (Nat × List Byte × Bool) × Run} {r : Run} (hnext : NextHostCommand s q 3 c)
    (hwindow : inHostWindow s q c.arg0 c.arg2 = true) (hlease : leasedElse s q c.arg1 c.arg2 = false)
    (hx : readPieces (queueRun s q c) (c.arg1 % 2 ^ 57) c.arg2 = x) (hr : x.2.crossHost q c.arg2 true = r) (hgo : r.stop = .go)
    (hclean : x.1.any (fun p => p.2.2) = false) :
    copyOut s q = finishCmd
      (x.1.foldl (fun a p => emit a (.hostWrite (queueLink (ranTo q r) q) (c.arg0 + p.1) p.2.1)) (ranTo q r)) q c 0 0 0 := by
  rw [copyOut, startCmd_of_next hnext, if_neg (by simp [hwindow]), if_neg (by simp [hlease]), hx]
  simp only [hr]
  rw [endQueueRun_of_go hgo, if_neg (by simp [hclean]), foldl_postHost_of_clean _ _ hclean]

theorem pageOut_of_ready {r : LeaseReq} (hruns : queueRuns s q = true) (hready : readyLease s q = some (c, r)) :
    pageOut s q = copyPage s q c r := by
  simp only [pageOut, hruns, if_true, hready]

theorem pageOut_of_next (hnone : readyLease s q = none) (hnext : NextHostCommand s q 4 c) : pageOut s q = askLease s q c := by
  simp only [pageOut, hnone, ite_self, startCmd_of_next hnext]

/-- A page whose lease allows no writes, or that was not written, is not copied back. -/
theorem pageIn_of_clean {data : List Byte} {pa : Nat} {nc : Bool} {r : Run} {l : Lease} (hnext : NextHostCommand s q 5 c)
    (hwindow : inHostWindow s q c.arg1 (leaseSize c.arg2) = true)
    (haddr : (queueRun s q c).translate (c.arg0 % 2 ^ 57) .rd = (some (pa, nc), r)) (hlocal : isLocal s pa = true)
    (hlease : ownLease s q (paOff pa) (leaseSize c.arg2) = some l) (hclean : l.ro = true ∨ bit c.arg2 2 = true) :
    pageIn s q data false = finishCmd (endLease (queueTraffic r (queueCarrier s q)) l) q c 0 0 0 := by
  rw [pageIn, startCmd_of_next hnext, haddr, if_neg (by simp [hwindow])]
  simp only [hlocal, if_true, hlease, hclean, Bool.or_eq_true]

theorem syncRow_of_expired {w : QueueCmd} (hruns : queueRuns s q = true) (hexpired : expiredWait s q = some w) :
    syncRow s q = cancelQueueWait s q w := by
  simp only [syncRow, hruns, if_true, hexpired]

theorem syncRow_of_next (hnone : expiredWait s q = none) (hnext : NextHostCommand s q 6 c) : syncRow s q = startSync s q c := by
  simp only [syncRow, hnone, ite_self, startCmd_of_next hnext]

theorem admitRow_of_translated {pa : Nat} {nc : Bool} {r : Run} (hnext : NextHostCommand s q 7 c)
    (haddr : (queueRun s q c).translate (c.arg0 % 2 ^ 57) .rd = (some (pa, nc), r)) :
    admitRow s q = queueAdmit (queueTraffic r (queueCarrier s q)) q c (.enter (.hostQueue q) (queueContext s q) (some pa)) := by
  rw [admitRow, startCmd_of_next hnext, haddr]

/-- A read of the host that is not answered leaves poison in the store. -/
theorem readTimeout_of_copy {r : Run} (hnext : NextHostCommand s q 2 c) (hwindow : inHostWindow s q c.arg0 c.arg2 = true)
    (hlease : leasedElse s q c.arg1 c.arg2 = false) (hr : (queueRun s q c).writeMp (c.arg1 % 2 ^ 57) (zeroBytes c.arg2) true = r)
    (hgo : r.stop = .go) : readTimeout s q c.cid = finishCmd (ranTo q r) q c 7 0 0 := by
  obtain ⟨hruns, hcmd, hop, hup, htenant⟩ := hnext
  rw [readTimeout, if_neg (by simp [hruns]), hcmd]
  simp only [ne_eq, not_true_eq_false, if_false, hop, if_true, hr]
  rw [if_neg (by simp [htenant, hwindow, hlease]), endQueueRun_of_go hgo]

end

/-- Settles O26: each command that is the next to start runs to its own end. -/
theorem hostQueueCommands : Obligations.HostQueueCommands := by
  intro s q c
  refine ⟨fun hnext => ?nop, fun data poison hnext hlen hwindow hlease hgo => ?copyIn, fun hnext hwindow hlease hgo hclean => ?copyOut,
    fun r hruns hready => ?pageReady, fun hnone hnext => ?pageAsked,
    fun data pa nc r l hnext hwindow haddr hlocal hlease hclean => ?pageIn, fun w hruns hexpired => ?syncExpired,
    fun hnone hnext => ?syncStarts, fun pa nc r hnext haddr => ?enters, fun hnext => ?withdraws,
    fun hnext hwindow hlease hgo => ?timeout⟩
  case nop => exact next_settle_congr (startCmd_of_next hnext _)
  case copyIn => exact next_settle_congr (copyIn_of_fits hnext hlen hwindow hlease rfl hgo)
  case copyOut => exact next_settle_congr (copyOut_of_clean hnext hwindow hlease rfl rfl hgo hclean)
  case pageReady => exact next_settle_congr (pageOut_of_ready hruns hready)
  case pageAsked => exact next_settle_congr (pageOut_of_next hnone hnext)
  case pageIn => exact next_settle_congr (pageIn_of_clean hnext hwindow haddr hlocal hlease hclean)
  case syncExpired => exact next_settle_congr (syncRow_of_expired hruns hexpired)
  case syncStarts => exact next_settle_congr (syncRow_of_next hnone hnext)
  case enters => exact next_settle_congr (admitRow_of_translated hnext haddr)
  case withdraws => exact next_settle_congr (startCmd_of_next hnext _)
  case timeout => exact next_settle_congr (readTimeout_of_copy hnext hwindow hlease rfl hgo)

end Sys2Proof.Machine
end


section
/-! PROOF. Flits, seals and replay of a Nelpin link (O27). -/
namespace Sys2Proof.Machine
open Host

section
variable {s : State} {n : Nat} {f : Flit}

/-- The state in which a port takes the data flits of its next group. -/
def freshKeyed (s : State) (n : Nat) : State :=
  updPort s n (fun q => if 2 ^ 32 < q.txCount + 128 then { q with txGen := q.txGen + 1, txCount := 0 } else q)

/-- The seal that closes a group of `k` flits. -/
def sealOf (q : Port) (k : Nat) : Flit :=
  { kind := 1, seq := q.txSeq, ack := q.verified, nak := false, phase := bit q.txGen 0, timed := false, channel := 0, start := 0,
    units := [], first := (q.txSeq + 4096 - k) % 4096, count := k, credits := q.freed }

theorem sealSend_of_group {r : State × Nat} (hn : n < 48) (hactive : (port s n).state = .active) (hroom : (port s n).replay.length < 1024)
    (hr : (if portReady s n then sendGroup n 127 (freshKeyed s n) else (freshKeyed s n, 0)) = r)
    (hsome : 0 < r.2 ∨ (port r.1 n).freed ≠ (port r.1 n).told) :
    sealSend s n = emit (updPort r.1 n (fun y => { y with
      txSeq := (y.txSeq + 1) % 4096, replay := y.replay ++ [sealOf (port r.1 n) r.2], ackAt := if y.replay.isEmpty then s.now else y.ackAt
      txCount := y.txCount + r.2 + 1, told := y.freed })) (.flit n (sealOf (port r.1 n) r.2)) := by
  have hsends : ¬(r.2 = 0 ∧ (port r.1 n).freed = (port r.1 n).told) := fun h => hsome.elim (fun hk => hk.ne' h.1) (fun hq => hq h.2)
  rw [sealSend, if_neg (by simp [Nat.not_le.mpr hn, hactive, Nat.not_le.mpr hroom])]
  rw [freshKeyed] at hr
  simp only [hr, if_neg hsends, sealOf]

theorem dataFlit_of_data (hn : n < 48) (hactive : (port s n).state = .active) (hstays : (port (heardFlit s n f) n).state = .active)
    (hkind : f.kind = 0) (hchannel : f.channel < 6) (hstart : f.start ≤ 15) :
    dataFlit s n f = sequenced (heardFlit s n f) n f (fun a =>
      acceptSeq (updPort a n (fun q => { q with group := q.group ++ [(f, s.now)] })) n) := by
  rw [dataFlit, if_neg (by simp [Nat.not_le.mpr hn, hactive])]
  simp only [hstays]
  rw [if_neg (by simp), if_neg (by simp [hkind, Nat.not_le.mpr hchannel, Nat.not_lt.mpr hstart])]

theorem sealFlit_of_seal (hn : n < 48) (hactive : (port s n).state = .active) (hstays : (port (heardFlit s n f) n).state = .active)
    (hkind : f.kind = 1) (hcount : f.count ≤ 127) (v : Bool) :
    sealFlit s n f v = sequenced (heardFlit s n f) n f (fun a =>
      if (v && f.count == (port a n).group.length && (f.first + (port a n).group.length) % 4096 == f.seq) = true then sealGood a n f
      else sealBad a n) := by
  rw [sealFlit, if_neg (by simp [Nat.not_le.mpr hn, hactive])]
  simp only [hstays]
  rw [if_neg (by simp), if_neg (by simp [hkind, Nat.not_lt.mpr hcount])]

theorem idleFlit_of_active (hn : n < 48) (hactive : (port s n).state = .active) (hstays : (port (heardFlit s n f) n).state = .active) :
    idleFlit s n f =
      if f.seq = (port (heardFlit s n f) n).expected then heardFlit s n f else askReplay (heardFlit s n f) n := by
  rw [idleFlit, if_neg (by simp [Nat.not_le.mpr hn, hactive])]
  simp only [hstays, true_and, ne_eq, ite_not]

theorem badFlit_of_active (hn : n < 48) (hactive : (port s n).state = .active) (u : Bool) :
    badFlit s n u = askReplay (if u then addSatF s F.NLK_FEC_uncorrectable n 1 else s) n :=
  if_neg (by simp [Nat.not_le.mpr hn, hactive])

theorem nakArrives_of_active (hn : n < 48) (hactive : (port s n).state = .active) (a : Nat) :
    nakArrives s n a = takeNak (updPort s n (fun q => { q with lastGood := s.now })) n a :=
  if_neg (by simp [Nat.not_le.mpr hn, hactive])

theorem nakAgain_of_late (hn : n < 48) (hactive : (port s n).state = .active) (hasked : (port s n).nakPending = true)
    (hlate : (port s n).nakAt + 2000 ≤ s.now) : nakAgain s n = sendNak s n :=
  if_neg (by simp [Nat.not_le.mpr hn, hactive, hasked, Nat.not_lt.mpr hlate])

theorem replayTimeout_of_late (hn : n < 48) (hactive : (port s n).state = .active) (hsome : (port s n).replay ≠ [])
    (hlate : (port s n).ackAt + 2000 * getF s F.NLK_CFG_replay_us n ≤ s.now) {b : State}
    (hb : raise (updPort s n (fun q => { q with replayTimeouts := q.replayTimeouts + 1, ackAt := s.now })) (nlkPage n) 5 = b) :
    replayTimeout s n =
      if getF s F.NLK_CFG_replay_limit n ≤ (port s n).replayTimeouts + 1 then portDown b n causeReplay else replayAll b n := by
  rw [replayTimeout, if_neg (by simp [Nat.not_le.mpr hn, hactive, hsome, Nat.not_lt.mpr hlate])]
  simp only [hb]

end

/-- Settles O27: flits, seals and naks of an active port take their branch. -/
theorem flitsSealsAndReplay : Obligations.FlitsSealsAndReplay := by
  refine ⟨fun s n hn hactive hroom hsome => ?send, fun s n f hn hactive hstays => ⟨fun hkind hchannel hstart => ?data,
    fun v hkind hcount => ?closing, fun hnext => ?idle, fun hgap => ?gap⟩, fun s n hn hactive => ⟨?badCrc, ?uncorrectable, fun a => ?nak,
    fun hasked hlate => ?nakAgain, fun hsome hlate => ?replay⟩⟩
  case send => exact next_settle_congr (sealSend_of_group hn hactive hroom rfl hsome)
  case data => exact next_settle_congr (dataFlit_of_data hn hactive hstays hkind hchannel hstart)
  case closing => exact next_settle_congr (sealFlit_of_seal hn hactive hstays hkind hcount v)
  case idle => exact next_settle_congr ((idleFlit_of_active hn hactive hstays).trans (if_pos hnext))
  case gap => exact next_settle_congr ((idleFlit_of_active hn hactive hstays).trans (if_neg hgap))
  case badCrc => exact next_settle_congr (badFlit_of_active hn hactive false)
  case uncorrectable => exact next_settle_congr (badFlit_of_active hn hactive true)
  case nak => exact next_settle_congr (nakArrives_of_active hn hactive a)
  case nakAgain => exact next_settle_congr (nakAgain_of_late hn hactive hasked hlate)
  case replay => exact next_settle_congr (replayTimeout_of_late hn hactive hsome hlate rfl)

end Sys2Proof.Machine
end

section
/-! PROOF. Training and lanes of a Nelpin link (O28). -/
namespace Sys2Proof.Machine
open Host

section
variable {s : State} {n : Nat}

theorem trainingStep_equalize (hn : n < 48) (hstate : (port s n).state = .equalize) {h : Nat} (hlanes : allowedLanes s n (h % 16) ≠ 0) :
    trainingStep s n h = updPort s n (fun q => { q with state := .align, since := s.now, healthy := allowedLanes s n (h % 16) }) := by
  simp only [trainingStep, if_neg (Nat.not_le.mpr hn), hstate, if_neg hlanes]

theorem trainingStep_align (hn : n < 48) (hstate : (port s n).state = .align) (h : Nat) :
    trainingStep s n h = updPort s n (fun q => { q with state := .params, since := s.now, width := widthOf q.healthy }) := by
  simp only [trainingStep, if_neg (Nat.not_le.mpr hn), hstate]

theorem trainingStep_delay (hn : n < 48) (hstate : (port s n).state = .delay) (hprobes : 16 ≤ (port s n).probes) (h : Nat) :
    trainingStep s n h = enterActive s n := by
  simp only [trainingStep, if_neg (Nat.not_le.mpr hn), hstate, if_pos hprobes]

/-- The port notes what its partner reports of itself. -/
def notedPartner (s : State) (n : Nat) (fs : List Nat) : State :=
  updPort s n (fun q => { q with partnerHub := nth 0 fs 0 % 1024, partnerPort := nth 0 fs 1 % 64,
                                 partnerEpoch := nth 0 fs 2 % 2 ^ 32, partnerJoined := decide (nth 0 fs 4 = 1) })

theorem paramsArrive_of_partner (hn : n < 48) (hstate : (port s n).state = .params) {fs : List Nat}
    (hdomain : joined s = false ∨ nth 0 fs 4 ≠ 1 ∨ nth 0 fs 3 = s.startup.domain) (hother : nth 0 fs 0 % 1024 ≠ hubId s)
    (hversion : nth 0 fs 5 = 1) :
    paramsArrive s n fs = updPort (notedPartner s n fs) n (fun q => { q with state := .secure, since := s.now }) := by
  have hsame : ¬(joined s ∧ decide (nth 0 fs 4 = 1) = true ∧ nth 0 fs 3 ≠ s.startup.domain) := by
    rintro ⟨hjoined, htheirs, hdiffers⟩
    rcases hdomain with hout | hnot | heq
    · rw [hout] at hjoined
      cases hjoined
    · exact hnot (of_decide_eq_true htheirs)
    · exact hdiffers heq
  simp only [paramsArrive]
  rw [if_neg (by simp [Nat.not_le.mpr hn, hstate]), if_neg hsame, if_neg (fun h => hother h.1), if_neg (not_not_intro hversion), notedPartner]

theorem paramsArrive_of_stranger (hn : n < 48) (hstate : (port s n).state = .params) {fs : List Nat} (hjoined : joined s = true)
    (htheirs : nth 0 fs 4 = 1) (hdiffers : nth 0 fs 3 ≠ s.startup.domain) :
    paramsArrive s n fs = refusePartner
      (updPort s n (fun q => { q with partnerHub := nth 0 fs 0 % 1024, partnerPort := nth 0 fs 1 % 64,
                                      partnerEpoch := nth 0 fs 2 % 2 ^ 32, partnerJoined := true })) n 9 := by
  simp only [paramsArrive, htheirs, decide_true]
  rw [if_neg (by simp [Nat.not_le.mpr hn, hstate]), if_pos ⟨hjoined, trivial, hdiffers⟩]

theorem secureEnds_of_secure (hn : n < 48) (hstate : (port s n).state = .secure) (accepted : Bool) :
    secureEnds s n accepted =
      if accepted then updPort s n (fun q => { q with state := .delay, since := s.now, keyed := true, probes := 0, delays := [], lastGood := s.now })
      else refusePartner s n 12 :=
  if_neg (by simp [Nat.not_le.mpr hn, hstate])

theorem trainingTimeout_retrain (hn : n < 48) (hstate : (port s n).state = .retrain) (hlate : (port s n).since + 20000 ≤ s.now) :
    trainingTimeout s n = portDown s n causeRetrain := by
  simp only [trainingTimeout, hstate, stateTimeout]
  rw [if_neg (by simp [Nat.not_le.mpr hn, Nat.not_lt.mpr hlate])]

theorem trainingTimeout_of_late (hn : n < 48) {t : Nat} (hbound : stateTimeout (port s n).state = some t) (hlate : (port s n).since + t ≤ s.now)
    (hretrain : (port s n).state ≠ .retrain) (hdetect : (port s n).state ≠ .detect) : trainingTimeout s n = trainingFails s n 0 := by
  simp only [trainingTimeout, hbound]
  rw [if_neg (by simp [Nat.not_le.mpr hn, Nat.not_lt.mpr hlate])]

/-- A port that carries flits sends, answers and takes probes. -/
theorem probes_of_live (hn : n < 48) (hlive : (port s n).live = true) :
    exec (.probeSend n) s = .next (settle (emit s (.control n 3 [s.now]))) ∧
    (∀ t1 : Nat, exec (.probe n t1) s = .next (settle (emit (updPort s n (fun q => { q with lastGood := s.now })) (.control n 4 [t1, s.now, s.now])))) ∧
    (∀ t1 t2 t3 : Nat, exec (.probeReply n t1 t2 t3) s = .next (settle
      (delayResult s n (((s.now : Int) - t1 - ((t3 : Int) - t2)) / 2).toNat))) := by
  have hserves : ¬(48 ≤ n ∨ !(port s n).live) := by simp [Nat.not_le.mpr hn, hlive]
  exact ⟨next_settle_congr (if_pos ⟨hn, hlive⟩), fun _ => next_settle_congr (if_neg hserves), fun _ _ _ => next_settle_congr (if_neg hserves)⟩

/-! ### Lanes -/

theorem laneFail_of_healthy (hn : n < 48) {lane : Nat} (hlane : lane < 4) (hsession : (port s n).inSession = true)
    (hhealthy : bit (port s n).healthy lane = true) :
    laneFail s n lane = enterRetrain (countLane s n lane) n ((port s n).healthy - 2 ^ lane) true :=
  if_neg (by simp [Nat.not_le.mpr hn, Nat.not_le.mpr hlane, hsession, hhealthy])

theorem laneRecover_of_failed (hn : n < 48) {lane : Nat} (hlane : lane < 4) (hactive : (port s n).state = .active)
    (hfailed : bit (port s n).healthy lane = false) (hon : bit (getF s F.NLK_CTRL_lane_off n) lane = false) :
    laneRecover s n lane =
      if getF s F.NLK_CTRL_auto_widen n = 1 ∧ (port s n).width < widthOf ((port s n).healthy + 2 ^ lane) then
        enterRetrain s n ((port s n).healthy + 2 ^ lane) true
      else updPort s n (fun q => { q with healthy := (port s n).healthy + 2 ^ lane }) :=
  if_neg (by simp [Nat.not_le.mpr hn, Nat.not_le.mpr hlane, hactive, hfailed, hon])

theorem retrainRequest_of_session (hn : n < 48) (hsession : (port s n).inSession = true) (h : Nat) :
    retrainRequest s n h = enterRetrain s n (allowedLanes s n (h % 16)) false :=
  if_neg (by simp [Nat.not_le.mpr hn, hsession])

theorem retrainDone_without_lanes (hn : n < 48) (hstate : (port s n).state = .retrain) {h : Nat} (hlanes : allowedLanes s n (h % 16) = 0)
    (last : Nat) (cs : List Nat) : retrainDone s n h last cs = portDown s n causeLanes := by
  simp only [retrainDone, if_pos hlanes]
  rw [if_neg (by simp [Nat.not_le.mpr hn, hstate])]

/-- The port as RETRAIN leaves it, before the partner's last seal is taken. -/
def retrained (s : State) (n h : Nat) (cs : List Nat) : State :=
  updPort s n (fun q => { takeCredit q cs with
    state := .active, since := s.now, healthy := allowedLanes s n (h % 16), width := widthOf (allowedLanes s n (h % 16))
    lastGood := s.now, nakPending := false, naksInRow := 0 })

theorem retrainDone_of_lanes (hn : n < 48) (hstate : (port s n).state = .retrain) {h : Nat} (hlanes : allowedLanes s n (h % 16) ≠ 0)
    (last : Nat) (cs : List Nat) {b : State}
    (hb : takeAck (if widthOf (allowedLanes s n (h % 16)) = (port s n).width then retrained s n h cs
      else raise (retrained s n h cs) (nlkPage n) 2) n last = b) :
    retrainDone s n h last cs = sendProbe (if (port b n).replay.isEmpty then b else replayAll b n) n := by
  rw [retrained] at hb
  simp only [retrainDone, if_neg hlanes, hb]
  rw [if_neg (by simp [Nat.not_le.mpr hn, hstate])]

/-! ### Software -/

theorem laneOff_of_unchanged (hn : n < 48) {lanes : Nat} {a : State} (ha : setF s F.NLK_CTRL_lane_off n (lanes % 16) = a)
    (hsame : allowedLanes a n (port a n).healthy = (port a n).healthy) : laneOff s n lanes = a := by
  simp only [laneOff, if_neg (Nat.not_le.mpr hn), ha, if_pos hsame]

theorem nlkEnable_of_disabled (hn : n < 48) (hoff : getF s F.NLK_CTRL_enable n = 0) :
    nlkEnable s n = restPort (setF s F.NLK_CTRL_enable n 1) n .detect s.now :=
  if_neg (by simp [Nat.not_le.mpr hn, hoff])

theorem nlkRetrain_of_enabled (hn : n < 48) (hon : (port s n).state ≠ .disabled) :
    nlkRetrain s n = restPort (if (port s n).inSession then portDown s n causeSoftware else s) n .detect s.now :=
  if_neg (by simp [Nat.not_le.mpr hn, hon])

end

/-- Settles O28: each training step, timeout, lane change and loss of the link takes its branch. -/
theorem trainingAndLanes : Obligations.TrainingAndLanes := by
  refine ⟨fun s n hn => ⟨fun hstate hlate => ?detect, fun h hstate hlanes => ?equalize, fun h hstate => ?align, fun h hstate hprobes => ?delay,
      fun fs hstate hdomain hother hversion => ?params, fun fs hstate hjoined htheirs hdiffers => ?stranger, fun hstate => ?secure,
      fun hstate hlate => ?retrainLate, fun t hbound hlate hretrain hdetect => ?late, fun hlive => probes_of_live hn hlive⟩,
    fun s n hn => ⟨fun lane hlane hsession hhealthy => ?laneFails,
      fun lane hlane hactive hfailed hon => ⟨fun hnarrow => ?recovers, fun hauto hwider => ?widens⟩, fun h hsession => ?asked,
      fun h last cs hstate => ⟨fun hlanes => ?noLanes, fun hlanes => ?retrained⟩, fun lanes hsame => ?laneOff, fun hoff => ?enabled,
      fun hon hout => ?again, fun hon hsession => ?ends, fun hactive hlate => ?silent, fun hactive => ?pattern⟩⟩
  case detect => exact next_settle_congr (if_neg (by simp [Nat.not_le.mpr hn, hstate, Nat.not_lt.mpr hlate]))
  case equalize => exact next_settle_congr (trainingStep_equalize hn hstate hlanes)
  case align => exact next_settle_congr (trainingStep_align hn hstate h)
  case delay => exact next_settle_congr (trainingStep_delay hn hstate hprobes h)
  case params => exact next_settle_congr (paramsArrive_of_partner hn hstate hdomain hother hversion)
  case stranger => exact next_settle_congr (paramsArrive_of_stranger hn hstate hjoined htheirs hdiffers)
  case secure => exact ⟨next_settle_congr (secureEnds_of_secure hn hstate true), next_settle_congr (secureEnds_of_secure hn hstate false)⟩
  case retrainLate => exact next_settle_congr (trainingTimeout_retrain hn hstate hlate)
  case late => exact next_settle_congr (trainingTimeout_of_late hn hbound hlate hretrain hdetect)
  case laneFails => exact next_settle_congr (laneFail_of_healthy hn hlane hsession hhealthy)
  case recovers =>
    exact next_settle_congr ((laneRecover_of_failed hn hlane hactive hfailed hon).trans (if_neg (by simp [hnarrow])))
  case widens =>
    exact next_settle_congr ((laneRecover_of_failed hn hlane hactive hfailed hon).trans (if_pos ⟨hauto, hwider⟩))
  case asked => exact next_settle_congr (retrainRequest_of_session hn hsession h)
  case noLanes => exact next_settle_congr (retrainDone_without_lanes hn hstate hlanes last cs)
  case retrained => exact next_settle_congr (retrainDone_of_lanes hn hstate hlanes last cs rfl)
  case laneOff => exact next_settle_congr (laneOff_of_unchanged hn rfl hsame)
  case enabled => exact next_settle_congr (nlkEnable_of_disabled hn hoff)
  case again => exact next_settle_congr ((nlkRetrain_of_enabled hn hon).trans (by rw [if_neg (by simp [hout])]))
  case ends => exact next_settle_congr ((nlkRetrain_of_enabled hn hon).trans (by rw [if_pos hsession]))
  case silent => exact next_settle_congr (if_neg (by simp [Nat.not_le.mpr hn, hactive, Nat.not_lt.mpr hlate]))
  case pattern => exact next_settle_congr (if_pos ⟨hn, hactive⟩)

end Sys2Proof.Machine
end


section
/-! PROOF. Coherent requests reach their line (O29). -/
namespace Sys2Proof.Machine
open Host

section
variable {s : State} {q : CohReq} {pt : Nat} {k : SeamKind} {sel : SeamReq → Bool}

theorem passedRow_of_first {r : SeamReq} {rest : List SeamReq}
    (hfirst : takeFirst (fun r => sel r && r.line == q.line && decide (r.who = .agent q.agent q.tag)) s.coherent = some (r, rest)) :
    passedRow s sel q = seamRequest { s with coherent := rest } r := by
  simp only [passedRow, hfirst]

theorem coherentRow_of_passed {r : SeamReq} {rest : List SeamReq} (hpassed : q.packet = none)
    (hfirst : takeFirst (fun r => sel r && r.line == q.line && decide (r.who = .agent q.agent q.tag)) s.coherent = some (r, rest)) :
    coherentRow s pt k sel q = seamRequest { s with coherent := rest } r := by
  simp only [coherentRow, hpassed, passedRow_of_first hfirst]

theorem coherentRow_of_packet {p : Packet} (hpacket : q.packet = some p) (hacc : Accepted s p pt) (hheld : hostHeld s p = false) :
    coherentRow s pt k sel q = remoteCoherent (afterDelivery s p) k p := by
  simp only [coherentRow, hpacket, hheld, Bool.false_eq_true, if_false, delivered_accepted _ hacc]

end

/-- Settles O29: each row takes the first passed request of its kind, or the packet that it carries. -/
theorem coherentRequestsReachTheirLine : Obligations.CoherentRequestsReachTheirLine := by
  intro s q r rest taken ordered
  refine ⟨fun h => ?rdCur, fun h => ?rdS, fun h => ?rdM, fun h => ?invM, fun h => ?evict, fun h => ?wrCur, fun m h => ?wrBk,
    fun p pt k i hpacket hrow hacc hheld => ?packet⟩
  case rdCur => exact next_settle_congr (coherentRow_of_passed h.1 h.2)
  case rdS => exact next_settle_congr (coherentRow_of_passed h.1 h.2)
  case rdM => exact next_settle_congr (passedRow_of_first h.2)
  case invM => exact next_settle_congr (passedRow_of_first h.2)
  case evict => exact next_settle_congr (coherentRow_of_passed h.1 h.2)
  case wrCur => exact next_settle_congr (coherentRow_of_passed h.1 h.2)
  case wrBk => exact next_settle_congr (coherentRow_of_passed h.1 h.2)
  case packet =>
    simp only [List.mem_cons, Prod.mk.injEq, List.not_mem_nil, or_false] at hrow
    obtain ⟨rfl, rfl, rfl⟩ | ⟨rfl, rfl, rfl⟩ | ⟨rfl, rfl, rfl⟩ | ⟨rfl, rfl, rfl⟩ := hrow
    all_goals exact next_settle_congr (coherentRow_of_packet hpacket hacc hheld)

end Sys2Proof.Machine
end

section
/-! PROOF. What the seam dies and the delivery of a packet leave unchanged. -/
namespace Sys2Proof.Machine
open Host

section
variable (s : State) (d e line : Nat) (f : SeamDie → SeamDie)

theorem seamDie_updDie (hd : d < s.seam.length) : seamDie (updDie s d f) e = if e = d then f (seamDie s d) else seamDie s e := by
  simp only [updDie, seamDie, nth, setNth_eq_set, List.getElem?_set]
  by_cases h : e = d
  · simp [h, hd]
  · simp [h, Ne.symm h]

/-- An update that keeps the directory of its die keeps every directory. -/
theorem seamDie_updDie_dir (hd : d < s.seam.length) (hdir : (f (seamDie s d)).dir = (seamDie s d).dir) :
    (seamDie (updDie s d f) e).dir = (seamDie s e).dir := by
  rw [seamDie_updDie s d e f hd]
  split
  · next h => rw [h, hdir]
  · rfl

theorem dirEntry_congr {s t : State} {line : Nat} (hdie : dieOfLine t line = dieOfLine s line)
    (hdir : (seamDie t (dieOfLine s line)).dir = (seamDie s (dieOfLine s line)).dir) : dirEntry t line = dirEntry s line := by
  simp only [dirEntry, bucketWays, hdie, hdir]

/-- A die at which no request waits lets none open. -/
theorem drainDie_of_empty {s : State} {d : Nat} (hnone : (seamDie s d).waiting = []) (fuel : Nat) : drainDie d fuel s = s := by
  cases fuel with
  | zero => rfl
  | succ n => simp [drainDie, hnone]

/-- A fold whose every step keeps the state keeps the state. -/
theorem foldl_of_fixed {α β : Type} {f : α → β → α} {a : α} {l : List β} (h : ∀ b ∈ l, f a b = a) : l.foldl f a = a := by
  induction l with
  | nil => rfl
  | cons b t ih =>
    rw [List.foldl_cons, h b List.mem_cons_self]
    exact ih (fun c hc => h c (List.mem_cons_of_mem b hc))

end

theorem raiseEpoch_store (s : State) (p : Packet) : (raiseEpoch s p).store = s.store := by
  rw [raiseEpoch]
  repeat' split
  all_goals rfl

theorem takeIn_store (s : State) (p : Packet) : (takeIn s p).store = s.store := by
  simp only [takeIn, crossUnit, bwBytes]
  split <;> rfl

/-- Taking in a packet writes no byte of the store. -/
theorem afterDelivery_store (s : State) (p : Packet) : (afterDelivery s p).store = s.store := by
  rw [afterDelivery, raiseEpoch_store, takeIn_store]

end Sys2Proof.Machine
end

section
/-! PROOF. Answers, timeouts, leases, sweeps and fences of the Seam (O32). -/
namespace Sys2Proof.Machine
open Host

section
variable {s : State} {line a pl d : Nat}

theorem closeTxn_of_answered {t : SeamTxn} (htxn : txnOf s line = some t) (hawaits : t.awaits = []) {b : State}
    (hb : effect (updDie s (dieOfLine s line) (fun x => { x with txns := x.txns.filter (fun u => u.req.line != line) })) t = b) :
    closeTxn s line = drainDie (dieOfLine s line) (2 * (seamDie b (dieOfLine s line)).waiting.length + 8) b := by
  simp only [closeTxn, htxn, hawaits, List.isEmpty_nil, Bool.not_true, Bool.false_eq_true, if_false, hb]

theorem birsp_of_forward {f : Forward} (hfwd : forwardOf s pl a = some f) (data : Option (List Byte)) (keepS : Bool) :
    birsp s pl a data keepS = forwardDone s f data keepS 0 := by
  simp only [birsp, hfwd]

theorem birsp_of_local (hfwd : forwardOf s pl a = none) (hlocal : isLocal s (pl * 64) = true) (data : Option (List Byte)) (keepS : Bool) :
    birsp s pl a data keepS = answered s (paOff (pl * 64) / 64) a SnoopKind.isBi data false := by
  simp only [birsp, hfwd, hlocal, if_true]

theorem biConflict_of_forward {f : Forward} (hfwd : forwardOf s pl a = some f) (tag : Nat) :
    biConflict s a pl tag = emit s (.conflictAck a pl (!(openTags s a).contains tag)) := by
  simp only [biConflict, hfwd, Option.isSome_some, Bool.true_or, if_true]

theorem fwdArrives_of_link {p : Packet} {l : Nat} {c : State} (hc : send s (mkPacket s ptFwdAck p.src p.tag p.addr 0 15 []) = c)
    (hlink : linkOfAgent c (bits p.word3 0 12) = some l) :
    fwdArrives s p = emit (updFabric c (fun f => { f with forwards := f.forwards ++
      [{ line := p.addr / 64, owner := bits p.word3 0 12, home := p.src, tag := p.tag, inv := bit p.word3 12,
         requester := if bit p.word3 23 then some (bits p.word3 13 10) else none, start := s.now }] }))
      (.snoop (bits p.word3 0 12) (p.addr / 64) (if bit p.word3 12 then .biInv else .biData)) := by
  simp only [fwdArrives, hc, hlink]

theorem fwdAcked_of_owner {p : Packet} (hline : respLine s p = some line) (howner : fwdOwner s line p.src = some a) :
    fwdAcked s p = updTxn s line (fun t => { t with
      awaits := t.awaits.map (fun w => if w.agent = a ∧ w.kind = .fwd then { w with acked := true } else w) }) := by
  simp only [fwdAcked, hline, howner]

theorem fwdData_of_request {p : Packet} {r : Request} (hreq : findRequest s p.tag = some r) (haddr : r.packet.addr = p.addr / 64 * 64)
    (htype : r.packet.ptype = ptRdS ∨ r.packet.ptype = ptRdCur) : fwdData s p = lineArrives s r p := by
  simp only [fwdData, hreq]
  rw [if_pos ⟨haddr, htype⟩]

theorem fwdDone_of_owner {p : Packet} (hline : respLine s p = some line) (howner : fwdOwner s line p.src = some a) :
    fwdDone s p =
      if p.status ≠ 0 then seamExpired s line a 1
      else answered s line a (fun k => decide (k = .fwd)) (if bit p.word3 1 then some (p.payload.take 64) else none) (bit p.word3 2) := by
  simp only [fwdDone, hline, howner]

theorem birspTimeout_of_forward {f : Forward} (hfwd : forwardOf s pl a = some f) (hlate : f.start + 200000 ≤ s.now) :
    birspTimeout s pl a = forwardDone s f none false 1 := by
  simp only [birspTimeout, hfwd, if_pos hlate]

theorem birspTimeout_of_local (hfwd : forwardOf s pl a = none) (hlocal : isLocal s (pl * 64) = true)
    (hlate : awaitedFor s (paOff (pl * 64) / 64) a 200000 (fun w => w.kind.isBi) = true) :
    birspTimeout s pl a = seamExpired s (paOff (pl * 64) / 64) a 1 := by
  simp only [birspTimeout, hfwd, hlocal, hlate, Bool.and_self, if_true]

/-- A lease whose page has no copy out is installed, and recalls nothing. -/
theorem leaseInstall_of_absent {r : LeaseReq} (hreq : s.regions.leaseReqs.find? (fun r => r.dies.head? == some d) = some r) (hd : d < 2)
    (hseam : s.seam.length = 2) (hwait : ∀ e, e < 2 → (seamDie s e).waiting = [])
    (habsent : ∀ line ∈ linesOf r.lease.page r.lease.size, (dirEntry s line).state = .i) {b t : State}
    (hb : b = updDie s d (fun x => { x with leases := x.leases ++ [r.lease] }))
    (ht : t = { b with regions := { b.regions with
      leaseReqs := b.regions.leaseReqs.map (fun x => if x = r then { x with dies := x.dies.drop 1 } else x) } }) :
    leaseInstall s d = t := by
  have hlen : d < s.seam.length := by omega
  have hdie (e : Nat) : seamDie t e = seamDie b e := by rw [ht, seamDie, seamDie]
  have hentry (line : Nat) : dirEntry t line = dirEntry s line := by
    refine dirEntry_congr (by rw [ht, hb]; rfl) ?_
    rw [hdie, hb]
    exact seamDie_updDie_dir s d _ _ hlen rfl
  have hrecall : (((linesOf r.lease.page r.lease.size).filter (fun line => dieOfLine t line == d)).foldl (fun a line =>
      if r.lease.ro then (if (dirEntry a line).state = .m then recallLine a line .recallClean else a) else recallLine a line .recall) t) = t := by
    refine foldl_of_fixed (fun line hline => ?_)
    have hi : (dirEntry t line).state = .i := (hentry line).symm ▸ habsent line (List.mem_of_mem_filter hline)
    simp [hi, recallLine]
  have hdrain (e : Nat) (he : e < 2) : (seamDie t e).waiting = [] := by
    rw [hdie, hb, seamDie_updDie s d e _ hlen]
    split
    · next h => exact hwait d hd
    · exact hwait e he
  simp only [leaseInstall, hreq, ← hb, ← ht, hrecall]
  exact foldl_of_fixed (fun e he => drainDie_of_empty (hdrain e (List.mem_range.mp he)) _)

theorem sweepBucket_of_empty (hd : d < 2) (hsweeps : (seamDie s d).sweeping = true)
    (hempty : Tab.getC [] (seamDie s d).dir (seamDie s d).position = []) {pos : Nat} {b : State}
    (hpos : pos = ((seamDie s d).position + 1) % 2 ^ 25)
    (hb : passRecalls (passMarks (updDie s d (fun y => { y with position := pos })) d pos) d pos = b) :
    sweepBucket s d = updDie b d (fun y => { y with sweeping := !y.recalls.isEmpty || !y.fences.isEmpty }) := by
  subst hpos
  simp only [sweepBucket, hempty, List.map_nil, List.foldl_nil, hb]
  rw [if_neg (by simp [Nat.not_le.mpr hd, hsweeps])]

theorem reserveRewrite_of_up {p : Nat} (hd : d < 2) (hp : p < 12) (hstale : bit (getF s F.SEAM_DIR_copy_stale d) p = true)
    (hup : partUp s p = true) :
    reserveRewrite s d p = raise (setF s F.SEAM_DIR_copy_stale d (getF s F.SEAM_DIR_copy_stale d - 2 ^ p)) (F.SEAM_DIR_copy_stale.page + d) 5 :=
  if_neg (by simp [Nat.not_le.mpr hd, Nat.not_le.mpr hp, hstale, hup])

end

/-- Settles O32: each answer, timeout, lease, sweep and rewrite takes its branch. -/
theorem seamAnswersAndTimers : Obligations.SeamAnswersAndTimers := by
  refine ⟨⟨fun s line t htxn hawaits => ?close, fun s pl a data keepS => ⟨fun f hfwd => ?rspForward, fun hfwd hlocal => ?rspLocal,
      fun f tag hfwd => ?conflict⟩, fun s p hacc => ?inv, fun s p l hacc hlink => ?fwd, fun s p line a => ⟨fun hacc hline => ?invAck,
      fun hacc hline howner => ?fwdAck, fun r hacc hreq haddr htype => ?fwdData,
      fun hacc hline howner => ⟨fun hok => ?done, fun hbad => ?late⟩⟩⟩,
    fun s pl a => ⟨fun f hfwd hlate => ?timeForward, fun hfwd hlocal hlate => ?timeLocal, fun hlocal hlate => ?timeFwd, fun hlocal hlate => ?timeInv⟩,
    fun s d r hreq hd hseam hwait0 hwait1 habsent => ?lease, fun s d line hnone => ?evicted, fun s d hd hsweeps hempty => ?sweep,
    fun s d hd hsilent hswept => ?clear, fun s d p hd hp hstale hup => ?rewrite⟩
  case close => exact next_settle_congr (congrArg settleRecvs (closeTxn_of_answered htxn hawaits rfl))
  case rspForward => exact next_settle_congr (birsp_of_forward hfwd data keepS)
  case rspLocal => exact next_settle_congr (birsp_of_local hfwd hlocal data keepS)
  case conflict => exact next_settle_congr (biConflict_of_forward hfwd tag)
  case inv => exact ⟨_, next_settle_congr (delivered_accepted _ hacc), rfl, afterDelivery_store s p⟩
  case fwd => exact next_settle_congr ((delivered_accepted _ hacc).trans (fwdArrives_of_link rfl hlink))
  case invAck =>
    refine next_settle_congr ((delivered_accepted _ hacc).trans ?_)
    simp only [hline]
  case fwdAck => exact next_settle_congr ((delivered_accepted _ hacc).trans (fwdAcked_of_owner hline howner))
  case fwdData => exact next_settle_congr ((delivered_accepted _ hacc).trans (fwdData_of_request hreq haddr htype))
  case done =>
    exact next_settle_congr ((delivered_accepted _ hacc).trans ((fwdDone_of_owner hline howner).trans (if_neg (not_not_intro hok))))
  case late => exact next_settle_congr ((delivered_accepted _ hacc).trans ((fwdDone_of_owner hline howner).trans (if_pos hbad)))
  case timeForward => exact next_settle_congr (birspTimeout_of_forward hfwd hlate)
  case timeLocal => exact next_settle_congr (birspTimeout_of_local hfwd hlocal hlate)
  case timeFwd => exact next_settle_congr (if_pos (by rw [hlocal, hlate]; rfl))
  case timeInv => exact next_settle_congr (if_pos (by rw [hlocal, hlate]; rfl))
  case lease =>
    have hwait (e : Nat) (he : e < 2) : (seamDie s e).waiting = [] := by
      interval_cases e
      · exact hwait0
      · exact hwait1
    exact next_settle_congr (leaseInstall_of_absent hreq hd hseam hwait (by simpa using habsent) rfl rfl)
  case evicted => exact next_settle_congr (if_neg (by simp [hnone]))
  case sweep => exact next_settle_congr (sweepBucket_of_empty hd hsweeps hempty rfl rfl)
  case clear => exact next_settle_congr (if_pos ⟨hd, hsilent, hswept⟩)
  case rewrite => exact next_settle_congr (reserveRewrite_of_up hd hp hstale hup)

end Sys2Proof.Machine
end


section
/-! PROOF. Requests and their answers (O34). -/
namespace Sys2Proof.Machine
open Host

section
variable {s : State} {p : Packet} {r : Request}

theorem packetRoute_of_unit {n : Nat} (haway : p.dst ≠ hubId s) (hunit : 48 ≤ n) : packetRoute s n p = send s p := by
  rw [packetRoute, if_neg haway, if_neg (Nat.not_lt.mpr hunit)]

theorem packetRoute_of_port {n : Nat} {x : Nat × Nat × Packet} {rest : List (Nat × Nat × Packet)} (haway : p.dst ≠ hubId s) (hport : n < 48)
    (hfirst : takeFirst (fun (e : Nat × Nat × Packet) => e.1 == n && decide (e.2.2 = p)) s.fabric.incoming = some (x, rest)) :
    packetRoute s n p = transit (updFabric s (fun f => { f with incoming := rest })) p := by
  simp only [packetRoute, if_neg haway, if_pos hport, hfirst]

theorem answerArrives_of_request (hreq : findRequest s p.tag = some r) (hdst : r.packet.dst = p.src) :
    answerArrives s p = if r.purpose = .combined then splitAnswer s r p else serveRequest s r p := by
  simp only [answerArrives, hreq]
  rw [if_neg (not_not_intro hdst)]

theorem nakPath_of_request (hreq : findRequest s p.tag = some r) (htype : r.packet.ptype = p.word3 % 64) (halone : r.purpose ≠ .combined)
    (hmany : r.single = false) :
    nakPath s p = updFabric s (fun f => { f with requests := f.requests.map (fun q =>
      if q.packet.tag = p.tag then { q with again := true, againAt := s.now, refused := q.refused + 1 } else q) }) := by
  simp only [nakPath, hreq]
  rw [if_neg (not_not_intro htype), if_neg halone, if_neg (by simp [hmany])]

theorem bulkDone_of_descriptor {core id : Nat} (hreq : findRequest s p.tag = some r) (hdst : r.packet.dst = p.src)
    (hpurpose : r.purpose = .descriptor core id) (hok : p.status = 0) :
    bulkDone s p = endDescriptor (closeRequest s p.tag) core id 0 0 := by
  simp only [bulkDone, hreq, hpurpose, hok, if_true]
  rw [if_neg (not_not_intro hdst)]

theorem resend_of_due {tag : Nat} (hreq : findRequest s tag = some r) (hwaits : r.parked = false) (hmany : r.single = false)
    (halone : r.purpose ≠ .combined) (hdue : r.lastSend + 40000 ≤ s.now) (hlimit : s.now < r.limit) (hrepeats : r.packet.once = false)
    {q : Packet} (hq : q = { r.packet with resend := true, nocomb := true, sepoch := epochOf s r.packet.spart }) :
    resend s tag = send (updFabric s (fun f => { f with requests := f.requests.map (fun x =>
      if x.packet.tag = tag then { x with packet := q, lastSend := s.now, sends := x.sends + 1, again := false } else x) })) q := by
  have honce : q.once = false := hq ▸ hrepeats
  simp only [resend, hreq, ← hq, honce, Bool.false_eq_true, if_false]
  rw [if_neg (by simp [hwaits, hmany, halone, hdue, Nat.not_le.mpr hlimit])]

theorem requestTimeout_of_late {tag : Nat} (hreq : findRequest s tag = some r) (hwaits : r.parked = false) (hlate : r.limit ≤ s.now)
    (hagain : (r.single && r.again) = false) : requestTimeout s tag = endRequest s r 1 := by
  simp only [requestTimeout, hreq, hagain, Bool.false_eq_true, if_false]
  rw [if_neg (by simp [hwaits, Nat.not_lt.mpr hlate])]

end

/-- An answer of each type is taken by the request that its tag names. -/
theorem exec_answer {s : State} {p : Packet} {pt : Nat} {i : Instr}
    (hrow : (pt, i) ∈ [(0x10, Instr.data p), (0x11, .cmp p), (0x12, .atomres p), (0x13, .syncres p), (0x14, .trigres p)])
    (hacc : Accepted s p pt) : exec i s = .next (settle (answerArrives (afterDelivery s p) p)) := by
  simp only [List.mem_cons, Prod.mk.injEq, List.not_mem_nil, or_false] at hrow
  obtain ⟨rfl, rfl⟩ | ⟨rfl, rfl⟩ | ⟨rfl, rfl⟩ | ⟨rfl, rfl⟩ | ⟨rfl, rfl⟩ := hrow
  all_goals exact next_settle_congr (delivered_accepted _ hacc)

/-- Settles O34: packets are routed, and each answer, refusal, resend and timeout finds its request. -/
theorem requestsAndTheirAnswers : Obligations.RequestsAndTheirAnswers := by
  refine ⟨fun s n p haway => ⟨fun hunit => ?fromUnit, fun x rest hport hfirst => ?fromPort⟩, fun s p r pt i hrow hacc hreq hdst => ?answer,
    fun s p r hacc hreq htype halone hmany => ?nakPath, fun s p r core id hacc hreq hdst hpurpose hok => ?bulk,
    fun s tag r hreq hwaits => ⟨fun hmany halone hdue hlimit hrepeats => ?resend, fun hlate hagain => ?timeout⟩,
    fun s part agent tag hold => ?expire⟩
  case fromUnit => exact next_settle_congr (packetRoute_of_unit haway hunit)
  case fromPort => exact next_settle_congr (packetRoute_of_port haway hport hfirst)
  case answer =>
    rw [exec_answer hrow hacc, answerArrives_of_request hreq hdst]
    exact ⟨fun hcomb => by rw [if_pos hcomb], fun halone => by rw [if_neg halone]⟩
  case nakPath => exact next_settle_congr ((delivered_accepted _ hacc).trans (nakPath_of_request hreq htype halone hmany))
  case bulk => exact next_settle_congr ((delivered_accepted _ hacc).trans (bulkDone_of_descriptor hreq hdst hpurpose hok))
  case resend => exact next_settle_congr (resend_of_due hreq hwaits hmany halone hdue hlimit hrepeats rfl)
  case timeout => exact next_settle_congr (requestTimeout_of_late hreq hwaits hlate hagain)
  case expire => exact next_settle_congr (if_pos hold)

end Sys2Proof.Machine
end

section
/-! PROOF. Fences, reconciliation and losses (O37). -/
namespace Sys2Proof.Machine
open Host

section
variable {s : State} {p : Packet} {n : Nat}

theorem reconAnswered_without_record (hasks : (port s p.tag).reconciling.isSome = true) (hpartner : (port s p.tag).partnerHub = p.src)
    (hnone : bit p.word3 12 = false) : reconAnswered s p = reconFail s p.tag := by
  obtain ⟨t, hasks⟩ := Option.isSome_iff_exists.mp hasks
  simp [reconAnswered, hasks, hpartner, hnone]

/-- A reconcile that has nothing handed back and no flow held only ends. -/
theorem reconAnswered_of_nothing (hasks : (port s p.tag).reconciling.isSome = true) (hpartner : (port s p.tag).partnerHub = p.src)
    (hrecord : bit p.word3 12 = true) (hhanded : (port s p.tag).handed = [])
    (hheld : s.fabric.flows.filter (fun g => g.fenced == some (reconMark p.tag)) = []) {c : State}
    (hc : c = updPort (addSatF s F.NFAB_RECON_settled (sliceOf p.tag) 1) p.tag (fun y => { y with handed := [], reconciling := none })) :
    reconAnswered s p = updFabric c (fun f => { f with flows := f.flows.filter (fun g => g.fenced != some (reconMark p.tag)) }) := by
  obtain ⟨t, hasks⟩ := Option.isSome_iff_exists.mp hasks
  have hflows : c.fabric.flows.filter (fun g => g.fenced == some (reconMark p.tag)) = [] := by
    rw [hc, updPort_fabric, addSatF_fabric, hheld]
  rw [reconAnswered, if_neg (by simp [hasks, hpartner]), if_neg (by simp [hrecord])]
  simp only [← hc, hflows, hhanded, List.filter_nil, List.map_nil, List.flatMap_nil, List.foldl_nil]

theorem reconTimeout_of_late {t : Nat} (hasks : (port s n).reconciling = some t) (hlate : t + 2000 * getF s F.NFAB_CFG_rec_us (sliceOf n) ≤ s.now) :
    reconTimeout s n = reconFail s n := by
  simp only [reconTimeout, hasks, if_pos hlate]

theorem releaseExpires_of_old {v t : Nat} (hrecord : (port s n).release = some (v, t)) (hold : t + 4000000 ≤ s.now) :
    releaseExpires s n = updPort s n (fun q => { q with release := none }) := by
  simp only [releaseExpires, hrecord, if_pos hold]

theorem lossArrives_of_member (hother : lossAgent p ≠ p.src) (hmember : (passOn s p).2 = true) :
    lossArrives s p = lossInForce (passOn s p).1 (lossAgent p) := by
  rw [lossArrives, if_neg hother]
  exact if_pos hmember

theorem epochNotice_of_member {b : State} (hb : takeIn s p = b) (hok : p.ok = true) (htype : p.ptype = ptLoss) (hsrc : p.src < 1024)
    (hself : lossAgent p = p.src) (hother : p.src ≠ hubId b) (halive : b.fabric.lostHubs.contains p.src = false)
    (hmember : (passOn b p).2 = true) (hnew : noticeOld (passOn b p).1 p = false) :
    epochNotice s p = noticeInForce (passOn b p).1 p := by
  simp only [epochNotice, hb, halive, hmember, hnew, Bool.false_and, Bool.not_false, Bool.and_self, Bool.false_eq_true, if_false, if_true]
  rw [if_neg (by simp [hok, htype]), if_neg (by simp [hself, Nat.not_le.mpr hsrc, hother])]

theorem hubLost_of_declared {h : Nat} (hhub : h < 1024) (hother : h ≠ hubId s) (hmay : mayDeclare s h = true) :
    hubLost s h = hubGone (sendLoss (raise (fault s { cls := 2, cause := 0x001F, page := rasPage, agent := h }) rasPage 7) h 15) h :=
  if_neg (by simp [Nat.not_le.mpr hhub, hother, hmay])

end

/-- Settles O37: each control packet, timeout and notice takes its branch. -/
theorem fencesReconciliationAndLoss : Obligations.FencesReconciliationAndLoss := by
  refine ⟨fun s p hacc hsrc => ?fence, fun s p hacc => ?echo, fun s p hacc hsrc => ?asked, fun s p hacc hasks hpartner hnone => ?failed,
    fun s p hacc hasks hpartner hrecord hhanded hheld => ?settled, fun s n t hasks hlate => ?late, fun s n v t hrecord hold => ?released,
    fun s p hacc hother hmember => ?loss, fun s p hok htype hsrc hself hother halive hmember hnew => ?notice,
    fun s h hhub hother hmay => ?declared⟩
  case fence => exact next_settle_congr ((delivered_accepted _ hacc).trans (if_pos hsrc))
  case echo => exact next_settle_congr (delivered_accepted _ hacc)
  case asked => exact next_settle_congr ((delivered_accepted _ hacc).trans (if_pos hsrc))
  case failed => exact next_settle_congr ((delivered_accepted _ hacc).trans (reconAnswered_without_record hasks hpartner hnone))
  case settled =>
    exact next_settle_congr ((delivered_accepted _ hacc).trans (reconAnswered_of_nothing hasks hpartner hrecord hhanded hheld rfl))
  case late => exact next_settle_congr (reconTimeout_of_late hasks hlate)
  case released => exact next_settle_congr (releaseExpires_of_old hrecord hold)
  case loss => exact next_settle_congr ((delivered_accepted _ hacc).trans (lossArrives_of_member hother hmember))
  case notice => exact next_settle_congr (epochNotice_of_member rfl hok htype hsrc hself hother halive hmember hnew)
  case declared => exact next_settle_congr (hubLost_of_declared hhub hother hmay)

end Sys2Proof.Machine
end


section
/-! PROOF. Eloan messages: the manager's (O38) and the tenants' (O39). -/
namespace Sys2Proof.Machine
open Host

/-- The first check that fails answers the message. -/
theorem checked_fails {s : State} {cs : List (Bool × Nat)} (f : State → State) {c : Bool × Nat} (h : cs.find? (fun c => c.1) = some c) :
    checked s cs f = elnAnswer s c.2 := by
  simp only [checked, h]

theorem tenantCreate_denied {s : State} {sender : Nat} (hsender : sender ≠ 0) (hash : Nat) : tenantCreate s sender hash = elnAnswer s elnDenied := by
  unfold tenantCreate
  exact checked_fails (c := (true, elnDenied)) _ (by simp [hsender])

theorem objAssign_denied {s : State} {sender : Nat} (hsender : sender ≠ 0) (name c : Nat) : objAssign s sender name c = elnAnswer s elnDenied := by
  unfold objAssign
  exact checked_fails (c := (true, elnDenied)) _ (by simp [hsender])

/-- A manager message of a tenant's session fails its first check. -/
theorem exec_manager_denied {s : State} {sender a b : Nat} {e : Envelope} {good : Bool} {i : Instr} (hsender : sender ≠ 0)
    (hi : i ∈ [Instr.tenantCreate sender a, .tenantDelete sender a, .keyidAssign sender a b, .keyidRevoke sender a, .ctxBind sender a b,
      .objAssign sender a b, .envelope sender a e good]) : exec i s = .next (settle (elnAnswer s elnDenied)) := by
  simp only [List.mem_cons, List.not_mem_nil, or_false] at hi
  obtain rfl | rfl | rfl | rfl | rfl | rfl | rfl := hi
  case inl => exact next_settle_congr (tenantCreate_denied hsender a)
  case inr.inr.inr.inr.inr.inl => exact next_settle_congr (objAssign_denied hsender a b)
  all_goals exact next_settle_congr (checked_fails (c := (true, elnDenied)) _ (by simp [hsender]))

theorem tenantCreate_full {s : State} (hash : Nat) (hfull : (range 1 1023).filter (fun t => !tidKnown s t) = []) :
    tenantCreate s 0 hash = elnAnswer s elnFull := by
  simp only [tenantCreate, hfull]
  exact checked_fails (c := (true, elnFull)) _ (by simp)

theorem tenantCreate_of_unused {s : State} (hash : Nat) {unused : List Nat} (hu : (range 1 1023).filter (fun t => !tidKnown s t) = unused)
    (hsome : unused ≠ []) :
    tenantCreate s 0 hash = emit (updEloan (freeBelow s unused.length).2 (fun e => { e with
        tenants := Tab.insert e.tenants (nth 1 unused (freeBelow s unused.length).1) hash }))
      (.eloanAnswer elnOk [nth 1 unused (freeBelow s unused.length).1]) := by
  simp only [tenantCreate, hu]
  exact checked_ok s _ _ (by simp [hsome])

theorem objAssign_of_change {s : State} {name c : Nat} (hhub : objHub name = hubId s) (hpart : objPart name ≤ 11) (hindex : objIndex name ≤ 6143)
    (hname : name < 2 ^ 27) (hc : c ≤ 4095) (hidle : (syncObj s (objKey name)).waiters = [])
    (hdebug : tidOf s c = 0 ∨ debugged s (objPart name) = false) (hnew : Tab.getC 0 s.sync.assigned (objKey name) ≠ c) {b : State}
    (hb : resetObj s (objKey name) = b) :
    objAssign s 0 name c = elnAnswer { b with sync := { b.sync with assigned := Tab.setC 0 b.sync.assigned (objKey name) c } } elnOk := by
  subst hb
  unfold objAssign
  refine (checked_ok s _ _ ?_).trans (if_neg hnew)
  rcases hdebug with hdebug | hdebug <;>
    simp [-Nat.reducePow, hhub, Nat.not_lt.mpr hpart, Nat.not_lt.mpr hindex, hname, Nat.not_lt.mpr hc, hidle, hdebug]

/-- Settles O38: a manager message passes its checks and has its effect, or fails its first check. -/
theorem managerMessages : Obligations.ManagerMessages := by
  refine ⟨fun s sender a b e good hsender i hi => exec_manager_denied hsender hi,
    fun s hash => ⟨fun hfull => ?full, fun hsome => ?created, fun t hpos ht hknown => ?deleted⟩,
    fun s k t hk ht hknown hstate => ?assigned, fun s k hk hstate => ?revoked, fun s c t hc ht hknown => ?bound,
    fun s name c hhub hpart hindex hname hc hidle hdebug hnew => ?object, fun s hub e hhub => ?envelope⟩
  case full => exact next_settle_congr (tenantCreate_full hash hfull)
  case created => exact next_settle_congr (tenantCreate_of_unused hash rfl hsome)
  case deleted =>
    exact next_settle_congr (checked_ok s _ _ (by simp [Nat.not_lt.mpr ht, hknown, Nat.pos_iff_ne_zero.mp hpos]))
  case assigned => exact next_settle_congr (checked_ok s _ _ (by simp [hk, Nat.not_lt.mpr ht, hknown, hstate]))
  case revoked => exact next_settle_congr (checked_ok s _ _ (by simp [hk, hstate]))
  case bound => exact next_settle_congr (checked_ok s _ _ (by simp [Nat.not_lt.mpr hc, Nat.not_lt.mpr ht, hknown]))
  case object => exact next_settle_congr (objAssign_of_change hhub hpart hindex hname hc hidle hdebug hnew rfl)
  case envelope => exact next_settle_congr (checked_ok s _ _ (by simp [Nat.not_lt.mpr hhub]))

section
variable {s : State} {t k : Nat}

theorem makeKeys_of_assigned (hchecks : (keyChecks s t k).all (fun c => !c.1) = true) (hstate : (keyOf s k).state = .assigned)
    (hdebug : t = 0 ∨ vendorDebug s = false) (integ : Bool) :
    makeKeys s t k integ false = elnAnswer (updKey s k (fun x => { x with state := .keyed, integrity := integ })) elnOk := by
  refine checked_ok s _ _ ?_
  rw [List.cons_append, List.all_cons, List.all_append, hchecks]
  rcases hdebug with hdebug | hdebug <;> simp [hstate, hdebug]

theorem makeKeys_of_keyed (hchecks : (keyChecks s t k).all (fun c => !c.1) = true) (hstate : (keyOf s k).state ≠ .assigned) (integ : Bool) :
    makeKeys s t k integ false = elnAnswer s elnBadState := by
  have hnone : (keyChecks s t k).find? (fun c => c.1) = none :=
    List.find?_eq_none.mpr (fun c hc => by simpa using List.all_eq_true.mp hchecks c hc)
  refine checked_fails (c := (true, elnBadState)) _ ?_
  rw [List.cons_append, List.find?_cons_of_neg (by simp), List.find?_append, hnone]
  simp [hstate]

theorem keyDestroy_of_keyed (hchecks : (keyChecks s t k).all (fun c => !c.1) = true) (hstate : (keyOf s k).state = .keyed) :
    keyDestroy s t k = elnAnswer (destroyAny s k) elnOk :=
  checked_ok s _ _ (by rw [List.all_append, hchecks]; simp [hstate])

theorem setBin_of_keyed (hchecks : (keyChecks s t k).all (fun c => !c.1) = true) (hstate : (keyOf s k).state = .keyed) {v : Nat} (hv : v ≤ 4) :
    setBin s t k v = elnAnswer (updKey s k (fun x => { x with bin := v })) elnOk :=
  checked_ok s _ _ (by rw [List.cons_append, List.all_cons, List.all_append, hchecks]; simp [hstate, Nat.not_lt.mpr hv])

theorem ctxConfirm_of_candidate {c h : Nat} (hc : c ≤ 4095) (hknown : tidKnown s t = true)
    (hcand : (Tab.getC Binding.unbound s.eloan.bindings c).candidate = some t) (hhash : descriptorHash s c = some h) :
    ctxConfirm s t c h = elnAnswer (setBinding (dropTagged s c) c { candidate := some t, bound := some t, hash := some h }) elnOk := by
  unfold ctxConfirm
  exact checked_ok s _ _ (by simp [Nat.not_lt.mpr hc, hknown, hcand, hhash])

theorem linkBind_of_secure {a h l : Nat} (hlink : linkOfAgent s a = some l) (hknown : tidKnown s t = true)
    (hfree : linkTenant s l = 0 ∨ linkTenant s l = t) (hkey : Tab.find? s.eloan.linkKey (2 * l) = some h)
    (hmem : Tab.find? s.eloan.linkKey (2 * l + 1) = some h) :
    linkBind s t a h = elnAnswer (updEloan s (fun e => { e with linkTid := Tab.setC 0 e.linkTid l t })) elnOk := by
  simp only [linkBind, hlink]
  refine checked_ok s _ _ ?_
  rcases hfree with hfree | hfree <;> simp [hknown, hfree, hkey, hmem]

theorem windowReq_of_other_hub {w0 : Window} (hother : w0.hub ≠ hubId s) (hrange : rangeOk s w0.kind w0.hub w0.first w0.count = true)
    (hregion : w0.kind ≠ 0 ∨ w0.region ≤ 4095) (hknown : tidKnown s w0.tid = true) (hroom : unusedNumbers s ≠ []) :
    windowReq s w0 = emit (updEloan (freshNumber s).2 (fun e => { e with windowReqs := e.windowReqs ++ [{ w0 with number := (freshNumber s).1 }] }))
      (.envelope w0.hub (.request (freshNumber s).1 (hashOf s w0.tid) w0.kind w0.first w0.count w0.region w0.rd w0.wr w0.atm)) := by
  have hown : (w0.hub == hubId s) = false := beq_eq_false_iff_ne.mpr hother
  simp only [windowReq, hown]
  refine (checked_ok s _ _ ?_).trans (if_neg Bool.false_ne_true)
  rcases hregion with hregion | hregion
  · simp [hrange, hregion, hknown, hroom]
  · simp [hrange, Nat.not_lt.mpr hregion, hknown, hroom]

theorem windowGrant_of_request {hub n : Nat} {w : Window} {rest : List Window}
    (hreq : takeFirst (fun w => w.number == n && w.hub == hub) s.eloan.windowReqs = some (w, rest)) :
    windowGrant s hub n k = elnAnswer (updEloan s (fun e => { e with windowReqs := rest, windows := e.windows ++ [{ w with keyId := k }] })) elnOk := by
  simp only [windowGrant, hreq]

theorem windowDrop_of_window {n : Nat} {w : Window} (hw : windowOf s n = some w) (hknown : tidKnown s t = true) :
    windowDrop s t n = if w.tid = t then elnAnswer (dropWindow s w) elnOk else elnAnswer s elnDenied := by
  simp only [windowDrop, hw]
  split
  · next hown => exact checked_ok s _ _ (by simp [hknown, hown])
  · next hforeign => exact checked_fails (c := (true, elnDenied)) _ (by simp [hknown, hforeign])

theorem shareMsg_of_region {x : Share} (hr : x.region ≤ 4095) (hvalid : rgnValid (regionEntry s x.region) = true) (hknown : tidKnown s t = true) :
    shareMsg s t x =
      if (keyOf s (rgnKey (regionEntry s x.region))).tid = t then
        elnAnswer (updEloan s (fun e => { e with
          shares := e.shares.filter (fun y => !(y.region == x.region && y.keyHash == x.keyHash)) ++ [x] })) elnOk
      else elnAnswer s elnDenied := by
  unfold shareMsg
  split
  · next hown => exact checked_ok s _ _ (by simp [Nat.not_lt.mpr hr, hvalid, hknown, hown])
  · next hforeign => exact checked_fails (c := (true, elnDenied)) _ (by simp [Nat.not_lt.mpr hr, hvalid, hknown, hforeign])

end

/-- Settles O39: a tenant message passes its checks and has its effect, or fails the check the clause names. -/
theorem tenantMessages : Obligations.TenantMessages := by
  intro s t k
  refine ⟨fun hchecks => ⟨fun hstate hdebug => ⟨fun integ => ?gen, fun integ m hm => ?imported⟩, fun hstate integ => ?again,
      fun hstate => ⟨?destroyed, fun v hv => ?bin⟩⟩,
    fun c h hc hknown hcand hhash => ?confirmed, fun a h l hlink hknown hfree hkey hmem => ?bound,
    fun kind hub first count region rd wr atm hother hrange hregion hknown hroom => ?asked, fun hub n w rest hreq => ?granted,
    fun n w hw hknown => ⟨fun hown => ?dropped, fun hforeign => ?dropDenied⟩,
    fun r h rd wr atm hr hvalid hknown => ⟨fun hown => ?shared, fun hforeign => ?shareDenied⟩, fun ht hknown => ?queried⟩
  case gen => exact next_settle_congr (makeKeys_of_assigned hchecks hstate hdebug integ)
  case imported =>
    refine next_settle_congr (Eq.trans (congrArg (makeKeys s t k integ) ?_) (makeKeys_of_assigned hchecks hstate hdebug integ))
    simp [hm]
  case again => exact next_settle_congr (makeKeys_of_keyed hchecks hstate integ)
  case destroyed => exact next_settle_congr (keyDestroy_of_keyed hchecks hstate)
  case bin => exact next_settle_congr (setBin_of_keyed hchecks hstate hv)
  case confirmed => exact next_settle_congr (ctxConfirm_of_candidate hc hknown hcand hhash)
  case bound => exact next_settle_congr (linkBind_of_secure hlink hknown hfree hkey hmem)
  case asked => exact next_settle_congr (windowReq_of_other_hub hother hrange hregion hknown hroom)
  case granted => exact next_settle_congr (windowGrant_of_request hreq)
  case dropped => exact next_settle_congr ((windowDrop_of_window hw hknown).trans (if_pos hown))
  case dropDenied => exact next_settle_congr ((windowDrop_of_window hw hknown).trans (if_neg hforeign))
  case shared => exact next_settle_congr ((shareMsg_of_region hr hvalid hknown).trans (if_pos hown))
  case shareDenied => exact next_settle_congr ((shareMsg_of_region hr hvalid hknown).trans (if_neg hforeign))
  case queried => exact next_settle_congr (checked_ok s _ _ (by simp [ht, hknown]))

end Sys2Proof.Machine
end


section
/-! PROOF. Debug, ownership, versions and the root pair (O40). -/
namespace Sys2Proof.Machine
open Host

section
variable {s : State} {p : Nat}

theorem level_valid {level : Nat} (hp : p ≤ 11) (hlevel : level = 1 ∨ level = 2) : (decide (11 < p) || !(level == 1 || level == 2)) = false := by
  rcases hlevel with rfl | rfl <;> simp [Nat.not_lt.mpr hp]

theorem debugChallenge_of_level {level : Nat} (hp : p ≤ 11) (hlevel : level = 1 ∨ level = 2) (hopen : lockedOut s p = false) {r : Nat × State}
    (hr : freeBelow s (2 ^ 256) = r) :
    debugChallenge s p level = emit (updEloan r.2 (fun e => { e with
      nonces := Tab.insert e.nonces p { level := level, value := r.1, since := s.now } })) (.eloanAnswer elnOk [r.1]) := by
  subst hr
  exact checked_ok s _ _ (by simp only [level_valid hp hlevel, hopen, List.all_cons, List.all_nil, Bool.not_false, Bool.and_self])

theorem nonceExpire_of_old {n : Nonce} (hnonce : Tab.find? s.eloan.nonces p = some n) (hold : n.since + nonceLife ≤ s.now) :
    nonceExpire s p = updEloan s (fun e => { e with nonces := Tab.erase e.nonces p }) := by
  simp only [nonceExpire, hnonce, if_pos hold]

/-- The state in which an opening's nonce has been consumed. -/
def nonceUsed (s : State) (p : Nat) : State := updEloan s (fun e => { e with nonces := Tab.erase e.nonces p })

theorem debugOpenMsg_of_level {level : Nat} (hp : p ≤ 11) (hlevel : level = 1 ∨ level = 2) (owner vendor : Bool) {b : State}
    (hb : updEloan (nonceUsed s p) (fun e => { e with debugOpening := Tab.insert e.debugOpening p level }) = b) :
    debugOpenMsg s p level owner vendor =
      if debugVerifies s p level owner vendor then beginReset (((affected s p level).flatMap (keysOf b)).foldl destroyAny b) p 0x0022
      else badSignature (updEloan (nonceUsed s p) (fun e => { e with debugFails := Tab.upd 0 e.debugFails p (· + 1) })) := by
  subst hb
  exact checked_ok s _ _ (by simp only [level_valid hp hlevel, List.all_cons, List.all_nil, Bool.not_false, Bool.and_self])

/-- A message that the owner signed passes the check of its signature. -/
theorem signed_of_owned (howned : s.eloan.owned = true) : ¬((!(true && s.eloan.owned)) = true) := by simp [howned]

theorem debugCloseMsg_of_open (hp : p ≤ 11) (howned : s.eloan.owned = true) (hopen : Tab.getC 0 s.eloan.debugOpen p ≠ 0) :
    debugCloseMsg s p true = closeDebug s p 4 := by
  rw [debugCloseMsg, if_neg (signed_of_owned howned)]
  exact checked_ok s _ _ (by simp [Nat.not_lt.mpr hp, hopen])

theorem transferOwner_of_signed {h : Nat} (howned : s.eloan.owned = true) (hgen : s.eloan.ownerGen < 64) :
    transferOwner s h true = elnAnswer (installOwner (endTenancy s) h (s.eloan.ownerGen + 1)) elnOk := by
  rw [transferOwner, if_neg (signed_of_owned howned)]
  exact checked_ok s _ _ (by simp [Nat.not_le.mpr hgen])

theorem reclaimHub_of_clear (howned : s.eloan.owned = true) (hclear : s.board.ownerClear = true) :
    reclaimHub s true = elnAnswer (elnRaise (updEloan s (fun e => { e with owned := false, ownerHash := 0, managerHash := none })) 3) elnOk := by
  rw [reclaimHub, if_neg (by simp)]
  exact checked_ok s _ _ (by simp [howned, hclear])

theorem svnCommit_of_newer {cls : Nat} (hcls : cls ≤ 2) (howned : s.eloan.owned = true) (hnewer : (classSvn s cls).1 < (classSvn s cls).2) :
    svnCommit s cls true =
      if raisesLeft s cls = 0 then elnAnswer s elnFuses else elnAnswer (raiseMin s cls (classSvn s cls).2) elnOk := by
  rw [svnCommit, if_neg (signed_of_owned howned)]
  split
  · next hnone => exact checked_fails (c := (true, elnFuses)) _ (by simp [Nat.not_lt.mpr hcls, hnewer, hnone])
  · next hleft => exact (checked_ok s _ _ (by simp [Nat.not_lt.mpr hcls, hleft])).trans (by rw [if_pos hnewer])

theorem keyProg_of_both {l st h : Nat} (hlink : linkExists s l = true) (hst : st < 2) (hup : getL s F.HPORT_LINK_STATUS_state l = 2) {b : State}
    (hb : b = updEloan s (fun e => { e with linkKey := Tab.insert e.linkKey (2 * l + st) h }))
    (hkey : (Tab.find? (Tab.insert s.eloan.linkKey (2 * l + st) h) (2 * l)).isSome = true)
    (hmem : (Tab.find? (Tab.insert s.eloan.linkKey (2 * l + st) h) (2 * l + 1)).isSome = true) :
    keyProg s l st h = setL b F.HPORT_LINK_STATUS_ide l 1 := by
  have hkeys : b.eloan.linkKey = Tab.insert s.eloan.linkKey (2 * l + st) h := by rw [hb, updEloan]
  rw [keyProg, if_neg (by simp [hlink, Nat.not_le.mpr hst, hup])]
  simp only [← hb, hkeys, hkey, hmem, Bool.and_self, if_true]

theorem keyidFree_of_unused {k : Nat} (hstate : (keyOf s k).state = .scrub)
    (hregion : s.regions.entries.any (fun e => rgnValid e.2 && rgnKey e.2 == k) = false) (hgrant : s.eloan.grants.any (fun g => g.keyId == k) = false) :
    keyidFree s k = updKey s k (fun _ => KeyId.unused) := by
  simp only [keyidFree, hregion, hgrant]
  exact if_pos ⟨hstate, rfl, rfl⟩

end

/-- Settles O40: each debug, ownership, version and key message takes its branch. -/
theorem debugAndOwnership : Obligations.DebugAndOwnership := by
  refine ⟨fun s p level hp hlevel hopen => ?challenge, fun s p n hnonce hold => ?expire,
    fun s p level o v hp hlevel => ⟨fun hverifies => ?opens, fun hfails => ?refused⟩, fun s p hp howned hopen => ?closes,
    fun s h => ⟨fun hunowned hgen => ?owner, fun howned => ?ownerDenied, fun howned hgen => ?transfer, ?unsigned,
      fun howned hclear => ?reclaim, fun howned => ?cert⟩,
    fun s cls hcls howned => ⟨fun hnewer hleft => ?raised, fun hnewer hnone => ?fuses⟩, fun s n => rfl,
    fun s l st h hlink hst hup hkey hmem => ?keyProg, fun s k hstate hregion hgrant => ?freed, fun s root hroot hmirror => ?outOfStep⟩
  case challenge => exact next_settle_congr (debugChallenge_of_level hp hlevel hopen rfl)
  case expire => exact next_settle_congr (nonceExpire_of_old hnonce hold)
  case opens => exact next_settle_congr ((debugOpenMsg_of_level hp hlevel o v rfl).trans (if_pos hverifies))
  case refused => exact next_settle_congr ((debugOpenMsg_of_level hp hlevel o v rfl).trans (if_neg (by simp [hfails])))
  case closes => exact next_settle_congr (debugCloseMsg_of_open hp howned hopen)
  case owner => exact next_settle_congr (checked_ok s _ _ (by simp [hunowned, Nat.not_le.mpr hgen]))
  case ownerDenied => exact next_settle_congr (checked_fails (c := (true, elnDenied)) _ (by simp [howned]))
  case transfer => exact next_settle_congr (transferOwner_of_signed howned hgen)
  case unsigned => exact next_settle_congr (if_pos rfl)
  case reclaim => exact next_settle_congr (reclaimHub_of_clear howned hclear)
  case cert => exact next_settle_congr (if_neg (signed_of_owned howned))
  case raised => exact next_settle_congr ((svnCommit_of_newer hcls howned hnewer).trans (if_neg hleft))
  case fuses => exact next_settle_congr ((svnCommit_of_newer hcls howned hnewer).trans (if_pos hnone))
  case keyProg => exact next_settle_congr (keyProg_of_both hlink hst hup rfl hkey hmem)
  case freed => exact next_settle_congr (keyidFree_of_unused hstate hregion hgrant)
  case outOfStep => exact next_settle_congr ((if_pos hroot).trans (if_pos hmirror))

end Sys2Proof.Machine
end


section
/-! PROOF. Partitions, cores, spares and retirement (O42, O43). -/
namespace Sys2Proof.Machine
open Host

section
variable {s : State} {p : Nat}

theorem partitionUp_of_reset (hp : p < 12) (hstate : (partition s p).state = .inReset) (hworks : (partition s p).failed = false) :
    partitionUp s p =
      if (powerOf s p).tripped then endReturn (updPart s p (fun y => { y with state := .asleep })) p else endReturn (comeUp s p) p := by
  simp only [partitionUp]
  rw [if_neg (by simp [Nat.not_le.mpr hp, hstate, hworks])]

theorem partitionFail_of_reset (hp : p < 12) (hstate : (partition s p).state = .inReset) (hworks : (partition s p).failed = false) :
    partitionFail s p = endReturn (drainDies (raise (fault
      (updPart s p (fun y => { y with failed := true, lost := true, standin := true })) { cls := 2, cause := 0x001A, page := rasPage }) rasPage 10)) p := by
  simp only [partitionFail]
  rw [if_neg (by simp [Nat.not_le.mpr hp, hstate, hworks])]

/-- The last row that is out of step is rewritten. -/
theorem resyncRow_of_last {r : Nat} (hp : p < 12) (hup : partUp s p = true) (hrow : (partition s p).resync = [r])
    (hbuilds : erasedCount s r < 3) : resyncRow s p = raise (updPart s p (fun y => { y with resync := [] })) rasPage 9 := by
  have hleft : [r].filter (fun x => x != r) = [] := by simp
  simp only [resyncRow, hrow, List.foldl_nil, hleft, List.isEmpty_nil, if_true]
  rw [if_neg (by simp [Nat.not_le.mpr hp, hup])]
  exact congrArg (fun t => raise (updPart t p (fun y => { y with resync := [] })) rasPage 9) (if_neg (Nat.not_le.mpr hbuilds))

theorem coreFence_of_up {core : Nat} (hcore : core < 384) (hcomputes : memOnly s (partOfCore core) = false)
    (hup : partUp s (partOfCore core) = true) : coreFence s core = fenceCore s core 0 := by
  simp only [coreFence, hup, if_true]
  rw [if_neg (by simp [Nat.not_le.mpr hcore, hcomputes])]

theorem managerAbort_of_runs {job : Nat} {hs : List Nat}
    (hhs : s.tick.streams.filterMap (fun e => if e.2.budget.job = job ∧ e.2.ended.any StreamRun.abortable = true then some e.1 else none) = hs)
    (hsome : hs ≠ []) :
    managerAbort s job = hs.foldl (fun a h => abortFor a h 5 (fun _ => true))
      (fault s { cls := 2, cause := 0x001E, page := tickPage, actions := 1, detail := 5, job := job }) := by
  simp only [managerAbort, hhs]
  rw [if_neg (by simpa using hsome)]

end

/-- Settles O42: resets, returns, failures, fences and aborts each take their branch. -/
theorem partitionsAndCores : Obligations.PartitionsAndCores := by
  refine ⟨fun s p => ⟨rfl, rfl⟩, fun s p hp hstate hworks => ⟨fun hcool => ?up, fun htripped => ?asleep, ?fails⟩,
    fun s p r hp hup hrow hbuilds => ?resync, fun s core hcore hcomputes hup => ?fence, fun s core hcore hfenced => ?unfence,
    fun s job hsome => ?abort⟩
  case up => exact next_settle_congr ((partitionUp_of_reset hp hstate hworks).trans (if_neg (by simp [hcool])))
  case asleep => exact next_settle_congr ((partitionUp_of_reset hp hstate hworks).trans (if_pos htripped))
  case fails => exact next_settle_congr (partitionFail_of_reset hp hstate hworks)
  case resync => exact next_settle_congr (resyncRow_of_last hp hup hrow hbuilds)
  case fence => exact next_settle_congr (coreFence_of_up hcore hcomputes hup)
  case unfence => exact next_settle_congr (if_neg (by simp [Nat.not_le.mpr hcore, hfenced]))
  case abort => exact next_settle_congr (managerAbort_of_runs rfl hsome)

section
variable {s : State}

theorem rowSpare_of_left {u : Nat} (hunit : spareUnit u = true) (hleft : 0 < Tab.getC 0 s.ras.spareLeft u) :
    rowSpare s u = raise (writeRecord { s with ras := { s.ras with
      spareLeft := Tab.upd 0 s.ras.spareLeft u (fun n => n - 1)
      spareUsed := Tab.upd 0 s.ras.spareUsed u (fun n => min 65535 (n + 1)) } }
      { cls := 1, cause := 0x001C, page := rasPage, actions := 64, detail := if 32 ≤ u then 1 else 0 }) rasPage 4 := by
  have hbit : b2n (decide (32 ≤ u)) = if 32 ≤ u then 1 else 0 := by simp [b2n]
  rw [rowSpare, if_neg (by simp [hunit, Nat.pos_iff_ne_zero.mp hleft]), hbit]

theorem frameRetire_of_some {frames fs : List Nat} {f : Nat}
    (hframes : frames.filter (fun f => isFrame s f && !s.ras.retired.contains f) = f :: fs) :
    frameRetire s frames = raise (fault (retireFrames s (f :: fs)) { cls := 2, cause := 0x001D, page := rasPage, pa := localPa s (f * twoMiB) }) rasPage 5 := by
  simp only [frameRetire, hframes]

theorem channelRetire_of_new {c : Nat} (hc : c < 24) (hnew : s.ras.retiredChannels.contains c = false) {b : State}
    (hb : b = { s with ras := { s.ras with retiredChannels := s.ras.retiredChannels ++ [c] } }) :
    channelRetire s c = raise (fault (retireFrames b (plainFrames b c)) { cls := 2, cause := 0x001D, page := rasPage, detail := 1 }) rasPage 5 := by
  rw [channelRetire, if_neg (by rw [hnew]; simp [Nat.not_le.mpr hc]), hb]

end

/-- Settles O43: a spare row, a frame and a channel each leave service once. -/
theorem sparesAndRetirement : Obligations.SparesAndRetirement := by
  refine ⟨fun s u hunit hleft => ?spare, fun s frames f fs hframes => ?frame, fun s c hc hnew => ?channel, fun s => rfl⟩
  case spare => exact next_settle_congr (rowSpare_of_left hunit hleft)
  case frame => exact next_settle_congr (frameRetire_of_some hframes)
  case channel => exact next_settle_congr (channelRetire_of_new hc hnew rfl)

end Sys2Proof.Machine
end


section
/-! PROOF. Register operations (O44), pages, messages and events (O47). -/
namespace Sys2Proof.Machine
open Host

section
variable {s : State} {op page off v : Nat}

/-- An operation that no message in progress carries is a message of its own. -/
theorem performOp_of_alone (hserves : henServes s = true) (hlog : s.henyen.log = []) (o : RegOp) :
    performOp s o = emit (noteMirror (regOp s o).2) (.regResult (regOp s o).1.1 (regOp s o).1.2) := by
  simp only [performOp, hserves, hlog, Bool.not_true, Bool.false_eq_true, if_false]

theorem performOp_of_unowned (hserves : henServes s = false) (o : RegOp) : performOp s o = refuseMessage s := by
  simp only [performOp, hserves, Bool.not_false, if_true]

theorem regOp_of_defined (hop : 1 ≤ op) (hop7 : op ≤ 7) (hpage : page < 65536) (halign : off % 8 = 0) (hoff : off ≤ 0xFF8) :
    regOp s (op, page, off, v) = regEffect s op page off v := by
  rw [regOp, if_neg (by simp [halign, Nat.not_lt.mpr hoff]), if_neg (by simp; omega), Nat.mod_eq_of_lt hpage]

/-- What a defined operation of its own answers and leaves. -/
theorem performOp_of_effect {x : Nat × Nat} {t : State} (hserves : henServes s = true) (hlog : s.henyen.log = []) (hop : 1 ≤ op) (hop7 : op ≤ 7)
    (hpage : page < 65536) (halign : off % 8 = 0) (hoff : off ≤ 0xFF8) (heffect : regEffect s op page off v = (x, t)) :
    performOp s (op, page, off, v) = emit (noteMirror t) (.regResult x.1 x.2) := by
  rw [performOp_of_alone hserves hlog, regOp_of_defined hop hop7 hpage halign hoff, heffect]

/-- The status of a read is that of a write that clamps nothing. -/
theorem read_status (ready : Bool) : (if ready then 0 else 4) = writeStatus ready false := by cases ready <;> rfl

theorem vfPage_of_page (hpage : page < 65536) : vfPage page = none := if_neg (by omega)

theorem exec_read_of_page (hpage : page < 65536) : exec (.read page off) s = .next (settle (performOp s (opRead, page, off, 0))) :=
  next_settle_congr (by rw [vfPage_of_page hpage])

end

/-- Settles O44: each operation reads or writes as its op says; none is performed while the controller does not serve. -/
theorem registerOperations : Obligations.RegisterOperations := by
  intro s page off v hpage halign hoff
  refine ⟨fun hserves hlog => ⟨?read, ?readLo, ?readHi, ?write, ?writeLo, ?writeHi, ?arm⟩, fun hserves i hi => ?refused⟩
  case read =>
    rw [exec_read_of_page hpage]
    exact next_settle_congr (performOp_of_effect (op := 1) (x := (writeStatus (pageState s page == 1) false, readReg s page off)) (t := s) (v := 0)
      hserves hlog (by decide) (by decide) hpage halign hoff (congrArg (fun st => ((st, readReg s page off), s)) (read_status _)))
  case readLo =>
    exact next_settle_congr (performOp_of_effect (op := 3) (x := (writeStatus (pageState s page == 1) false, readReg s page off % 2 ^ 32)) (t := s) (v := 0)
      hserves hlog (by decide) (by decide) hpage halign hoff (congrArg (fun st => ((st, readReg s page off % 2 ^ 32), s)) (read_status _)))
  case readHi =>
    exact next_settle_congr (performOp_of_effect (op := 4) (x := (writeStatus (pageState s page == 1) false, readReg s page off / 2 ^ 32)) (t := s) (v := 0)
      hserves hlog (by decide) (by decide) hpage halign hoff (congrArg (fun st => ((st, readReg s page off / 2 ^ 32), s)) (read_status _)))
  case write => exact next_settle_congr (performOp_of_effect hserves hlog (by decide) (by decide) hpage halign hoff rfl)
  case writeLo => exact next_settle_congr (performOp_of_effect hserves hlog (by decide) (by decide) hpage halign hoff rfl)
  case writeHi => exact next_settle_congr (performOp_of_effect hserves hlog (by decide) (by decide) hpage halign hoff rfl)
  case arm => exact next_settle_congr (performOp_of_effect hserves hlog (by decide) (by decide) hpage (by decide) (by decide) rfl)
  case refused =>
    simp only [List.mem_cons, List.not_mem_nil, or_false] at hi
    obtain rfl | rfl | rfl | rfl | rfl | rfl | rfl := hi
    case inl => exact (exec_read_of_page hpage).trans (next_settle_congr (performOp_of_unowned hserves _))
    all_goals exact next_settle_congr (performOp_of_unowned hserves _)

/-! ### Pages, messages and events -/

section
variable {s : State}

theorem registerWrite_of_page {page off v : Nat} (hpage : page < 65536) : registerWrite s page off v = (writeReg s page off .both v).1 := by
  rw [registerWrite, vfPage_of_page hpage]

/-- A page that exists and is not down takes page operations. -/
theorem not_down_or_absent {page : Nat} (hup : pageDown s page = false) (hpage : pageExists s page = true) :
    ¬(pageDown s page ∨ !pageExists s page) := by simp [hup, hpage]

theorem lockPage_of_lockable {page i : Nat} {k : Kind} (hkind : pageKind page = some (k, i)) (hlock : k.lockable = true) :
    lockPage s page = setReg s page 0x10 (rawReg s page 0x10 ||| 1) := by
  simp only [lockPage, hkind, hlock, if_true]

theorem mctpReceive_of_message {die transport endpoint : Nat} {bs : List Byte} {m : Nat × List RegOp} (hdie : die < 2) (htransport : transport < 2)
    (hlive : transportLive s die transport = true) (howned : s.eloan.owned = true) (hops : messageOps bs = some m)
    (hroom : Tab.getC 0 s.henyen.buffers (die * 4 + transport) + bs.length ≤ 65536) {b c : State}
    (hb : b = updHen s (fun h => { h with sessions := if h.sessions.contains endpoint then h.sessions else h.sessions ++ [endpoint] }))
    (hc : c = addWrapF (noteMirror (updHen b (fun h => { h with
      buffers := Tab.setC 0 h.buffers (die * 4 + transport) (Tab.getC 0 h.buffers (die * 4 + transport) + bs.length)
      log := h.log ++ [{ die := die, transport := transport, endpoint := endpoint, seq := m.1, ops := m.2, results := [] }] })))
      F.HEN_MCTP_accepted s.henyen.active 1) :
    mctpReceive s die transport endpoint true bs = if henServes c then skipUndefined (loggedOps c) c else c := by
  rw [mctpReceive, if_neg (by simp [Nat.not_le.mpr hdie, Nat.not_le.mpr htransport, hlive])]
  simp only [hops, ← hb, ← hc]
  rw [if_neg (Nat.not_lt.mpr hroom), if_neg (by simp [howned])]

end

/-- Settles O47: writes, page operations, messages and events each take their branch. -/
theorem pagesMessagesAndEvents : Obligations.PagesMessagesAndEvents := by
  refine ⟨fun s page off v hpage => ?write, fun s page hup hpage => ⟨?clamp, ?unstage, fun k i hkind hlock => ?lock⟩,
    fun s die transport endpoint bs m hdie htransport hlive howned hops hroom => ?message, fun s g hdue hruns => ?event,
    fun s hreminds hruns => ?remind⟩
  case write => exact next_settle_congr (registerWrite_of_page hpage)
  case clamp => exact next_settle_congr (if_neg (not_down_or_absent hup hpage))
  case unstage => exact next_settle_congr (if_neg (not_down_or_absent hup hpage))
  case lock => exact next_settle_congr ((if_neg (not_down_or_absent hup hpage)).trans (lockPage_of_lockable hkind hlock))
  case message => exact next_settle_congr (mctpReceive_of_message hdie htransport hlive howned hops hroom rfl rfl)
  case event => exact next_settle_congr (if_pos ⟨hdue, hruns⟩)
  case remind => exact next_settle_congr (if_neg (by simp [hreminds, hruns]))

end Sys2Proof.Machine
end


section
/-! PROOF. The pair of controllers and their updates (O48). -/
namespace Sys2Proof.Machine
open Host

section
variable {s : State}

theorem leaseRenew_of_reached {a b : Bool} (hruns : nth false s.henyen.running s.henyen.active = true) (hreach : (a || b) = true) :
    leaseRenew s [a, b] = updHen s (fun h => { h with
      cells := mapCells h.cells [a, b] (fun c => c / 2 ^ 32 * 2 ^ 32 + (c + 1) % 2 ^ 32), lastRenew := s.now }) := by
  have hany : [a, b].any id = true := by simpa using hreach
  rw [leaseRenew, if_neg (by rw [hruns, hany]; simp)]

theorem leaseSample_of_running {reach : List Bool} (hruns : nth false s.henyen.running (1 - s.henyen.active) = true) :
    leaseSample s reach = updHen s (fun h => { h with
      sampled := ((h.sampled.zip h.cells).zip reach).map (fun x => if x.2 then x.1.2 else x.1.1)
      lastMove := ((h.lastMove.zip (h.sampled.zip h.cells)).zip reach).map (fun x =>
        if x.2 && x.1.2.1 == x.1.2.2 then x.1.1 else s.now) }) := by
  simp only [leaseSample, hruns, if_true]

theorem stepDown_of_late (hruns : nth false s.henyen.running s.henyen.active = true) (hlate : s.henyen.lastRenew + 8000000 ≤ s.now) :
    stepDown s = updHen s (fun h => { h with running := setNth h.running s.henyen.active false }) := by
  rw [stepDown, if_pos (by rw [hruns, decide_eq_true hlate]; rfl)]
  rfl

/-! ### Updates -/

theorem updOperation_of_running (f : State → State) (hruns : s.henyen.updState = 1 ∨ s.henyen.updState = 3) :
    updOperation s f = setF s F.HEN_UPD_STATUS_lost s.henyen.active 1 := if_pos hruns

theorem updOperation_of_idle (f : State → State) (h1 : s.henyen.updState ≠ 1) (h3 : s.henyen.updState ≠ 3) : updOperation s f = f s :=
  if_neg (fun h => h.elim h1 h3)

theorem updLoad_of_bad (h1 : s.henyen.updState ≠ 1) (h3 : s.henyen.updState ≠ 3) (compatible : Bool) (version svn : Nat) :
    updLoad s false compatible version svn = updFails s 1 := by
  rw [updLoad, updOperation_of_idle _ h1 h3]
  exact if_pos (by simp)

/-- A verified image of the peers' classes is loaded when it is new enough. -/
theorem updLoad_of_good (h1 : s.henyen.updState ≠ 1) (h3 : s.henyen.updState ≠ 3) (hclass : updClassOf s ≠ 0) {bs : List Byte}
    (hread : hubRead s (getF s F.HEN_UPD_SRC_addr s.henyen.active * 4096) 4096 = some bs) (compatible : Bool) (version svn : Nat) :
    updLoad s true compatible version svn =
      if svn < fusedMin s (updClassOf s) then updFails s 2
      else updHen s (fun h => { h with
        updState := 2, updCode := 0, loaded := some { cls := updClassOf s, version := version % 2 ^ 32, svn := svn % 2 ^ 16 } }) := by
  have hclass' : (updClassOf s == 0) = false := beq_eq_false_iff_ne.mpr hclass
  rw [updLoad, updOperation_of_idle _ h1 h3]
  simp only [hread, hclass', hclass, Option.isSome_some, Bool.not_true, Bool.false_and, Bool.or_self, Bool.false_eq_true, if_false]

theorem updStart_of_loaded (h1 : s.henyen.updState ≠ 1) (h3 : s.henyen.updState ≠ 3) {i : Image} (hloaded : s.henyen.loaded = some i)
    (hclass : i.cls = updClassOf s) : updStart s = updBegin s i false := by
  rw [updStart, updOperation_of_idle _ h1 h3]
  simp only [hloaded, if_pos hclass]

theorem updRollback_of_previous (h1 : s.henyen.updState ≠ 1) (h3 : s.henyen.updState ≠ 3) {i : Image} (hprevious : s.henyen.previous = some i)
    (hclass : i.cls = updClassOf s) (hsvn : fusedMin s i.cls ≤ i.svn) : updRollback s = updBegin s i true := by
  rw [updRollback, updOperation_of_idle _ h1 h3]
  simp only [hprevious, if_neg (not_not_intro hclass), if_neg (Nat.not_lt.mpr hsvn)]

end

/-- An update operation that is written while another runs is lost. -/
theorem exec_update_lost {s : State} {good compatible : Bool} {version svn : Nat} {i : Instr}
    (hruns : s.henyen.updState = 1 ∨ s.henyen.updState = 3) (hi : i ∈ [Instr.updLoad good compatible version svn, .updStart, .updRollback]) :
    exec i s = .next (settle (setF s F.HEN_UPD_STATUS_lost s.henyen.active 1)) := by
  simp only [List.mem_cons, List.not_mem_nil, or_false] at hi
  obtain rfl | rfl | rfl := hi
  all_goals exact next_settle_congr (updOperation_of_running _ hruns)

/-- Settles O48: leases, takeover, the mirror and updates each take their branch. -/
theorem controllersAndUpdates : Obligations.ControllersAndUpdates := by
  refine ⟨fun s a b hruns hreach => ?renew, fun s a b hruns => ?sample, fun s hruns hlate => ?stepDown, fun s hmay => ?takeover,
    fun s hmirror => ?mirrorLost, fun s good compatible version svn => ⟨fun hruns i hi => exec_update_lost hruns hi,
      fun h1 h3 => ⟨fun hbad => ?bad, fun bs hgood hclass hread => ⟨fun hold => ?old, fun hnew => ?loaded⟩, fun i hloaded hclass => ?start,
        fun i hprevious hclass hsvn => ?rollback⟩⟩⟩
  case renew => exact next_settle_congr (leaseRenew_of_reached hruns hreach)
  case sample => exact next_settle_congr (leaseSample_of_running hruns)
  case stepDown => exact next_settle_congr (stepDown_of_late hruns hlate)
  case takeover => exact next_settle_congr (if_neg (by simp [hmay]))
  case mirrorLost => exact next_settle_congr (if_pos hmirror)
  case bad => exact hbad ▸ next_settle_congr (updLoad_of_bad h1 h3 compatible version svn)
  case old => exact hgood ▸ next_settle_congr ((updLoad_of_good h1 h3 hclass hread compatible version svn).trans (if_pos hold))
  case loaded =>
    exact hgood ▸ next_settle_congr ((updLoad_of_good h1 h3 hclass hread compatible version svn).trans (if_neg (Nat.not_lt.mpr hnew)))
  case start => exact next_settle_congr (updStart_of_loaded h1 h3 hloaded hclass)
  case rollback => exact next_settle_congr (updRollback_of_previous h1 h3 hprevious hclass hsvn)

end Sys2Proof.Machine
end


section
/-! PROOF. The power loops, sensors, droops and calibration slots (O50). -/
namespace Sys2Proof.Machine
open Host

section
variable {s : State} {p : Nat}

/-! ### The duty (R618) -/

theorem powerReport_of_inService {vin amps : Nat} {parts : List Nat} (hsupply : followSupply s = s) {c d : State}
    (hc : c = (List.range 12).foldl (fun a p => partReport a p (min (nth 0 parts p) 65535))
      (setF (setF s F.PWR_PKG_VIN_mv 0 (min vin 65535)) F.PWR_PKG_VIN_amps 0 (min amps 4095)))
    (hd : d = updPkg c (fun k => { k with
      reports := (s.now, pkgPower c) :: k.reports.filter (fun r => decide (s.now < r.1 + 2000000000)) }))
    (hservice : outOfService d = false) : powerReport s vin amps parts = fastLoop d := by
  simp only [powerReport, hsupply, ← hc, ← hd]
  rw [if_neg (by simp [hservice])]

theorem replaceDuty_of_old (hp : p < 12) (hduty : (powerOf s p).duty < 16) (hold : (powerOf s p).dutySince + 200000 ≤ s.now)
    (hclk : 800 ≤ pointMHz (pointNow s p) * (powerOf s p).duty / 16) :
    replaceDuty s p = applyPoints (updPower
      (setCeiling s p .power (min ((pointMHz (pointNow s p) * (powerOf s p).duty / 16 - 800) / 50) (ceiling s p .power))) p
      (fun y => { y with duty := 16, marginSince := none, dutyBy := 0 })) false :=
  if_neg (by omega)

theorem recoverDuty_of_held {t : Nat} (hsince : (powerOf s p).marginSince = some t) (hduty : (powerOf s p).duty < 16)
    (hheld : t + 20000 ≤ s.now) : recoverDuty s p = updPower s p (fun y => { y with duty := 16, marginSince := none, dutyBy := 0 }) := by
  simp only [recoverDuty, hsince]
  rw [if_pos ⟨hduty, hheld⟩]

theorem recoverDuty_of_recent {t : Nat} (hsince : (powerOf s p).marginSince = some t) (hrecent : s.now < t + 20000) :
    recoverDuty s p = s := by
  simp only [recoverDuty, hsince]
  rw [if_neg (by omega)]

/-! ### Droops and slots (R625, R626) -/

section
variable {recent : List Nat} (hrecent : recent = s.now :: (powerOf s p).droops.filter (fun t => decide (s.now < t + 2000000)))
include hrecent

theorem droop_of_few (hp : p < 12) (hup : partUp s p = true) (hfew : recent.length < getF s F.PWR_PART_DROOP_thresh p) :
    droop s p = updPower (addSatF s F.PWR_PART_DROOP_events p 1) p (fun y => { y with droops := recent, lastDroop := s.now }) := by
  unfold droop
  rw [if_neg (by simp [hp, hup])]
  simp [← hrecent, Nat.not_le.mpr hfew]

theorem droop_of_many (hp : p < 12) (hup : partUp s p = true) (hmany : getF s F.PWR_PART_DROOP_thresh p ≤ recent.length)
    (hmargin : (powerOf s p).margin < 10) :
    droop s p = adjustLifts (raise (updPower (addSatF s F.PWR_PART_DROOP_events p 1) p (fun y => { y with
      droops := [], lastDroop := s.now, margin := min 10 (y.margin + 1) })) (pwrPage p) 3) := by
  unfold droop
  rw [if_neg (by simp [hp, hup])]
  simp [← hrecent, hmany, hmargin]

end

theorem calibrate_of_due (hp : p < 12) (hup : partUp s p = true) (hphase : s.tick.phase = 2 * (1000 + 2000 * (p % 3)))
    (hdue : (powerOf s p).slotTime + 2000 * getF s F.PWR_PART_CAL_interval_us p ≤ tickBegan s) :
    calibrate s p = setF (addWrapF (updPower s p (fun y => { y with
      slotDue := none, slotTemp := y.stackTemp, slotTime := s.now })) F.PWR_PART_CAL_slots p 1) F.PWR_PART_CAL_last_tick p (tickNumber s) := by
  unfold calibrate
  rw [if_neg]
  simp [hp, hup, hphase, hdue]

end

/-- Settles O50: each report, check and event takes the branch that its condition names. -/
theorem powerLoopsAndSensors : Obligations.PowerLoopsAndSensors := by
  refine ⟨fun s vin amps parts _ hsupply hservice => ?report, fun s p hp hduty hold hclk => ?replace,
    fun s p t hsince hduty => ⟨fun hheld => ?recover, fun hrecent => ?keep⟩, fun s hpos hwhole => ?sustained,
    fun s c k d => ⟨fun hcool => ?sense, fun hhot => ?tripDie⟩, fun s => ⟨fun hcool => ?thermal, fun hhot => ?thermalDie⟩,
    fun s p hp hup => ⟨fun hfew => ?droop, fun hmany hmargin => ?droopRaises⟩, fun s p hp hmargin hlong => ?decay,
    fun s p hp hup hphase hdue => ?slot⟩
  case report => exact next_settle_congr (powerReport_of_inService hsupply rfl rfl hservice)
  case replace => exact next_settle_congr (replaceDuty_of_old hp hduty hold hclk)
  case recover => exact next_settle_congr (recoverDuty_of_held hsince hduty hheld)
  case keep => exact next_settle_congr (recoverDuty_of_recent hsince hrecent)
  case sustained => exact next_settle_congr (if_pos ⟨hpos, hwhole⟩)
  case sense => exact next_settle_congr (if_neg (Bool.eq_false_iff.mp hcool))
  case tripDie => exact next_settle_congr (if_pos hhot)
  case thermal => exact next_settle_congr (congrArg (applyPoints · false) (if_neg (Bool.eq_false_iff.mp hcool)))
  case thermalDie => exact next_settle_congr (congrArg (applyPoints · false) (if_pos hhot))
  case droop => exact next_settle_congr (droop_of_few rfl hp hup hfew)
  case droopRaises => exact next_settle_congr (droop_of_many rfl hp hup hmany hmargin)
  case decay => exact next_settle_congr (if_neg (by omega))
  case slot => exact next_settle_congr (calibrate_of_due hp hup hphase hdue)

end Sys2Proof.Machine
end

section
/-! PROOF. Supply, clocks and pins (O51): the selection of a reference reads back the preference it wrote. -/
namespace Sys2Proof.Machine
open Host

/-- A hub on reference B with both inputs present, whose register table lists CLK_REF_SEL twice, each time with prefer_b at 1.
No state of the hub is like that (`State.RegsOk` fails), and the statement has no such premise. -/
def doubledRefSel : State :=
  { State.reset with
    regs := [(regKey clkPage F.CLK_REF_SEL_prefer_b.off, 1), (regKey clkPage F.CLK_REF_SEL_prefer_b.off, 1)]
    clocks := { refA := true, refB := true, onB := true } }

/-- Writing the reset value removes the first of the two entries, and the second is read. -/
theorem getF_doubledRefSel : getF (setF doubledRefSel F.CLK_REF_SEL_prefer_b 0 (b2n false)) F.CLK_REF_SEL_prefer_b 0 = 1 := by decide

theorem preferRef_of_kept {s : State} (hprefer : getF s F.CLK_REF_SEL_prefer_b 0 = 1) (hon : s.clocks.onB = true) : preferRef s = s := by
  simp [preferRef, hprefer, hon]

theorem switchRef_onB (s : State) : (switchRef s).clocks.onB = !s.clocks.onB := by simp [switchRef]

/-- Refutes O51: REF_SELECT of input A must switch a hub that runs on B, for every state; in `doubledRefSel`, whose register table
lists CLK_REF_SEL twice, the hub reads its old preference back and stays on B. -/
theorem not_supplyClocksAndPins : ¬ Obligations.SupplyClocksAndPins := by
  rintro ⟨-, hclocks, -⟩
  obtain ⟨-, -, -, hselect, -⟩ := hclocks doubledRefSel false
  have hstays : exec (.refSelect false) doubledRefSel = .next (settle (setF doubledRefSel F.CLK_REF_SEL_prefer_b 0 (b2n false))) :=
    next_settle_congr (preferRef_of_kept getF_doubledRefSel rfl)
  have hswitched := Outcome.next.inj (hstays.symm.trans (hselect rfl (by decide)))
  have honB := congrArg (fun t : State => t.clocks.onB) hswitched
  simp only [settle_clocks, switchRef_onB, setF_clocks] at honB
  exact absurd honB (by decide)

end Sys2Proof.Machine
end


section
/-! PROOF. Domain messages (O52). -/
namespace Sys2Proof.Machine
open Host

section
variable {s : State}

theorem domainChecked_fails {cs : List (Bool × Nat)} (f : State → State) {c : Bool × Nat} (h : cs.find? (fun c => c.1) = some c) :
    domainChecked s cs f = domainAnswer s c.2 := by
  simp only [domainChecked, h]

theorem domainMessage_of_unowned (f : State → State) (hruns : nth false s.henyen.running s.henyen.active = true)
    (howned : s.eloan.owned = false) : domainMessage s f = refuseMessage s := by
  simp [domainMessage, hruns, howned]

/-- A served message ends as its body does. -/
theorem next_domainMessage {f : State → State} {t : State} (hserves : ServesDomain s) (h : f s = t) :
    (Outcome.next (settle (domainMessage s f)) : Outcome State Fault Refusal) = .next (settle t) :=
  next_settle_congr ((domainMessage_serves s f hserves).trans h)

/-! ### FORM and JOIN (R632, R642) -/

/-- The arguments of FORM and JOIN lie in their ranges. -/
theorem badDomain_eq_false {dom hub : Nat} (hdom : dom ≠ 0) (hdomain : dom < 2 ^ 64) (hhub : hub ≤ 1023) : badDomain dom hub = false := by
  simp only [badDomain, beq_eq_false_iff_ne.mpr hdom, decide_eq_false (Nat.not_le.mpr hdomain), decide_eq_false (Nat.not_lt.mpr hhub),
    Bool.or_false]

theorem formDomain_of_joined (dom hub : Nat) (hjoined : joined s = true) : formDomain s dom hub = domainAnswer s domBadState :=
  domainChecked_fails (c := (true, domBadState)) _ (by rw [hjoined]; rfl)

theorem formDomain_of_region (dom hub : Nat) (hjoined : joined s = false) (hregion : anyRegion s = true) :
    formDomain s dom hub = domainAnswer s domBusy :=
  domainChecked_fails (c := (true, domBusy)) _ (by rw [hjoined, hregion]; rfl)

theorem formDomain_of_free {dom hub : Nat} (hjoined : joined s = false) (hregion : anyRegion s = false)
    (hother : otherRecord s hub = false) (hbad : badDomain dom hub = false) :
    formDomain s dom hub = domainAnswer (joinDomain s dom hub true) domSuccess :=
  domainChecked_ok _ _ _ (by rw [hjoined, hregion, hother, hbad]; rfl)

theorem joinMsg_of_free {dom hub : Nat} (hjoined : joined s = false) (hregion : anyRegion s = false)
    (hother : otherRecord s hub = false) (hbad : badDomain dom hub = false) (hrejoin : inRejoin s = false) :
    joinMsg s dom hub = domainAnswer (joinDomain s dom hub false) domSuccess := by
  unfold joinMsg
  rw [domainChecked_ok _ _ _ (by rw [hjoined, hregion, hother, hbad, hrejoin]; rfl), if_neg (by simp [hjoined])]

theorem joinMsg_of_rejoin {dom : Nat} (hrejoin : inRejoin s = true) (hjoined : joined s = true) (hbad : badDomain dom (hubId s) = false) :
    joinMsg s dom (hubId s) = domainAnswer (joinDomain (advanceEpochs s) dom (hubId s) false) domSuccess := by
  unfold joinMsg
  rw [domainChecked_ok _ _ _ (by simp [hjoined, hbad, hrejoin]), if_pos hjoined]

/-! ### SLEEP and WAKE (R643, R644) -/

section
variable {p : Nat} (hp : p < 12)

theorem state_of_partUp (hup : partUp s p = true) : (partition s p).state = .up := by
  simpa [partUp] using hup

include hp

theorem sleepMsg_of_up (hup : partUp s p = true) : sleepMsg s p = sleepNow s p := by
  rw [sleepMsg, if_neg (Nat.not_le.mpr hp), if_neg (by simp [state_of_partUp hup])]

theorem wakeMsg_of_up (hup : partUp s p = true) : wakeMsg s p = wakeNow s p := by
  rw [wakeMsg, if_neg (Nat.not_le.mpr hp), if_neg (by simp [state_of_partUp hup])]

theorem wakeMsg_of_asleep (hasleep : (partition s p).state = .asleep) : wakeMsg s p = wakeNow s p := by
  rw [wakeMsg, if_neg (Nat.not_le.mpr hp), if_neg (by simp [hasleep])]

end

theorem sleepNow_of_idle {p : Nat} (hup : partUp s p = true) (hbusy : partBusy s p = false) :
    sleepNow s p = domainAnswer (updPart (leaveUp s p) p (fun x => { x with state := .asleep })) domSuccess := by
  rw [sleepNow, if_neg (by simp [hbusy]), if_neg (by simp [hup])]
  rfl

theorem wakeNow_of_asleep {p : Nat} (hasleep : (partition s p).state = .asleep) :
    wakeNow s p = { updPart s p (fun x => { x with state := .inReset }) with
      startup := { s.startup with waitingPower := (p, 2) :: s.startup.waitingPower } } :=
  if_neg (by simp [partUp, hasleep])

/-! ### WARM_AREA (R638) -/

theorem warmAreaMsg_of_region {frame r : Nat} (hframe : frame ≠ 0) (hregion : areaRegion s frame = some r) :
    warmAreaMsg s frame = domainAnswer { s with startup := { s.startup with
      warmArea := some (frame, rgnKey (regionEntry s r)), warmA := none, warmB := none } } domSuccess := by
  simp only [warmAreaMsg, hframe, if_false, hregion]

end

/-- Settles O52: each message passes or fails the first check that its condition names. -/
theorem domainMessages : Obligations.DomainMessages := by
  refine ⟨fun s dom hub hserves => ⟨fun hjoined => ?formJoined, fun hjoined hregion => ?formBusy,
      fun hjoined hregion hother hdom hdomain hhub => ⟨?form, fun hrejoin => ?join⟩,
      fun hrejoin hjoined hdom hdomain hself hhub => ?rejoin⟩,
    fun s hserves => ⟨fun hjoined => ?leaveUnjoined, fun hjoined huse => ?leaveBusy, fun hjoined huse => ?leave⟩,
    fun s hub hserves => ⟨fun hhub hother => ?forget, fun hself => ?forgetSelf⟩,
    fun s frame r hserves hframe hregion => ⟨?area, ?cancel⟩,
    fun s p hserves hp => ⟨fun hup hbusy => ?sleep, fun hup hbusy => ?sleepBusy, fun hasleep => ?wake, fun hup => ?wakeUp⟩,
    fun s hruns => ⟨fun howned => ?status, fun howned i hi => ?refused⟩⟩
  case formJoined => exact next_domainMessage hserves (formDomain_of_joined dom hub hjoined)
  case formBusy => exact next_domainMessage hserves (formDomain_of_region dom hub hjoined hregion)
  case form =>
    exact next_domainMessage hserves (formDomain_of_free hjoined hregion hother (badDomain_eq_false hdom hdomain hhub))
  case join =>
    exact next_domainMessage hserves (joinMsg_of_free hjoined hregion hother (badDomain_eq_false hdom hdomain hhub) hrejoin)
  case rejoin =>
    subst hself
    exact next_domainMessage hserves (joinMsg_of_rejoin hrejoin hjoined (badDomain_eq_false hdom hdomain hhub))
  case leaveUnjoined =>
    exact next_domainMessage hserves (domainChecked_fails (c := (true, domBadState)) _ (by rw [hjoined]; rfl))
  case leaveBusy =>
    exact next_domainMessage hserves (domainChecked_fails (c := (true, domBusy)) _ (by rw [hjoined, huse]; rfl))
  case leave => exact next_domainMessage hserves (domainChecked_ok _ _ _ (by rw [hjoined, huse]; rfl))
  case forget => exact next_domainMessage hserves (domainChecked_ok _ _ _ (by simp [hother, hhub]))
  case forgetSelf => exact next_domainMessage hserves (domainChecked_fails (c := (true, domBadArg)) _ (by simp [hself]))
  case area => exact next_domainMessage hserves (warmAreaMsg_of_region hframe hregion)
  case cancel => exact next_domainMessage hserves rfl
  case sleep => exact next_domainMessage hserves ((sleepMsg_of_up hp hup).trans (sleepNow_of_idle hup hbusy))
  case sleepBusy => exact next_domainMessage hserves ((sleepMsg_of_up hp hup).trans (if_pos hbusy))
  case wake => exact next_domainMessage hserves ((wakeMsg_of_asleep hp hasleep).trans (wakeNow_of_asleep hasleep))
  case wakeUp => exact next_domainMessage hserves ((wakeMsg_of_up hp hup).trans (if_pos hup))
  case status => exact next_settle_congr (by simp [statusMsg, hruns, howned])
  case refused =>
    simp only [List.mem_cons, List.not_mem_nil, or_false] at hi
    obtain rfl | rfl | rfl | rfl | rfl | rfl | rfl | rfl | rfl := hi
    case inl => exact next_settle_congr (by simp [statusMsg, hruns, howned])
    all_goals exact next_settle_congr (domainMessage_of_unowned _ hruns howned)

end Sys2Proof.Machine
end


section
/-! PROOF. Start-up, resets (O53) and the reset state (O54). -/
namespace Sys2Proof.Machine
open Host

section
variable {s : State} {failed : List Nat}

/-! ### Cold start (R628 to R630) -/

theorem coldStart_of_slot {channels : List Nat} {slot : Nat} (hsupply : supplyGood s = true) (hphase : s.startup.phase = .starting) {b : State}
    (hb : b = { coldReset s with
      pins := { s.pins with lands := [], vstby := true, coldResetLow := false }, eloan := { fusedEloan s.eloan with mirrorOk := true } })
    (hslot : bestSlot b = some slot) : coldStart s failed channels = bringUp b slot failed channels := by
  unfold coldStart
  rw [if_neg (by simp [hsupply, hphase])]
  simp only [coldReset] at hb ⊢
  simp only [← hb, hslot]

theorem bringUp_phase (s : State) (slot : Nat) (failed channels : List Nat) : (bringUp s slot failed channels).startup.phase = .ready := rfl

/-! ### Warm reset and the return from QUIESCED (R624, R639) -/

theorem warmResetMsg_of_idle (hone : s.henyen.updState ≠ 1) (hthree : s.henyen.updState ≠ 3) :
    warmResetMsg s failed = warmReset (domainAnswer s domSuccess) failed :=
  if_neg (by simp [hone, hthree])

theorem warmResetMsg_of_updating (hone : s.henyen.updState = 1) : warmResetMsg s failed = domainAnswer s domBusy :=
  if_pos (Or.inl hone)

theorem quiesceTime_of_quiesced (hquiesced : s.pkg.state = .quiesced) : quiesceTime s = s :=
  if_neg (by simp [hquiesced])

section
variable {t : Nat} (hquiesced : s.pkg.state = .quiesced) (habove : s.pkg.above114 = some t)
include hquiesced habove

theorem quiescedRestart_of_held (hbelow : s.pkg.below75 = false) (hheld : t + 20000000 ≤ s.now) :
    quiescedRestart s failed = warmReset s failed := by
  simp only [quiescedRestart, quiesceTime_of_quiesced hquiesced, habove]
  rw [if_pos ⟨hquiesced, decide_eq_true hheld, hbelow⟩]

theorem quiescedRestart_of_short (hshort : s.now < t + 20000000) : quiescedRestart s failed = s := by
  simp only [quiescedRestart, quiesceTime_of_quiesced hquiesced, habove]
  rw [if_neg (by simp [hshort])]

end

end

/-- Settles O53: a cold start brings up the reset hub, the two cold resets differ in their pins alone, and warm resets take their branch. -/
theorem startUpAndResets : Obligations.StartUpAndResets := by
  refine ⟨fun s failed channels slot hsupply hphase hslot => ⟨?start, bringUp_phase _ _ _ _⟩, fun s => ⟨settle (coldReset s), ?cold⟩,
    fun s => ⟨fun t h => ?vstby, fun t h => ?pin⟩, fun s failed hserves => ⟨fun hone hthree => ?warm, fun hone => ?busy⟩,
    fun s failed t hquiesced habove hbelow => ⟨fun hheld => ?restart, fun hshort => ?stay⟩⟩
  case start => exact next_settle_congr (coldStart_of_slot hsupply hphase rfl hslot)
  case cold =>
    refine ⟨fun i hi => ?_, rfl, rfl, rfl, rfl, rfl, rfl, rfl, rfl, rfl, rfl, rfl, rfl, rfl, rfl, rfl, rfl, rfl, rfl, rfl⟩
    simp only [List.mem_cons, List.not_mem_nil, or_false] at hi
    obtain rfl | rfl := hi
    · exact ⟨_, rfl, rfl⟩
    · exact ⟨_, rfl, rfl⟩
  case vstby =>
    obtain rfl := Outcome.next.inj h
    rfl
  case pin =>
    obtain rfl := Outcome.next.inj h
    rfl
  case warm => exact next_domainMessage hserves (warmResetMsg_of_idle hone hthree)
  case busy => exact next_domainMessage hserves (warmResetMsg_of_updating hone)
  case restart => exact next_settle_congr (quiescedRestart_of_held hquiesced habove hbelow hheld)
  case stay => exact next_settle_congr (quiescedRestart_of_short hquiesced habove hshort)

/-- Settles O54: every table of the reset state is empty, so each read gives its default. -/
theorem resetLeaves : Obligations.ResetLeaves :=
  ⟨rfl, fun _ => rfl, fun _ _ => rfl, rfl, rfl, fun _ => rfl, fun _ => rfl, fun _ => rfl, fun _ => rfl, rfl, rfl, rfl, rfl, rfl, rfl⟩

end Sys2Proof.Machine
end
